-- ==== Sys2Proof/Word.lean ====
section
/-! DEFINITION. The word types of the machine: registers are 32 bits, pairs and addresses 64, lane masks one bit a
lane (R11 to R14). -/

namespace Sys2Proof

/-- A byte of memory. -/
abbrev Byte := BitVec 8
/-- The bits of one register in one lane (R11). -/
abbrev Word := BitVec 32
/-- A register pair, an address or a 64-bit counter (R12). -/
abbrev DWord := BitVec 64
/-- One bit for each of the 32 lanes: an active mask, a predicate, the carry flags. -/
abbrev Mask := BitVec 32

/-- The lane numbers 0 to 31 in ascending order. -/
abbrev Lane := Fin 32

/-- Every lane set. -/
abbrev Mask.all : Mask := BitVec.allOnes 32

end Sys2Proof
end

