-- ==== Sys2Proof/Syntax.lean ====
section
/-! DEFINITION. The instructions of the machine and the steps of its other agents, one constructor a row of the opcode
table: the 134 instructions of a warp (R25 to R31, R72 to R81) and the 84 steps of the device and the host. -/

namespace Sys2Proof

/-- The guard, the safe-point bit and the hints of every instruction word (R25, R26, R37). -/
structure Ctl where
  /-- GP: the guard predicate, 7 when unguarded. -/
  gp : Fin 8
  /-- GN: the guard is negated. -/
  gn : Bool
  /-- STOP: the instruction is a safe point. -/
  stop : Bool
  /-- STALL: the cycles to the warp's next issue. -/
  stall : Fin 16
  /-- SB: the scoreboard slot, 0 for none. -/
  sb : Fin 8
  /-- YIELD: prefer another warp next. -/
  yield : Bool
  deriving DecidableEq, Repr

/-- A source operand byte, but for predicates (Table 1.5). -/
inductive Opnd where
  | v (r : Fin 64)
  | w (r : Fin 32)
  /-- A read-only special of Table 1.1, numbered from byte 0x60. -/
  | sp (n : Fin 16)
  /-- The byte 0x78: integer 0 or real +0. -/
  | zero
  /-- The byte 0x79: IMM32. -/
  | imm
  /-- An inline constant, its bits [6:0] (R30). -/
  | inl (k : BitVec 7)
  deriving DecidableEq, Repr

/-- A destination operand byte, but for predicates (Table 1.5). -/
inductive Dst where
  | v (r : Fin 64)
  | w (r : Fin 32)
  /-- The byte 0x78: the result is discarded. -/
  | none
  deriving DecidableEq, Repr

/-- One destination and one source. -/
structure D1 where
  d : Dst
  a : Opnd
  deriving DecidableEq, Repr

/-- One destination and two sources. -/
structure D2 where
  d : Dst
  a : Opnd
  b : Opnd
  deriving DecidableEq, Repr

/-- One destination and three sources. -/
structure D3 where
  d : Dst
  a : Opnd
  b : Opnd
  c : Opnd
  deriving DecidableEq, Repr

/-- The format tags that are ever produced (Table 1.3). -/
inductive Tag where
  | undef | i32 | i64 | l8a | l8b | l16 | l32 | l16x2 | l8ax4 | l8bx4 | cb | limb | raw
  deriving DecidableEq, Repr

/-- The arithmetic formats of FMT codes 0 to 6 (R28). Codes 7 and 8 name weight formats that no instruction takes. -/
inductive Fmt where
  | l8a | l8b | l16 | l32 | l16x2 | l8ax4 | l8bx4
  deriving DecidableEq, Repr

/-- The rounding codes (R28). -/
inductive Rnd where
  | rn | rz | sr | dyn
  deriving DecidableEq, Repr

/-- The overflow codes OV (Table 3.3). -/
inductive Ov where
  | dflt | sat | ovf
  deriving DecidableEq, Repr

/-- The comparison codes CMP (Table 3.3). -/
inductive Cmp where
  | eq | ne | lt | le | gt | ge | num | nan
  deriving DecidableEq, Repr

/-- The access widths WID (Table 3.3). -/
inductive Wid where
  | b8 | b16 | b32 | b64 | b128
  deriving DecidableEq, Repr

/-- The scopes (Table 3.3). -/
inductive Scope where
  | core | cluster | die | system
  deriving DecidableEq, Repr

/-- The conversion types TYP (Table 3.3). -/
inductive Typ where
  | l8a | l8b | l16 | l32 | i32 | n32 | i64 | n64 | f32 | f16 | bf16 | e4m3 | e5m2
  deriving DecidableEq, Repr

/-- The operations of ATOM and RED (Table 10.4). -/
inductive AtomOp where
  | iadd | imin | imax | nmin | nmax | and | or | xor | exch | cas | gadd
  deriving DecidableEq, Repr

/-- LPICK's modes (R185). -/
inductive PickMode where
  | idx | up | down | xor
  deriving DecidableEq, Repr

/-- PREDX's forms: three write a predicate, one a register (R187). -/
inductive PredxForm where
  | all (pd : Fin 8) | any (pd : Fin 8) | uni (pd : Fin 8) | map (d : Dst)
  deriving DecidableEq, Repr

/-- REDX's integer operations (R188). -/
inductive RedInt where
  | iadd | imin | imax | and | or | xor
  deriving DecidableEq, Repr

/-- REDX's operation with the modifiers of its layout (R188). -/
inductive RedOp where
  | int (k : RedInt) (wide unsigned : Bool)
  | gadd (fmt : Fmt) (rnd : Rnd)
  | gmin (fmt : Fmt)
  | gmax (fmt : Fmt)
  deriving DecidableEq, Repr

/-- A dependence counter that a command names, if any (Table 3.3, DEP). -/
abbrev Dep := Option (BitVec 12)

/-! ### Names of the device's parts, for the steps of its other agents -/

/-- A core of the die: cluster × 48 + core (R2). -/
abbrev CoreIx := Fin 384
/-- A cluster (R2). -/
abbrev ClusterIx := Fin 8
/-- A warp slot of a core (R152). -/
abbrev SlotIx := Fin 64
/-- A function of port 0: the PF is 0, VF v is v (R408). -/
abbrev FnIx := Fin 9
/-- A port (R402). -/
abbrev PortIx := Fin 6
/-- A context number (R408). -/
abbrev CtxIx := BitVec 12

/-- A command ring: its function and its number (R411). -/
structure RingIx where
  fn : FnIx
  ring : Fin 16
  deriving DecidableEq, Repr

/-- The first 24 bytes of a host packet, but for TYPE and SUB (R412). -/
structure PktHdr where
  ctx : CtxIx
  barrier : Bool
  caddr : DWord
  cval : Word
  deriving DecidableEq, Repr

/-- The warp that a FANSWER names (R415). -/
structure AnswerTo where
  ctx : CtxIx
  taskh : BitVec 16
  cluster : BitVec 3
  core : BitVec 6
  slot : BitVec 6
  deriving DecidableEq, Repr

/-- The scope of a DBGCTL write: a context, a task handle or 0xFFFF, a warp index or 0xFFFF (R415). -/
structure DebugScope where
  ctx : CtxIx
  taskh : BitVec 16
  warp : BitVec 16
  deriving DecidableEq, Repr

/-- Where an inbound request arrives (Table 19.2). -/
inductive InPath where
  | pf | vf (v : Fin 8) | peer (p : Fin 5)
  deriving DecidableEq, Repr

/-- The AtomicOps that a port completes (Table 19.1). -/
inductive InAtomic where
  | fetchAdd (a : DWord) | swap (a : DWord) | cas (cmp new : DWord)
  deriving DecidableEq, Repr

/-- One instruction of a warp, or one step of another agent. Fields follow the order of the word: DST, SRCA, SRCB,
SRCC; a field the row leaves unused is absent. `c` holds the guard and hints, `imm` is IMM32, `off` a displacement. -/
inductive Instr where
  -- Control group, Table 3.4
  | nop (c : Ctl)
  | bra (c : Ctl) (off : Word)
  | brx (c : Ctl) (a : Opnd) (imm : Word)
  | callDirect (c : Ctl) (d : Dst) (off : Word)
  | callIndirect (c : Ctl) (d : Dst) (a : Opnd) (imm : Word)
  | ret (c : Ctl) (a : Opnd) (imm : Word)
  | rcv (c : Ctl) (off : Word)
  | exit (c : Ctl)
  | yield (c : Ctl)
  | trap (c : Ctl) (code : BitVec 16)
  | rte (c : Ctl)
  | brk (c : Ctl) (code : BitVec 16)
  | pfi (c : Ctl) (lines : Fin 4) (off : Word)
  | waitc (c : Ctl) (ld st cp tl : BitVec 6)
  | sleep (c : Ctl) (cycles : BitVec 24)
  -- Integer group, Table 3.5
  | iadd (c : Ctl) (o : D2) (imm : Word) (w n sat : Bool)
  | isub (c : Ctl) (o : D2) (imm : Word) (w n sat : Bool)
  | imul (c : Ctl) (o : D2) (imm : Word) (w : Bool)
  | imulh (c : Ctl) (o : D2) (imm : Word) (w n : Bool)
  | imad (c : Ctl) (o : D3) (imm : Word) (w : Bool)
  | imin (c : Ctl) (o : D2) (imm : Word) (w n : Bool)
  | imax (c : Ctl) (o : D2) (imm : Word) (w n : Bool)
  | iabs (c : Ctl) (o : D1) (imm : Word) (w sat : Bool)
  | ineg (c : Ctl) (o : D1) (imm : Word) (w sat : Bool)
  | shl (c : Ctl) (o : D2) (imm : Word) (w : Bool)
  | shr (c : Ctl) (o : D2) (imm : Word) (w : Bool)
  | sar (c : Ctl) (o : D2) (imm : Word) (w : Bool)
  | rot (c : Ctl) (o : D2) (imm : Word) (w : Bool)
  | and (c : Ctl) (o : D2) (imm : Word) (w : Bool)
  | or (c : Ctl) (o : D2) (imm : Word) (w : Bool)
  | xor (c : Ctl) (o : D2) (imm : Word) (w : Bool)
  | not (c : Ctl) (o : D1) (imm : Word) (w : Bool)
  | bfn3 (c : Ctl) (o : D3) (table : BitVec 8) (w : Bool)
  | popc (c : Ctl) (o : D1) (imm : Word) (w : Bool)
  | clz (c : Ctl) (o : D1) (imm : Word) (w : Bool)
  | brev (c : Ctl) (o : D1) (imm : Word) (w : Bool)
  | bfe (c : Ctl) (o : D3) (imm : Word) (n : Bool)
  | bfi (c : Ctl) (o : D3) (imm : Word)
  | icmp (c : Ctl) (pd : Fin 8) (a b : Opnd) (imm : Word) (w n : Bool) (cmp : Cmp)
  | pcomb (c : Ctl) (pd pa pb pc : Fin 8) (table : BitVec 8)
  | sel (c : Ctl) (o : D2) (p : Fin 8) (imm : Word) (w : Bool)
  | mov (c : Ctl) (o : D1) (imm : Word) (w : Bool)
  | lea (c : Ctl) (o : D2) (imm : Word) (n : Bool) (shift : Fin 8)
  | retag (c : Ctl) (tag : Tag) (o : D1) (imm : Word)
  -- Real group, Table 3.6
  | gadd (c : Ctl) (o : D2) (imm : Word) (fmt : Fmt) (rnd : Rnd) (ov : Ov)
  | gsub (c : Ctl) (o : D2) (imm : Word) (fmt : Fmt) (rnd : Rnd) (ov : Ov)
  | gmul (c : Ctl) (o : D2) (imm : Word) (fmt : Fmt) (ov : Ov)
  | gdiv (c : Ctl) (o : D2) (imm : Word) (fmt : Fmt) (ov : Ov)
  | gmad (c : Ctl) (o : D3) (imm : Word) (fmt : Fmt) (rnd : Rnd) (ov : Ov)
  | gsqrt (c : Ctl) (o : D1) (imm : Word) (fmt : Fmt)
  | grsq (c : Ctl) (o : D1) (imm : Word) (fmt : Fmt) (rnd : Rnd) (ov : Ov)
  | grcp (c : Ctl) (o : D1) (imm : Word) (fmt : Fmt) (ov : Ov) (msk : Bool)
  | gmin (c : Ctl) (o : D2) (imm : Word) (fmt : Fmt)
  | gmax (c : Ctl) (o : D2) (imm : Word) (fmt : Fmt)
  | gabs (c : Ctl) (o : D1) (imm : Word) (fmt : Fmt)
  | gneg (c : Ctl) (o : D1) (imm : Word) (fmt : Fmt)
  | gscale (c : Ctl) (o : D2) (imm : Word) (fmt : Fmt) (ov : Ov)
  | gpow (c : Ctl) (o : D2) (imm : Word) (fmt : Fmt) (ov : Ov)
  | gcmp (c : Ctl) (pd : Fin 8) (a b : Opnd) (imm : Word) (fmt : Fmt) (cmp : Cmp)
  | gclass (c : Ctl) (o : D1) (imm : Word) (fmt : Fmt)
  | gexp2 (c : Ctl) (o : D3) (imm : Word) (fmt : Fmt) (rnd : Rnd) (ov : Ov) (msk : Bool)
  | glog2 (c : Ctl) (o : D1) (imm : Word) (fmt : Fmt) (rnd : Rnd) (ov : Ov)
  | gtanh (c : Ctl) (o : D1) (imm : Word) (fmt : Fmt) (rnd : Rnd) (ov : Ov)
  | gsig (c : Ctl) (o : D1) (imm : Word) (fmt : Fmt) (rnd : Rnd) (ov : Ov)
  | wstep (c : Ctl) (o : D3) (imm : Word) (fmt : Fmt) (rnd : Rnd) (ov : Ov)
  | wmerge (c : Ctl) (o : D3) (imm : Word) (fmt : Fmt) (rnd : Rnd) (ov : Ov)
  -- Conversion and lane groups, Table 3.7
  | cvt (c : Ctl) (o : D1) (dst src : Typ) (rnd : Rnd) (ov : Ov)
  | pack (c : Ctl) (o : D3) (imm : Word) (fmt : Fmt) (half : Bool)
  | unpk (c : Ctl) (o : D1) (imm : Word) (fmt : Fmt) (elem : Fin 4)
  | lpick (c : Ctl) (o : D2) (imm : Word) (mode : PickMode) (w : Bool)
  | bfly (c : Ctl) (d a b : Fin 64) (k : Fin 5)
  | predx (c : Ctl) (form : PredxForm) (pa : Fin 8)
  | redx (c : Ctl) (o : D1) (imm : Word) (op : RedOp)
  | elect (c : Ctl) (pd : Fin 8)
  -- Limb, band and task groups, Table 3.8
  | bind (c : Ctl) (seg : Fin 5) (first : Fin 64) (count : BitVec 7)
  | unbind (c : Ctl) (first : Fin 64) (count : BitVec 7)
  | chadd (c : Ctl) (d a b : Fin 64) (ci : Bool)
  | chsub (c : Ctl) (d a b : Fin 64) (ci : Bool)
  | chmad (c : Ctl) (d a : Fin 64) (b : Opnd) (e : Fin 64) (imm : Word) (ci : Bool)
  | chshl (c : Ctl) (d a : Fin 64) (b : Opnd) (imm : Word)
  | chshr (c : Ctl) (d a : Fin 64) (b : Opnd) (imm : Word) (arith : Bool)
  | chcmp (c : Ctl) (pd : Fin 8) (a b : Fin 64) (cmp : Cmp)
  | chneg (c : Ctl) (d a : Fin 64)
  | chld (c : Ctl) (d : Fin 64) (a : Opnd) (off : Word)
  | chst (c : Ctl) (a : Opnd) (b : Fin 64) (off : Word)
  | chmvc (c : Ctl) (d : Dst) (carryIn : Bool)
  | join (c : Ctl) (d : Fin 32) (a : Opnd) (imm : Word)
  | leave (c : Ctl)
  | bar (c : Ctl)
  | barv (c : Ctl) (any : Bool) (pd pa : Fin 8)
  | spawn (c : Ctl) (a : Opnd) (imm : Word)
  | depdec (c : Ctl) (a b : Opnd) (imm : Word)
  -- Memory group, Table 3.9
  | ldg (c : Ctl) (d : Dst) (a : Opnd) (off : Word) (ty : Option Tag) (wid : Wid)
  | stg (c : Ctl) (a b : Opnd) (stat : Option Opnd) (off : Word) (ty : Option Tag) (wid : Wid)
  | lds (c : Ctl) (d : Dst) (a : Opnd) (off : Word) (ty : Option Tag) (wid : Wid)
  | sts (c : Ctl) (a b : Opnd) (off : Word) (ty : Option Tag) (wid : Wid)
  | ldv (c : Ctl) (d : Dst) (a : Opnd) (off : Word) (ty : Option Tag) (wid : Wid) (scope : Scope)
  | atom (c : Ctl) (o : D3) (off : Word) (op : AtomOp) (wid : Wid) (scope : Scope) (sp : Bool)
  | red (c : Ctl) (a b : Opnd) (off : Word) (op : AtomOp) (wid : Wid) (scope : Scope) (sp : Bool)
  | monitor (c : Ctl) (a : Opnd) (off : Word)
  | waitmon (c : Ctl) (timeout : Word)
  | fenceAcq (c : Ctl) (scope : Scope)
  | fenceRel (c : Ctl) (scope : Scope)
  | fenceAr (c : Ctl) (scope : Scope)
  | pfd (c : Ctl) (toL1 : Bool) (a : Opnd) (off : Word)
  | bankcfgCache (c : Ctl) (a : Opnd)
  | bankcfgScratchpad (c : Ctl) (a : Opnd)
  | bankcfgFifo (c : Ctl) (a : Opnd) (e : Fin 8)
  | rmapMap (c : Ctl) (a b e : Opnd) (imm : Word)
  | rmapUnmap (c : Ctl) (a : Opnd) (imm : Word)
  -- Copy, matrix, statistics and system groups, Table 3.9
  | cpyGl (c : Ctl) (a b e : Opnd) (dep : Dep)
  | cpyLg (c : Ctl) (a b e : Opnd) (dep : Dep)
  | cpyGf (c : Ctl) (a b e : Opnd) (dep : Dep)
  | cpyGg (c : Ctl) (a e : Opnd) (dep : Dep)
  | cpym (c : Ctl) (a b e : Opnd) (dep : Dep)
  | publish (c : Ctl) (a : Opnd) (imm : Word)
  | lrinv (c : Ctl) (a : Opnd) (imm : Word)
  | lrinvAll (c : Ctl)
  | cbacq (c : Ctl) (d : Dst) (a : Opnd) (imm : Word)
  | cbrel (c : Ctl) (a : Opnd) (imm : Word)
  | mmaGlob (c : Ctl) (a : Opnd) (imm : Word)
  | mmaLoc (c : Ctl) (a : Opnd) (imm : Word)
  | mdrain (c : Ctl) (a b e : Opnd) (dep : Dep)
  | mzero (c : Ctl) (a b : Opnd) (imm : Word)
  | tbld (c : Ctl) (a b : Opnd) (imm : Word)
  | qnt (c : Ctl) (o : D2) (ws : Fin 32) (imm : Word) (fmt : Fmt) (rnd : Rnd)
  | statrd (c : Ctl) (d : Dst) (a : Opnd) (word : Fin 64)
  | statrst (c : Ctl) (a : Opnd) (imm : Word)
  | statmrg (c : Ctl) (a b : Opnd) (dep : Dep)
  | mfs (c : Ctl) (d : Dst) (reg : BitVec 12)
  | mts (c : Ctl) (a : Opnd) (reg : BitVec 12)
  | cntr (c : Ctl) (d : Dst) (index : BitVec 16)
  | timeClock (c : Ctl) (d : Dst)
  | timePtp (c : Ctl) (d : Dst)
  -- Steps of the memory system and the engines
  | safePointHalt (core : CoreIx) (slot : SlotIx)
  | loadCompletion (core : CoreIx) (slot : SlotIx) (i : Nat)
  | storeCompletion (core : CoreIx) (slot : SlotIx) (i : Nat)
  | ifetchFillComplete (core : CoreIx) (i : Nat)
  | tlbWalkComplete (i : Nat)
  | copyAccept (core : CoreIx)
  | cbReserve (cluster : ClusterIx) (i : Nat)
  | copyCompletion (cluster : ClusterIx) (i : Nat) (order : List Nat)
  | copyError (cluster : ClusterIx) (i : Nat) (order : List Nat)
  | cpymDrain (cluster : ClusterIx) (i : Nat)
  | windowRingRetry (cluster : ClusterIx) (i : Nat)
  | publishPoint (core : CoreIx) (slot : SlotIx)
  | matrixOpStart (core : CoreIx)
  | matrixOpCompletion (core : CoreIx)
  | matrixOpError (core : CoreIx)
  | tbldExecute (core : CoreIx)
  | tablePull (core : CoreIx)
  | tsrUpdate (i : Nat)
  -- Steps of the schedulers
  | dependenceDecrement (cluster : ClusterIx) (i : Nat)
  | taskPlacement (cluster : ClusterIx) (task : Nat) (cores : List (Fin 48))
  | bindRecordDispatch (core : CoreIx) (slot : SlotIx)
  | holdRelease (cluster : ClusterIx) (task : Nat)
  | taskCompletion (cluster : ClusterIx) (task : Nat)
  | stealRequest (thief victim : ClusterIx) (want : Nat)
  | stealRequestReceive (victim : ClusterIx) (tasks : List Nat)
  | sorediumPacket (thief : ClusterIx) (i : Nat)
  | stealReply (thief : ClusterIx)
  | pageResident (i : Nat)
  | monitorTrigger (i : Nat)
  | waitmonTimeout (core : CoreIx) (slot : SlotIx)
  | sleepExpiry (core : CoreIx) (slot : SlotIx)
  | faultRecordDelivery (cluster : ClusterIx)
  | preemptContext (cluster : ClusterIx) (ctx : CtxIx)
  | restoreContext (cluster : ClusterIx) (ctx : CtxIx)
  | preemptTimeout (cluster : ClusterIx) (ctx : CtxIx)
  | eccError (pa : Nat)
  -- Host packets (Table 19.5)
  | launch (q : RingIx) (h : PktHdr) (tcb : DWord)
  | signalWrite (q : RingIx) (h : PktHdr) (addr value : DWord)
  | signalAdd (q : RingIx) (h : PktHdr) (addr value : DWord)
  | waitGe (q : RingIx) (h : PktHdr) (addr value : DWord)
  | waitEq (q : RingIx) (h : PktHdr) (addr value : DWord)
  | waitPoll (q : RingIx)
  | traceStart (q : RingIx) (h : PktHdr) (base : DWord) (bytes : Word) (k j : Byte) (cats : DWord)
  | traceStop (q : RingIx) (h : PktHdr)
  | mapPages (q : RingIx) (h : PktHdr) (va : DWord) (count : Word)
  | mapExec (q : RingIx) (h : PktHdr) (va : DWord) (count codeId : Word) (interlocked : Bool)
  | mapCode (q : RingIx) (h : PktHdr) (va : DWord) (codeId : Word) (interlocked : Bool)
  | mapKey (q : RingIx) (h : PktHdr) (keySlot : BitVec 16) (pa : DWord)
  | mapContext (q : RingIx) (h : PktHdr) (number : BitVec 16) (pa : DWord)
  | mapFuse (q : RingIx) (h : PktHdr) (cls target : Byte)
  | unmapPages (q : RingIx) (h : PktHdr) (va : DWord) (count : Word)
  | unmapExec (q : RingIx) (h : PktHdr) (va : DWord) (count : Word)
  | unmapCode (q : RingIx) (h : PktHdr) (codeId : Word)
  | unmapKey (q : RingIx) (h : PktHdr) (keySlot : BitVec 16)
  | unmapContext (q : RingIx) (h : PktHdr) (number : BitVec 16)
  | statMerge (q : RingIx) (h : PktHdr) (src dst : Word)
  -- Register pages, inbound requests, ports, power and counters
  | ringDoorbell (q : RingIx) (tail : Word)
  | fanswerResume (fn : FnIx) (who : AnswerTo)
  | fanswerSkip (fn : FnIx) (who : AnswerTo) (hskip : Mask)
  | fanswerKill (fn : FnIx) (who : AnswerTo)
  | dbgctlHalt (fn : FnIx) (scope : DebugScope)
  | dbgctlResume (fn : FnIx) (scope : DebugScope)
  | dbgctlStep (fn : FnIx) (scope : DebugScope)
  | dbgctlBpsync (fn : FnIx) (scope : DebugScope)
  | ptpofsWrite (fn : FnIx) (ns : DWord)
  | ptprateWrite (fn : FnIx) (rate : Word)
  | pwrlimWrite (fn : FnIx) (watts : Word)
  | fwlockWrite (fn : FnIx) (value : Word)
  | registerWrite (fn : FnIx) (offset : Nat) (value : DWord)
  | inboundRead (path : InPath) (offset : Nat) (bytes : Nat)
  | inboundWrite (path : InPath) (offset : Nat) (data : List Byte)
  | inboundAtomic (path : InPath) (offset : Nat) (wide : Bool) (op : InAtomic)
  | configRequest (port : PortIx)
  | portDown (port : PortIx)
  | portUp (port : PortIx)
  | coldReset (failsAt : Option (Fin 7)) (trained : BitVec 6)
  | junctionTrip
  | powerClampSample (watts celsius : Nat)
  | firmwareWatchdogReset (firmwareCore : Fin 9)
  | counterPageRefresh (fn : FnIx)
  | counterGroupRotation
  | pcSample (core : CoreIx)
  | waitmonUnpromptedEnd (core : CoreIx) (slot : SlotIx)
  | zeroLengthReadCompletion (port : PortIx)
  deriving DecidableEq, Repr

end Sys2Proof
end

