-- ==== Sys2Proof/WellFormed.lean ====
section
/-! DEFINITION. Which instructions are well-formed: the conditions of R27 to R31 and R72 to R81 that concern the
instruction alone, said over the syntax. The scanner's checks in Decode.lean say them over the word. -/

namespace Sys2Proof

/-- A source of class e (R72): an even register naming a pair, or a constant. -/
def Opnd.isPair : Opnd → Bool
  | .v r => r.val % 2 == 0
  | .w r => r.val % 2 == 0
  | .sp _ => false
  | _ => true

/-- A source that names four registers: a register that is a multiple of 4, or a constant (Table 3.3, WID 4). -/
def Opnd.isQuad : Opnd → Bool
  | .v r => r.val % 4 == 0
  | .w r => r.val % 4 == 0
  | .sp _ => false
  | _ => true

/-- A per-lane source: a v register, %lane or %carry (R74). -/
def Opnd.perLane : Opnd → Bool
  | .v _ => true
  | .sp n => n.val == 0 || n.val == 7
  | _ => false

/-- A source of class q (R72). -/
def Opnd.isUniform (a : Opnd) : Bool := !a.perLane

/-- A destination of class e: an even register naming a pair (R12). -/
def Dst.isPair : Dst → Bool
  | .v r => r.val % 2 == 0
  | .w r => r.val % 2 == 0
  | .none => false

/-- A destination that names as many registers as a load of width `wid` writes, or discards them (R138). -/
def Dst.fitsWid (d : Dst) (wid : Wid) : Bool :=
  let m := match wid with | .b64 => 2 | .b128 => 4 | _ => 1
  match d with
  | .v r => r.val % m == 0
  | .w r => r.val % m == 0
  | .none => true

/-- A store's data source names as many registers as its width moves (R138). -/
def Opnd.fitsWid (a : Opnd) : Wid → Bool
  | .b64 => a.isPair
  | .b128 => a.isQuad
  | _ => true

/-- A field marked * : a pair under W (R73). -/
def Opnd.star (w : Bool) (a : Opnd) : Bool := !w || a.isPair

/-- A destination marked * : a pair under W (R73). -/
def Dst.star (w : Bool) (d : Dst) : Bool := !w || d.isPair

/-- R74: with a w destination every source is uniform. -/
def Dst.uniformRule (d : Dst) (srcs : List Opnd) : Bool :=
  match d with
  | .w _ => srcs.all Opnd.isUniform
  | _ => true

/-- R27: IMM32 is zero unless an operand byte 0x79 reads it. -/
def immRead (imm : Word) (srcs : List Opnd) : Bool := imm == 0 || srcs.any (· == .imm)

/-- R31: an instruction with a purpose of its own for IMM32 takes no operand byte 0x79. -/
def noImm (srcs : List Opnd) : Bool := srcs.all (· != .imm)

/-- The width of a format's code in bits (R45, R48). -/
def Fmt.bits : Fmt → Nat
  | .l8a | .l8b => 8
  | .l16 => 16
  | _ => 32

/-- The element format of a packed format (R48). -/
def Fmt.elem : Fmt → Fmt
  | .l16x2 => .l16
  | .l8ax4 => .l8a
  | .l8bx4 => .l8b
  | f => f

/-- FMT codes 4 to 6. -/
def Fmt.isPacked : Fmt → Bool
  | .l16x2 | .l8ax4 | .l8bx4 => true
  | _ => false

/-- R30, R31: an inline constant or IMM32 read as a real lies within the format. -/
def Opnd.realOk (fmt : Fmt) (imm : Word) : Opnd → Bool
  | .inl k =>
    let e := k.toNat % 64
    match fmt.elem with
    | .l8a => 27 ≤ e && e ≤ 34
    | .l8b => 23 ≤ e && e ≤ 38
    | _ => true
  | .imm => imm.toNat < 2 ^ fmt.bits
  | _ => true

/-- The log formats as conversion types (TYP 0 to 3). -/
def Typ.fmt? : Typ → Option Fmt
  | .l8a => some .l8a
  | .l8b => some .l8b
  | .l16 => some .l16
  | .l32 => some .l32
  | _ => none

/-- TYP 6 and 7. -/
def Typ.is64 : Typ → Bool
  | .i64 | .n64 => true
  | _ => false

/-- TYP 8 to 12. -/
def Typ.isIeee : Typ → Bool
  | .f32 | .f16 | .bf16 | .e4m3 | .e5m2 => true
  | _ => false

/-- TYP 4 to 7. -/
def Typ.isInt : Typ → Bool
  | .i32 | .n32 | .i64 | .n64 => true
  | _ => false

/-- The width that a typed load or store moves (R81); none for the tags that no VAR names. -/
def Tag.wid? : Tag → Option Wid
  | .l8a | .l8b => some .b8
  | .l16 => some .b16
  | .i64 => some .b64
  | .undef | .raw => none
  | _ => some .b32

/-- The format of a log tag. -/
def Tag.fmt? : Tag → Option Fmt
  | .l8a => some .l8a
  | .l8b => some .l8b
  | .l16 => some .l16
  | .l32 => some .l32
  | .l16x2 => some .l16x2
  | .l8ax4 => some .l8ax4
  | .l8bx4 => some .l8bx4
  | _ => none

/-- R81: a typed VAR agrees with WID. -/
def typeWid (ty : Option Tag) (wid : Wid) : Bool :=
  match ty with
  | none => true
  | some t => t.wid? == some wid

/-- An inline constant (Table 1.5). -/
def Opnd.isInline : Opnd → Bool
  | .inl _ => true
  | _ => false

/-- R30, R31: store data given as a constant lies within the format that VAR names (R138), and is no inline constant
under CB. -/
def storeConst (ty : Option Tag) (b : Opnd) : Bool :=
  match ty with
  | some .cb => !b.isInline
  | ty => (ty.bind Tag.fmt?).all fun f => b.realOk f 0

/-- The first register and a count of a limb chain (R200). -/
def chainOk (first : Fin 64) (count : BitVec 7) : Bool :=
  1 ≤ count.toNat && count.toNat ≤ 64 && first.val + count.toNat ≤ 64

/-- An integer instruction of two sources. -/
def D2.int (o : D2) (imm : Word) (w wb : Bool) : Bool :=
  o.d.star w && o.a.star w && o.b.star wb && o.d.uniformRule [o.a, o.b] && immRead imm [o.a, o.b]

/-- An integer instruction of one source. -/
def D1.int (o : D1) (imm : Word) (wd wa : Bool) : Bool :=
  o.d.star wd && o.a.star wa && o.d.uniformRule [o.a] && immRead imm [o.a]

/-- An integer instruction of three sources. -/
def D3.int (o : D3) (imm : Word) (w : Bool) : Bool :=
  o.d.star w && o.a.star w && o.b.star w && o.c.star w && o.d.uniformRule [o.a, o.b, o.c] &&
    immRead imm [o.a, o.b, o.c]

/-- A real instruction of one source. -/
def D1.real (o : D1) (imm : Word) (fmt : Fmt) : Bool := o.int imm false false && o.a.realOk fmt imm

/-- A real instruction of two sources. -/
def D2.real (o : D2) (imm : Word) (fmt : Fmt) : Bool :=
  o.int imm false false && o.a.realOk fmt imm && o.b.realOk fmt imm

/-- A real instruction of three sources. -/
def D3.real (o : D3) (imm : Word) (fmt : Fmt) : Bool :=
  o.int imm false && o.a.realOk fmt imm && o.b.realOk fmt imm && o.c.realOk fmt imm

/-- A source pair of an instruction whose IMM32 is zero (R27). -/
def pairOnly (imm : Word) (a : Opnd) : Bool := a.isPair && imm == 0

/-- A comparison code of an integer comparison (Table 3.3). -/
def Cmp.isInt : Cmp → Bool
  | .num | .nan => false
  | _ => true

/-- FMT 0 to 3. -/
def Fmt.isScalar (f : Fmt) : Bool := !f.isPacked

/-- FMT 2 and 3 (WSTEP, WMERGE). -/
def Fmt.isWide : Fmt → Bool
  | .l16 | .l32 => true
  | _ => false

/-- A system register that MFS may name in some code object (Table 5.5). -/
def mfsOk (reg : BitVec 12) : Bool :=
  let n := reg.toNat
  n ≤ 2 || (0x100 ≤ n && n < 0x200) || 0x800 ≤ n

/-- A system register that MTS may name in some code object (Table 5.5, R366); POOLFREE is only read (R177). -/
def mtsOk (reg : BitVec 12) : Bool :=
  let n := reg.toNat
  n == 0 || (0x1D0 ≤ n && n ≤ 0x1DC) || n == 0x1F0 || n == 0x1F1 || (0x800 ≤ n && n != 0x80A)

/-- The widths and forms of ATOM and RED (R81, R265). -/
def atomOk (op : AtomOp) (wid : Wid) : Bool :=
  match wid with
  | .b16 | .b32 => true
  | .b64 => op != .gadd
  | _ => false

/-- The address of ATOM and RED: a pair, or a scratchpad address with FLAG = 1 (R265). -/
def atomAddr (sp : Bool) (a : Opnd) : Bool := sp || a.isPair

/-- The conditions that an instruction meets on its own. -/
def Instr.wf : Instr → Bool
  | .nop _ | .bra _ _ | .rcv _ _ | .exit _ | .yield _ | .trap _ _ | .rte _ | .brk _ _ | .pfi _ _ _
  | .waitc _ _ _ _ _ | .sleep _ _ => true
  | .brx _ a imm | .ret _ a imm => pairOnly imm a
  | .callDirect _ d _ => d.isPair
  | .callIndirect _ d a imm => d.isPair && pairOnly imm a && d.uniformRule [a]
  | .iadd _ o imm w _ _ | .isub _ o imm w _ _ => o.int imm w w
  | .imul _ o imm w => o.int imm w w
  | .imulh _ o imm w _ | .imin _ o imm w _ | .imax _ o imm w _ => o.int imm w w
  | .imad _ o imm w => o.int imm w
  | .iabs _ o imm w _ | .ineg _ o imm w _ => o.int imm w w
  | .shl _ o imm w | .shr _ o imm w | .sar _ o imm w | .rot _ o imm w => o.int imm w false
  | .and _ o imm w | .or _ o imm w | .xor _ o imm w => o.int imm w w
  | .not _ o imm w | .brev _ o imm w | .mov _ o imm w => o.int imm w w
  | .bfn3 _ o _ w => o.int 0 w && noImm [o.a, o.b, o.c]
  | .popc _ o imm w | .clz _ o imm w => o.int imm false w
  | .bfe _ o imm _ | .bfi _ o imm => o.int imm false
  | .icmp _ _ a b imm w _ cmp => a.star w && b.star w && immRead imm [a, b] && cmp.isInt
  | .pcomb _ _ _ _ _ _ => true
  | .sel _ o _ imm w => o.int imm w w
  | .lea _ o imm _ _ => o.d.isPair && o.a.isPair && o.d.uniformRule [o.a, o.b] && immRead imm [o.a, o.b]
  | .retag _ tag o imm => tag != .undef && o.int imm (tag == .i64) (tag == .i64)
  | .gadd _ o imm fmt _ _ | .gsub _ o imm fmt _ _ | .gmul _ o imm fmt _ | .gdiv _ o imm fmt _
  | .gmin _ o imm fmt | .gmax _ o imm fmt => o.real imm fmt
  | .gmad _ o imm fmt _ _ | .gexp2 _ o imm fmt _ _ _ => o.real imm fmt
  | .gsqrt _ o imm fmt | .gabs _ o imm fmt | .gneg _ o imm fmt | .grsq _ o imm fmt _ _ | .grcp _ o imm fmt _ _
  | .glog2 _ o imm fmt _ _ | .gtanh _ o imm fmt _ _ | .gsig _ o imm fmt _ _ => o.real imm fmt
  | .gscale _ o imm fmt _ | .gpow _ o imm fmt _ => o.int imm false false && o.a.realOk fmt imm
  | .gcmp _ _ a b imm fmt _ => fmt.isScalar && a.realOk fmt imm && b.realOk fmt imm && immRead imm [a, b]
  | .gclass _ o imm fmt => fmt.isScalar && o.real imm fmt
  | .wstep _ o imm fmt _ _ =>
    fmt.isWide && o.d.isPair && o.a.isPair && o.d.uniformRule [o.a, o.b, o.c] && immRead imm [o.a, o.b, o.c] &&
      o.a.realOk fmt imm && o.b.realOk fmt imm
  | .wmerge _ o imm fmt _ _ => fmt.isWide && o.int imm true && o.a.realOk fmt imm && o.b.realOk fmt imm
  | .cvt _ o dst src _ ov =>
    dst != src && (dst.fmt?.isSome || src.fmt?.isSome) && o.d.star dst.is64 && o.a.star src.is64 && o.d.uniformRule [o.a] &&
      (src.isIeee || noImm [o.a]) && (!dst.isInt || ov == .dflt) && (match src.fmt? with | some f => o.a.realOk f 0 | none => true)
  | .pack _ o imm fmt half =>
    fmt.isPacked && (fmt != .l16x2 || (!half && o.c == .zero)) && o.int imm false && o.a.realOk fmt.elem imm &&
      o.b.realOk fmt.elem imm && o.c.realOk fmt imm
  | .unpk _ o imm fmt e => fmt.isPacked && (fmt != .l16x2 || e.val < 2) && o.real imm fmt
  | .lpick _ o imm _ w => o.int imm w false
  | .bfly _ _ _ _ _ | .predx _ _ _ | .elect _ _ => true
  | .redx _ o imm op =>
    match op with
    | .int _ w _ => o.d.star w && o.a.star w && imm == 0
    | .gadd fmt _ | .gmin fmt | .gmax fmt => fmt.isScalar && o.a.realOk fmt imm && imm == 0
  | .bind _ _ first count | .unbind _ first count => chainOk first count
  | .chadd _ _ _ _ _ | .chsub _ _ _ _ _ | .chneg _ _ _ => true
  | .chmad _ _ _ b _ imm _ | .chshl _ _ _ b imm | .chshr _ _ _ b imm _ => b.isUniform && imm == 0
  | .chcmp _ _ _ _ cmp => cmp.isInt
  | .chld _ _ a _ | .chst _ a _ _ => a.isPair && noImm [a]
  | .chmvc _ _ _ => true
  | .join _ _ a imm => a.isUniform && imm == 0
  | .leave _ | .bar _ | .barv _ _ _ _ => true
  | .spawn _ a imm => pairOnly imm a
  | .depdec _ a b imm => a.isUniform && b.isUniform && imm == 0
  | .ldg _ d a _ ty wid | .ldv _ d a _ ty wid _ =>
    typeWid ty wid && d.fitsWid wid && a.isPair && noImm [a] && d.uniformRule [a]
  | .lds _ d a _ ty wid => typeWid ty wid && d.fitsWid wid && noImm [a] && d.uniformRule [a]
  | .stg _ a b stat _ ty wid =>
    typeWid ty wid && a.isPair && b.fitsWid wid && noImm [a, b] && storeConst ty b &&
      (match stat with
       | none => true
       | some i => i.isUniform && i != .imm && (ty.bind Tag.fmt?).isSome)
  | .sts _ a b _ ty wid => typeWid ty wid && b.fitsWid wid && noImm [a, b] && storeConst ty b
  | .atom _ o _ op wid _ sp =>
    atomOk op wid && atomAddr sp o.a && noImm [o.a, o.b, o.c] && (op == .cas || o.c == .zero) &&
      (wid != .b64 || ((o.d.isPair || o.d == .none) && o.b.isPair && o.c.isPair)) && o.d.uniformRule [o.a, o.b, o.c]
  | .red _ a b _ op wid _ sp =>
    atomOk op wid && op != .exch && op != .cas && atomAddr sp a && noImm [a, b] && (wid != .b64 || b.isPair)
  | .monitor _ a _ | .pfd _ _ a _ => a.isPair && noImm [a]
  | .waitmon _ _ | .fenceAcq _ _ | .fenceRel _ _ | .fenceAr _ _ => true
  | .bankcfgCache _ a | .bankcfgScratchpad _ a => a.isUniform
  | .bankcfgFifo _ a _ => a.isUniform && noImm [a]
  | .rmapMap _ a b e imm => a.isUniform && b.isPair && e.isUniform && imm == 0
  | .rmapUnmap _ a imm => a.isUniform && imm == 0
  | .cpyGl _ a b e _ | .cpyLg _ a b e _ | .cpyGf _ a b e _ | .cpym _ a b e _ | .mdrain _ a b e _ =>
    a.isPair && e.isPair && noImm [a, b, e]
  | .cpyGg _ a e _ => a.isPair && e.isPair && noImm [a, e]
  | .publish _ a imm | .cbrel _ a imm | .statrst _ a imm => a.isUniform && imm == 0
  | .lrinv _ a imm | .mmaGlob _ a imm => pairOnly imm a
  | .lrinvAll _ => true
  | .cbacq _ _ a imm => a.isUniform && imm == 0
  | .mmaLoc _ _ imm => imm == 0
  | .mzero _ _ _ imm | .tbld _ _ _ imm => imm == 0
  | .qnt _ o _ imm fmt _ =>
    o.b.isUniform && imm == 0 && o.d.uniformRule [o.a, o.b] &&
      o.a.realOk (if fmt.isPacked then fmt else .l32) imm
  | .statrd _ _ a _ => a.isUniform && noImm [a]
  | .statmrg _ a b _ => a.isUniform && b.isUniform && noImm [a, b]
  | .mfs _ _ reg => mfsOk reg
  | .mts _ a reg => a.isUniform && noImm [a] && mtsOk reg
  | .cntr _ _ _ => true
  | .timeClock _ d | .timePtp _ d => d.isPair
  | .safePointHalt _ _ | .loadCompletion _ _ _ | .storeCompletion _ _ _ | .ifetchFillComplete _ _
  | .tlbWalkComplete _ | .copyAccept _ | .cbReserve _ _ | .copyCompletion _ _ _ | .copyError _ _ _ | .cpymDrain _ _
  | .windowRingRetry _ _ | .publishPoint _ _ | .matrixOpStart _ | .matrixOpCompletion _ | .matrixOpError _
  | .tbldExecute _ | .tablePull _ | .tsrUpdate _ | .dependenceDecrement _ _ | .taskPlacement _ _ _
  | .bindRecordDispatch _ _ | .holdRelease _ _ | .taskCompletion _ _ | .stealRequest _ _ _
  | .stealRequestReceive _ _ | .sorediumPacket _ _ | .stealReply _ | .pageResident _ | .monitorTrigger _
  | .waitmonTimeout _ _ | .sleepExpiry _ _ | .faultRecordDelivery _ | .preemptContext _ _ | .restoreContext _ _
  | .preemptTimeout _ _ | .eccError _ | .launch _ _ _ | .signalWrite _ _ _ _ | .signalAdd _ _ _ _ | .waitGe _ _ _ _
  | .waitEq _ _ _ _ | .waitPoll _ | .traceStart _ _ _ _ _ _ _ | .traceStop _ _ | .mapPages _ _ _ _
  | .mapExec _ _ _ _ _ _ | .mapCode _ _ _ _ _ | .mapKey _ _ _ _ | .mapContext _ _ _ _ | .mapFuse _ _ _ _
  | .unmapPages _ _ _ _ | .unmapExec _ _ _ _ | .unmapCode _ _ _ | .unmapKey _ _ _ | .unmapContext _ _ _
  | .statMerge _ _ _ _ | .ringDoorbell _ _ | .fanswerResume _ _ | .fanswerSkip _ _ _ | .fanswerKill _ _
  | .dbgctlHalt _ _ | .dbgctlResume _ _ | .dbgctlStep _ _ | .dbgctlBpsync _ _ | .ptpofsWrite _ _
  | .ptprateWrite _ _ | .pwrlimWrite _ _ | .fwlockWrite _ _ | .registerWrite _ _ _ | .inboundRead _ _ _
  | .inboundWrite _ _ _ | .inboundAtomic _ _ _ _ | .configRequest _ | .portDown _ | .portUp _ | .coldReset _ _
  | .junctionTrip | .powerClampSample _ _ | .firmwareWatchdogReset _ | .counterPageRefresh _
  | .counterGroupRotation | .pcSample _ | .waitmonUnpromptedEnd _ _ | .zeroLengthReadCompletion _ => true

/-- A well-formed instruction of a warp or step of another agent. -/
abbrev Instr.WellFormed (i : Instr) : Prop := i.wf = true

end Sys2Proof
end

