-- ==== Sys2Proof/Decode.lean ====
section
/-! DEFINITION. The 96-bit word (R25), the scanner's checks of one word in the order of Table 1.7, the decoder, total on
any word and refusing by name, and the encoder written from the same tables (Tables 3.1 to 3.9). -/

namespace Sys2Proof

/-- The scanner's refusal reasons (Table 1.7). -/
inductive ScanReason where
  | hdrVersion | hdrReserved | mapBase | opcode | variant | mod | reservedBit | operand | imm | branchTarget
  | mapEntry | lineNoStop | digest
  deriving DecidableEq, Repr

/-- The reason's number (Table 1.7). -/
def ScanReason.code : ScanReason → Nat
  | .hdrVersion => 0x01 | .hdrReserved => 0x02 | .mapBase => 0x03 | .opcode => 0x04 | .variant => 0x05
  | .mod => 0x06 | .reservedBit => 0x07 | .operand => 0x08 | .imm => 0x09 | .branchTarget => 0x0A
  | .mapEntry => 0x0B | .lineNoStop => 0x0C | .digest => 0x0D

/-- The fields of an instruction word (Table 1.4). -/
structure Raw where
  op : BitVec 8
  var : BitVec 4
  gp : BitVec 3
  gn : Bool
  dst : BitVec 8
  a : BitVec 8
  b : BitVec 8
  c : BitVec 8
  imm : BitVec 32
  mod : BitVec 6
  stop : Bool
  resv : Bool
  stall : BitVec 4
  sb : BitVec 3
  yield : Bool
  deriving DecidableEq, Repr

/-- The fields of a word (R25, Table 1.4). -/
def Raw.ofWord (w : BitVec 96) : Raw where
  op := w.extractLsb' 0 8
  var := w.extractLsb' 8 4
  gp := w.extractLsb' 12 3
  gn := w.getLsbD 15
  dst := w.extractLsb' 16 8
  a := w.extractLsb' 24 8
  b := w.extractLsb' 32 8
  c := w.extractLsb' 40 8
  imm := w.extractLsb' 48 32
  mod := w.extractLsb' 80 6
  stop := w.getLsbD 86
  resv := w.getLsbD 87
  stall := w.extractLsb' 88 4
  sb := w.extractLsb' 92 3
  yield := w.getLsbD 95

/-- The word of the fields (R25, Table 1.4), from the most significant field down. -/
def Raw.toWord (r : Raw) : BitVec 96 :=
  BitVec.ofBool r.yield ++ r.sb ++ r.stall ++ BitVec.ofBool r.resv ++ BitVec.ofBool r.stop ++ r.mod ++ r.imm ++
    r.c ++ r.b ++ r.a ++ r.dst ++ BitVec.ofBool r.gn ++ r.gp ++ r.var ++ r.op

/-! ### Operand bytes -/

/-- A source byte (Table 1.5); a byte that no source has reads as 0x78 and is refused by its class. -/
def Opnd.ofByte (x : BitVec 8) : Opnd :=
  let n := x.toNat
  if h : n < 0x40 then .v ⟨n, h⟩
  else if h : n < 0x60 then .w ⟨n - 0x40, by omega⟩
  else if h : n < 0x70 then .sp ⟨n - 0x60, by omega⟩
  else if n < 0x79 then .zero
  else if n < 0x80 then .imm
  else .inl (x.truncate 7)

/-- The byte of a source (Table 1.5). -/
def Opnd.toByte : Opnd → BitVec 8
  | .v r => BitVec.ofNat 8 r.val
  | .w r => BitVec.ofNat 8 (0x40 + r.val)
  | .sp n => BitVec.ofNat 8 (0x60 + n.val)
  | .zero => 0x78
  | .imm => 0x79
  | .inl k => 1#1 ++ k

/-- A destination byte (Table 1.5). -/
def Dst.ofByte (x : BitVec 8) : Dst :=
  let n := x.toNat
  if h : n < 0x40 then .v ⟨n, h⟩
  else if h : n < 0x60 then .w ⟨n - 0x40, by omega⟩
  else .none

/-- The byte of a destination (Table 1.5). -/
def Dst.toByte : Dst → BitVec 8
  | .v r => BitVec.ofNat 8 r.val
  | .w r => BitVec.ofNat 8 (0x40 + r.val)
  | .none => 0x78

/-- The v register that a byte of class v names. -/
def vReg (x : BitVec 8) : Fin 64 := ⟨x.toNat % 64, Nat.mod_lt _ (by decide)⟩
/-- The w register that a byte of class w names. -/
def wReg (x : BitVec 8) : Fin 32 := ⟨x.toNat % 32, Nat.mod_lt _ (by decide)⟩
/-- The predicate that a byte of class p names. -/
def pReg (x : BitVec 8) : Fin 8 := ⟨x.toNat % 8, Nat.mod_lt _ (by decide)⟩

def vByte (r : Fin 64) : BitVec 8 := BitVec.ofNat 8 r.val
def wByte (r : Fin 32) : BitVec 8 := BitVec.ofNat 8 (0x40 + r.val)
def pByte (r : Fin 8) : BitVec 8 := BitVec.ofNat 8 (0x70 + r.val)

/-- The classes of Table 3.1, with the forms that a destination takes and the four registers of WID 4. -/
inductive Cls where
  | unused
  /-- class d -/
  | d
  /-- class e as a destination -/
  | de
  /-- class d whose register is a multiple of the count a load writes -/
  | dm (m : Nat)
  /-- class s -/
  | s
  /-- class e as a source -/
  | e
  /-- a source of four registers -/
  | s4
  | q | v | w | p
  deriving DecidableEq, Repr

/-- A byte that is a constant: 0x78, 0x79 or an inline constant. -/
def byteConst (n : Nat) : Bool := n == 0x78 || n == 0x79 || 0x80 ≤ n

/-- A per-lane source byte: a v register, %lane, %carry or a predicate (R74). -/
def bytePerLane (n : Nat) : Bool := n < 0x40 || n == 0x60 || n == 0x67 || (0x70 ≤ n && n < 0x78)

/-- The bytes a class accepts (Table 3.1). -/
def Cls.accepts (k : Cls) (x : BitVec 8) : Bool :=
  let n := x.toNat
  match k with
  | .unused => n == 0x78
  | .d => n < 0x60 || n == 0x78
  | .de => n < 0x60 && n % 2 == 0
  | .dm m => (n < 0x60 && n % m == 0) || n == 0x78
  | .s => n < 0x70 || byteConst n
  | .e => (n < 0x60 && n % 2 == 0) || byteConst n
  | .s4 => (n < 0x60 && n % 4 == 0) || byteConst n
  | .q => (0x40 ≤ n && n < 0x70 && !bytePerLane n) || byteConst n
  | .v => n < 0x40
  | .w => 0x40 ≤ n && n < 0x60
  | .p => 0x70 ≤ n && n < 0x78

/-- A destination field marked * (R73). -/
def Cls.dStar (w : Bool) : Cls := if w then .de else .d
/-- A source field marked * (R73). -/
def Cls.sStar (w : Bool) : Cls := if w then .e else .s

/-! ### Field codes -/

def Tag.code : Tag → Nat
  | .undef => 0 | .i32 => 1 | .i64 => 2 | .l8a => 3 | .l8b => 4 | .l16 => 5 | .l32 => 6 | .l16x2 => 7
  | .l8ax4 => 8 | .l8bx4 => 9 | .cb => 10 | .limb => 11 | .raw => 12

/-- Table 1.3; codes 13 to 15 name no tag. -/
def Tag.ofCode : Nat → Option Tag
  | 0 => some .undef | 1 => some .i32 | 2 => some .i64 | 3 => some .l8a | 4 => some .l8b | 5 => some .l16
  | 6 => some .l32 | 7 => some .l16x2 | 8 => some .l8ax4 | 9 => some .l8bx4 | 10 => some .cb | 11 => some .limb
  | 12 => some .raw | _ => none

def Fmt.code : Fmt → Nat
  | .l8a => 0 | .l8b => 1 | .l16 => 2 | .l32 => 3 | .l16x2 => 4 | .l8ax4 => 5 | .l8bx4 => 6

def Fmt.ofCode : Nat → Option Fmt
  | 0 => some .l8a | 1 => some .l8b | 2 => some .l16 | 3 => some .l32 | 4 => some .l16x2 | 5 => some .l8ax4
  | 6 => some .l8bx4 | _ => none

def Rnd.code : Rnd → Nat
  | .rn => 0 | .rz => 1 | .sr => 2 | .dyn => 3

def Rnd.ofCode (n : Nat) : Rnd :=
  match n with
  | 0 => .rn | 1 => .rz | 2 => .sr | _ => .dyn

def Ov.code : Ov → Nat
  | .dflt => 0 | .sat => 1 | .ovf => 2

def Ov.ofCode (n : Nat) : Ov :=
  match n with
  | 1 => .sat | 2 => .ovf | _ => .dflt

def Cmp.code : Cmp → Nat
  | .eq => 0 | .ne => 1 | .lt => 2 | .le => 3 | .gt => 4 | .ge => 5 | .num => 6 | .nan => 7

def Cmp.ofCode (n : Nat) : Cmp :=
  match n with
  | 0 => .eq | 1 => .ne | 2 => .lt | 3 => .le | 4 => .gt | 5 => .ge | 6 => .num | _ => .nan

def Wid.code : Wid → Nat
  | .b8 => 0 | .b16 => 1 | .b32 => 2 | .b64 => 3 | .b128 => 4

def Wid.ofCode (n : Nat) : Wid :=
  match n with
  | 0 => .b8 | 1 => .b16 | 2 => .b32 | 3 => .b64 | _ => .b128

def Scope.code : Scope → Nat
  | .core => 0 | .cluster => 1 | .die => 2 | .system => 3

def Scope.ofCode (n : Nat) : Scope :=
  match n with
  | 0 => .core | 1 => .cluster | 2 => .die | _ => .system

def Typ.code : Typ → Nat
  | .l8a => 0 | .l8b => 1 | .l16 => 2 | .l32 => 3 | .i32 => 4 | .n32 => 5 | .i64 => 6 | .n64 => 7 | .f32 => 8
  | .f16 => 9 | .bf16 => 10 | .e4m3 => 11 | .e5m2 => 12

def Typ.ofCode (n : Nat) : Typ :=
  match n with
  | 0 => .l8a | 1 => .l8b | 2 => .l16 | 3 => .l32 | 4 => .i32 | 5 => .n32 | 6 => .i64 | 7 => .n64 | 8 => .f32
  | 9 => .f16 | 10 => .bf16 | 11 => .e4m3 | _ => .e5m2

def AtomOp.code : AtomOp → Nat
  | .iadd => 0 | .imin => 1 | .imax => 2 | .nmin => 3 | .nmax => 4 | .and => 5 | .or => 6 | .xor => 7 | .exch => 8
  | .cas => 9 | .gadd => 10

def AtomOp.ofCode (n : Nat) : AtomOp :=
  match n with
  | 0 => .iadd | 1 => .imin | 2 => .imax | 3 => .nmin | 4 => .nmax | 5 => .and | 6 => .or | 7 => .xor | 8 => .exch
  | 9 => .cas | _ => .gadd

def PickMode.code : PickMode → Nat
  | .idx => 0 | .up => 1 | .down => 2 | .xor => 3

def PickMode.ofCode (n : Nat) : PickMode :=
  match n with
  | 0 => .idx | 1 => .up | 2 => .down | _ => .xor

def RedInt.code : RedInt → Nat
  | .iadd => 0 | .imin => 1 | .imax => 2 | .and => 3 | .or => 4 | .xor => 5

def RedInt.ofCode (n : Nat) : RedInt :=
  match n with
  | 0 => .iadd | 1 => .imin | 2 => .imax | 3 => .and | 4 => .or | _ => .xor

/-- DEP in IMM32 (Table 3.3). -/
def Dep.ofImm (imm : Word) : Dep := if imm.getLsbD 12 then some (imm.truncate 12) else none

def Dep.toImm : Dep → Word
  | none => 0
  | some n => BitVec.ofNat 32 (0x1000 + n.toNat)

/-! ### Fields of the word by layout -/

namespace Raw

def ctl (r : Raw) : Ctl where
  gp := ⟨r.gp.toNat, by have := r.gp.isLt; omega⟩
  gn := r.gn
  stop := r.stop
  stall := ⟨r.stall.toNat, by have := r.stall.isLt; omega⟩
  sb := ⟨r.sb.toNat, by have := r.sb.isLt; omega⟩
  yield := r.yield

def v (r : Raw) : Nat := r.var.toNat
def m (r : Raw) : Nat := r.mod.toNat
/-- Layout I (Table 3.2). -/
def w (r : Raw) : Bool := r.mod.getLsbD 5
def n (r : Raw) : Bool := r.mod.getLsbD 4
def cs (r : Raw) : Nat := r.m / 2 % 8
def sat (r : Raw) : Bool := r.mod.getLsbD 0
/-- Layouts G and C (Table 3.2). -/
def fmtCode (r : Raw) : Nat := r.m / 4
def fmt (r : Raw) : Fmt := (Fmt.ofCode r.fmtCode).getD .l8a
def rnd (r : Raw) : Rnd := Rnd.ofCode (r.m % 4)
/-- Layout M (Table 3.2). -/
def widCode (r : Raw) : Nat := r.m / 8
def wid (r : Raw) : Wid := Wid.ofCode r.widCode
def scope (r : Raw) : Scope := Scope.ofCode (r.m / 2 % 4)
def flag (r : Raw) : Bool := r.mod.getLsbD 0
/-- VAR of the real group (R79). -/
def ov (r : Raw) : Ov := Ov.ofCode (r.v % 4)
def msk (r : Raw) : Bool := r.var.getLsbD 2
/-- VAR of the loads and stores. -/
def ty (r : Raw) : Option Tag := if r.v = 0 then none else Tag.ofCode r.v

def oa (r : Raw) : Opnd := Opnd.ofByte r.a
def ob (r : Raw) : Opnd := Opnd.ofByte r.b
def oc (r : Raw) : Opnd := Opnd.ofByte r.c
def od (r : Raw) : Dst := Dst.ofByte r.dst
def d1 (r : Raw) : D1 := ⟨r.od, r.oa⟩
def d2 (r : Raw) : D2 := ⟨r.od, r.oa, r.ob⟩
def d3 (r : Raw) : D3 := ⟨r.od, r.oa, r.ob, r.oc⟩
def dep (r : Raw) : Dep := Dep.ofImm r.imm

/-- MOD holds no bit outside a mask (R75). -/
def modWithin (r : Raw) (mask : Nat) : Bool := r.m &&& (63 - mask) == 0

/-- R31: the bytes read as IMM32. -/
def immRead (r : Raw) : Bool := r.a == 0x79 || r.b == 0x79 || r.c == 0x79

/-- R27, where IMM32 is used only through an operand byte. -/
def immOperand (r : Raw) : Bool := r.imm == 0 || r.immRead

/-- The reserved bits of IMM32 are zero. -/
def immWithin (r : Raw) (bits : Nat) : Bool := r.imm.toNat < 2 ^ bits

/-- R30, R31: a byte read as a real lies within a format. -/
def realByte (r : Raw) (x : BitVec 8) (f : Fmt) : Bool :=
  if x.toNat == 0x79 then r.imm.toNat < 2 ^ f.bits
  else if x.toNat < 0x80 then true
  else
    let k := x.toNat % 64
    match f.elem with
    | .l8a => 27 ≤ k && k ≤ 34
    | .l8b => 23 ≤ k && k ≤ 38
    | _ => true

/-- Table 3.3, DEP. -/
def depOk (r : Raw) : Bool := r.immWithin 13 && (r.imm.getLsbD 12 || r.imm == 0)

end Raw

/-- What the tables say of one major opcode, at the word's VAR and MOD. -/
structure Row where
  /-- VAR is defined (R75, R79 to R81). -/
  var : Bool
  /-- MOD holds no reserved code or undefined bit (R75). -/
  mod : Bool
  dst : Cls
  a : Cls := .unused
  b : Cls := .unused
  c : Cls := .unused
  /-- IMM32 has a purpose of its own, so that no byte 0x79 is taken (R31). -/
  own : Bool := false
  /-- R74 does not apply. -/
  exempt : Bool := false
  /-- SRCC is outside R74 (SEL's predicate, QNT's second destination). -/
  exemptC : Bool := false
  /-- IMM32 and the constants are in range (R27, R30, R31, R76). -/
  imm : Bool
  instr : Instr

/-- The operand bytes are within their classes, and R31 and R74 hold. -/
def Row.operandsOk (k : Row) (r : Raw) : Bool :=
  k.dst.accepts r.dst && k.a.accepts r.a && k.b.accepts r.b && k.c.accepts r.c &&
    (!k.own || !r.immRead) &&
    (k.exempt || !(Cls.w.accepts r.dst) ||
      ((k.a == .unused || !bytePerLane r.a.toNat) && (k.b == .unused || !bytePerLane r.b.toNat) &&
        (k.c == .unused || k.exemptC || !bytePerLane r.c.toNat)))

namespace Raw

/-- A control instruction without operands. -/
def rowN (r : Raw) (imm : Bool) (i : Instr) : Row :=
  { var := r.v == 0, mod := r.m == 0, dst := .unused, own := true, imm := imm, instr := i }

/-- An integer instruction of layout I. -/
def rowI (r : Raw) (mask : Nat) (d a b c : Cls) (i : Instr) : Row :=
  { var := r.v == 0, mod := r.modWithin mask, dst := d, a := a, b := b, c := c, imm := r.immOperand, instr := i }

/-- OV or MSK codes of VAR (R79). -/
def ovOk (r : Raw) (ov msk : Bool) : Bool :=
  r.v < 8 && (r.v % 4 == 0 || (ov && r.v % 4 < 3)) && (r.v < 4 || msk)

/-- A real instruction of layout G; `rs` are the bytes read as reals. -/
def rowG (r : Raw) (rounds ov msk : Bool) (fmts : Fmt → Bool) (d a b c : Cls) (rs : List (BitVec 8)) (i : Instr) :
    Row :=
  { var := r.ovOk ov msk
    mod := ((Fmt.ofCode r.fmtCode).any fmts) && (rounds || r.m % 4 == 0)
    dst := d, a := a, b := b, c := c
    imm := r.immOperand && rs.all fun x => r.realByte x r.fmt
    instr := i }

/-- An instruction of layout N whose IMM32 column is 0: a byte 0x79 there reads that zero (log 40). -/
def rowO (r : Raw) (d a b c : Cls) (i : Instr) : Row :=
  { var := r.v == 0, mod := r.m == 0, dst := d, a := a, b := b, c := c, imm := r.imm == 0, instr := i }

/-- An instruction of layout N with a purpose of its own for IMM32. -/
def rowOwn (r : Raw) (d a b c : Cls) (imm : Bool) (i : Instr) : Row :=
  { var := r.v == 0, mod := r.m == 0, dst := d, a := a, b := b, c := c, own := true, imm := imm, instr := i }

/-- R81: a typed VAR agrees with WID. -/
def lsVar (r : Raw) : Bool :=
  r.v == 0 || (match (Tag.ofCode r.v).bind Tag.wid? with | some x => x.code == r.widCode | none => false)

/-- Store data given as a constant (R138); a CB source refuses inline constants (R30). -/
def storeImm (r : Raw) : Bool :=
  match r.ty with
  | some .cb => r.b.toNat < 0x80
  | ty => (ty.bind Tag.fmt?).all fun f => r.realByte r.b f

/-- The destination of a load by its width (R138). -/
def ldDst (r : Raw) : Cls := if r.widCode == 3 then .dm 2 else if r.widCode == 4 then .dm 4 else .d
/-- The data source of a store by its width (R138). -/
def stSrc (r : Raw) : Cls := if r.widCode == 3 then .e else if r.widCode == 4 then .s4 else .s

/-- A chain's register count (R200). -/
def chainOk (r : Raw) : Bool :=
  r.immWithin 7 && 1 ≤ r.imm.toNat && r.imm.toNat ≤ 64 && r.dst.toNat + r.imm.toNat ≤ 64

/-- ATOM and RED (R265). -/
def atomRow (r : Raw) (red : Bool) (i : Instr) : Row :=
  let cas := r.v == 9
  let wide := r.widCode == 3
  { var := r.v ≤ 10 && !(red && (r.v == 8 || r.v == 9)) && (r.v != 10 || r.widCode == 1 || r.widCode == 2)
    mod := 1 ≤ r.widCode && r.widCode ≤ 3
    dst := if red then .unused else if wide then .dm 2 else .d
    a := if r.flag then .s else .e
    b := if wide then .e else .s
    c := if cas && !red then (if wide then .e else .s) else .unused
    own := true, imm := true, instr := i }

/-- The sources marked * of layout I. -/
def rowD2 (r : Raw) (mask : Nat) (i : Instr) : Row :=
  r.rowI mask (.dStar r.w) (.sStar r.w) (.sStar r.w) .unused i

def rowD1 (r : Raw) (mask : Nat) (i : Instr) : Row :=
  r.rowI mask (.dStar r.w) (.sStar r.w) .unused .unused i

def g1 (r : Raw) (rounds ov msk : Bool) (i : Instr) : Row :=
  r.rowG rounds ov msk (fun _ => true) .d .s .unused .unused [r.a] i

def g2 (r : Raw) (rounds ov : Bool) (i : Instr) : Row :=
  r.rowG rounds ov false (fun _ => true) .d .s .s .unused [r.a, r.b] i

def g3 (r : Raw) (rounds ov msk : Bool) (i : Instr) : Row :=
  r.rowG rounds ov msk (fun _ => true) .d .s .s .s [r.a, r.b, r.c] i

/-- The row of the word's opcode (Tables 3.4 to 3.9), or none where the opcode is unassigned (R78). -/
def row (r : Raw) : Option Row :=
  let k := r.ctl
  match r.op.toNat with
  | 0x00 => some (r.rowN (r.imm == 0) (.nop k))
  | 0x01 => some (r.rowN true (.bra k r.imm))
  | 0x02 => some (r.rowO .unused .e .unused .unused (.brx k r.oa r.imm))
  | 0x03 => some (
    if r.v == 0 then r.rowOwn .de .unused .unused .unused true (.callDirect k r.od r.imm)
    else { r.rowO .de .e .unused .unused (.callIndirect k r.od r.oa r.imm) with var := r.v == 1 })
  | 0x04 => some (r.rowO .unused .e .unused .unused (.ret k r.oa r.imm))
  | 0x05 => some (r.rowN true (.rcv k r.imm))
  | 0x06 => some (r.rowN (r.imm == 0) (.exit k))
  | 0x07 => some (r.rowN (r.imm == 0) (.yield k))
  | 0x08 => some (r.rowN (r.immWithin 16) (.trap k (r.imm.truncate 16)))
  | 0x09 => some (r.rowN (r.imm == 0) (.rte k))
  | 0x0A => some (r.rowN (r.immWithin 16) (.brk k (r.imm.truncate 16)))
  | 0x0B => some { r.rowN true (.pfi k ⟨r.v % 4, Nat.mod_lt _ (by decide)⟩ r.imm) with var := r.v < 4 }
  | 0x0C => some (r.rowN (r.immWithin 24)
      (.waitc k (r.imm.extractLsb' 0 6) (r.imm.extractLsb' 6 6) (r.imm.extractLsb' 12 6) (r.imm.extractLsb' 18 6)))
  | 0x0D => some (r.rowN (r.immWithin 24) (.sleep k (r.imm.truncate 24)))
  | 0x10 => some (r.rowD2 0b110001 (.iadd k r.d2 r.imm r.w r.n r.sat))
  | 0x11 => some (r.rowD2 0b110001 (.isub k r.d2 r.imm r.w r.n r.sat))
  | 0x12 => some (r.rowD2 0b100000 (.imul k r.d2 r.imm r.w))
  | 0x13 => some (r.rowD2 0b110000 (.imulh k r.d2 r.imm r.w r.n))
  | 0x14 => some (r.rowI 0b100000 (.dStar r.w) (.sStar r.w) (.sStar r.w) (.sStar r.w) (.imad k r.d3 r.imm r.w))
  | 0x15 => some (r.rowD2 0b110000 (.imin k r.d2 r.imm r.w r.n))
  | 0x16 => some (r.rowD2 0b110000 (.imax k r.d2 r.imm r.w r.n))
  | 0x17 => some (r.rowD1 0b100001 (.iabs k r.d1 r.imm r.w r.sat))
  | 0x18 => some (r.rowD1 0b100001 (.ineg k r.d1 r.imm r.w r.sat))
  | 0x19 => some (r.rowI 0b100000 (.dStar r.w) (.sStar r.w) .s .unused (.shl k r.d2 r.imm r.w))
  | 0x1A => some (r.rowI 0b100000 (.dStar r.w) (.sStar r.w) .s .unused (.shr k r.d2 r.imm r.w))
  | 0x1B => some (r.rowI 0b100000 (.dStar r.w) (.sStar r.w) .s .unused (.sar k r.d2 r.imm r.w))
  | 0x1C => some (r.rowI 0b100000 (.dStar r.w) (.sStar r.w) .s .unused (.rot k r.d2 r.imm r.w))
  | 0x1D => some (r.rowD2 0b100000 (.and k r.d2 r.imm r.w))
  | 0x1E => some (r.rowD2 0b100000 (.or k r.d2 r.imm r.w))
  | 0x1F => some (r.rowD2 0b100000 (.xor k r.d2 r.imm r.w))
  | 0x20 => some (r.rowD1 0b100000 (.not k r.d1 r.imm r.w))
  | 0x21 => some { r.rowI 0b100000 (.dStar r.w) (.sStar r.w) (.sStar r.w) (.sStar r.w)
      (.bfn3 k r.d3 (r.imm.truncate 8) r.w) with own := true, imm := r.immWithin 8 }
  | 0x22 => some (r.rowI 0b100000 .d (.sStar r.w) .unused .unused (.popc k r.d1 r.imm r.w))
  | 0x23 => some (r.rowI 0b100000 .d (.sStar r.w) .unused .unused (.clz k r.d1 r.imm r.w))
  | 0x24 => some (r.rowD1 0b100000 (.brev k r.d1 r.imm r.w))
  | 0x25 => some (r.rowI 0b010000 .d .s .s .s (.bfe k r.d3 r.imm r.n))
  | 0x26 => some (r.rowI 0 .d .s .s .s (.bfi k r.d3 r.imm))
  | 0x27 => some { r.rowI 0b111110 .p (.sStar r.w) (.sStar r.w) .unused
      (.icmp k (pReg r.dst) r.oa r.ob r.imm r.w r.n (Cmp.ofCode r.cs)) with
      mod := r.modWithin 0b111110 && r.cs < 6 }
  | 0x28 => some { r.rowI 0 .p .p .p .p
      (.pcomb k (pReg r.dst) (pReg r.a) (pReg r.b) (pReg r.c) (r.imm.truncate 8)) with
      own := true, imm := r.immWithin 8 }
  | 0x29 => some { r.rowI 0b100000 (.dStar r.w) (.sStar r.w) (.sStar r.w) .p
      (.sel k r.d2 (pReg r.c) r.imm r.w) with exemptC := true }
  | 0x2A => some (r.rowD1 0b100000 (.mov k r.d1 r.imm r.w))
  | 0x2B => some (r.rowI 0b011110 .de .e .s .unused
      (.lea k r.d2 r.imm r.n ⟨r.cs, Nat.mod_lt _ (by decide)⟩))
  | 0x2C => some { r.rowI 0 (.dStar (r.v == 2)) (.sStar (r.v == 2)) .unused .unused
      (.retag k ((Tag.ofCode r.v).getD .raw) r.d1 r.imm) with var := 1 ≤ r.v && r.v ≤ 12 }
  | 0x30 => some (r.g2 true true (.gadd k r.d2 r.imm r.fmt r.rnd r.ov))
  | 0x31 => some (r.g2 true true (.gsub k r.d2 r.imm r.fmt r.rnd r.ov))
  | 0x32 => some (r.g2 false true (.gmul k r.d2 r.imm r.fmt r.ov))
  | 0x33 => some (r.g2 false true (.gdiv k r.d2 r.imm r.fmt r.ov))
  | 0x34 => some (r.g3 true true false (.gmad k r.d3 r.imm r.fmt r.rnd r.ov))
  | 0x35 => some (r.g1 false false false (.gsqrt k r.d1 r.imm r.fmt))
  | 0x36 => some (r.g1 true true false (.grsq k r.d1 r.imm r.fmt r.rnd r.ov))
  | 0x37 => some (r.g1 false true true (.grcp k r.d1 r.imm r.fmt r.ov r.msk))
  | 0x38 => some (r.g2 false false (.gmin k r.d2 r.imm r.fmt))
  | 0x39 => some (r.g2 false false (.gmax k r.d2 r.imm r.fmt))
  | 0x3A => some (r.g1 false false false (.gabs k r.d1 r.imm r.fmt))
  | 0x3B => some (r.g1 false false false (.gneg k r.d1 r.imm r.fmt))
  | 0x3C => some (r.rowG false true false (fun _ => true) .d .s .s .unused [r.a]
      (.gscale k r.d2 r.imm r.fmt r.ov))
  | 0x3D => some (r.rowG false true false (fun _ => true) .d .s .s .unused [r.a]
      (.gpow k r.d2 r.imm r.fmt r.ov))
  | 0x3E => some { r.rowG false false false Fmt.isScalar .p .s .s .unused [r.a, r.b]
      (.gcmp k (pReg r.dst) r.oa r.ob r.imm r.fmt (Cmp.ofCode r.v)) with var := r.v < 8 }
  | 0x3F => some (r.rowG false false false Fmt.isScalar .d .s .unused .unused [r.a] (.gclass k r.d1 r.imm r.fmt))
  | 0x40 => some (r.g3 true true true (.gexp2 k r.d3 r.imm r.fmt r.rnd r.ov r.msk))
  | 0x41 => some (r.g1 true true false (.glog2 k r.d1 r.imm r.fmt r.rnd r.ov))
  | 0x42 => some (r.g1 true true false (.gtanh k r.d1 r.imm r.fmt r.rnd r.ov))
  | 0x43 => some (r.g1 true true false (.gsig k r.d1 r.imm r.fmt r.rnd r.ov))
  | 0x44 => some (r.rowG true true false Fmt.isWide .de .e .s .s [r.a, r.b]
      (.wstep k r.d3 r.imm r.fmt r.rnd r.ov))
  | 0x45 => some (r.rowG true true false Fmt.isWide .de .e .e .e [r.a, r.b]
      (.wmerge k r.d3 r.imm r.fmt r.rnd r.ov))
  | 0x50 =>
    let st := r.fmtCode
    some { var := r.v < 13 && st != r.v && (st < 4 || r.v < 4), mod := st < 13
           dst := .dStar (r.v == 6 || r.v == 7), a := .sStar (st == 6 || st == 7), own := st < 8
           imm := r.immWithin 2 && r.imm != 3 && (!(4 ≤ r.v && r.v ≤ 7) || r.imm == 0) &&
             (match Fmt.ofCode st with | some f => st ≥ 4 || r.realByte r.a f | none => true)
           instr := .cvt k r.d1 (Typ.ofCode r.v) (Typ.ofCode st) r.rnd (Ov.ofCode (r.imm.toNat % 4)) }
  | 0x51 => some { r.rowG false false false Fmt.isPacked .d .s .s .s []
      (.pack k r.d3 r.imm r.fmt (r.v == 1)) with
      var := r.v < 2 && (r.fmtCode != 4 || (r.v == 0 && r.c == 0x78))
      imm := r.immOperand && r.realByte r.a r.fmt.elem && r.realByte r.b r.fmt.elem && r.realByte r.c r.fmt }
  | 0x52 => some { r.rowG false false false Fmt.isPacked .d .s .unused .unused [r.a]
      (.unpk k r.d1 r.imm r.fmt ⟨r.v % 4, Nat.mod_lt _ (by decide)⟩) with
      var := r.v < 4 && (r.fmtCode != 4 || r.v < 2) }
  | 0x60 => some { r.rowO (.dStar r.msk) (.sStar r.msk) .s .unused
      (.lpick k r.d2 r.imm (PickMode.ofCode (r.v % 4)) r.msk) with var := r.v < 8, imm := r.immOperand }
  | 0x61 => some { r.rowOwn .v .v .v .unused (r.imm == 0)
      (.bfly k (vReg r.dst) (vReg r.a) (vReg r.b) ⟨r.v % 5, Nat.mod_lt _ (by decide)⟩) with var := r.v < 5 }
  | 0x62 => some { r.rowOwn (if r.v == 3 then .d else .p) .p .unused .unused (r.imm == 0)
      (.predx k (match r.v with
        | 0 => .all (pReg r.dst)
        | 1 => .any (pReg r.dst)
        | 2 => .uni (pReg r.dst)
        | _ => .map r.od) (pReg r.a)) with var := r.v < 4, exempt := true }
  | 0x63 => some (
    if r.v < 6 then
      { r.rowI 0b110000 (.dStar r.w) (.sStar r.w) .unused .unused
          (.redx k r.d1 r.imm (.int (RedInt.ofCode r.v) r.w r.n)) with var := true, exempt := true, imm := r.imm == 0 }
    else
      { r.rowG (r.v == 6) false false Fmt.isScalar .d .s .unused .unused [r.a]
          (.redx k r.d1 r.imm
            (if r.v == 6 then .gadd r.fmt r.rnd else if r.v == 7 then .gmin r.fmt else .gmax r.fmt)) with
          var := r.v < 9, exempt := true, imm := r.imm == 0 && r.realByte r.a r.fmt })
  | 0x64 => some { r.rowOwn .p .unused .unused .unused (r.imm == 0) (.elect k (pReg r.dst)) with exempt := true }
  | 0x70 => some { r.rowOwn .v .unused .unused .unused r.chainOk
      (.bind k ⟨r.v % 5, Nat.mod_lt _ (by decide)⟩ (vReg r.dst) (r.imm.truncate 7)) with var := r.v < 5 }
  | 0x71 => some (r.rowOwn .v .unused .unused .unused r.chainOk (.unbind k (vReg r.dst) (r.imm.truncate 7)))
  | 0x72 => some { r.rowOwn .v .v .v .unused (r.imm == 0)
      (.chadd k (vReg r.dst) (vReg r.a) (vReg r.b) (r.v == 1)) with var := r.v < 2 }
  | 0x73 => some { r.rowOwn .v .v .v .unused (r.imm == 0)
      (.chsub k (vReg r.dst) (vReg r.a) (vReg r.b) (r.v == 1)) with var := r.v < 2 }
  | 0x74 => some { r.rowO .v .v .q .v
      (.chmad k (vReg r.dst) (vReg r.a) r.ob (vReg r.c) r.imm (r.v == 1)) with var := r.v < 2 }
  | 0x75 => some (r.rowO .v .v .q .unused (.chshl k (vReg r.dst) (vReg r.a) r.ob r.imm))
  | 0x76 => some { r.rowO .v .v .q .unused
      (.chshr k (vReg r.dst) (vReg r.a) r.ob r.imm (r.v == 1)) with var := r.v < 2 }
  | 0x77 => some { r.rowI 0b001110 .p .v .v .unused
      (.chcmp k (pReg r.dst) (vReg r.a) (vReg r.b) (Cmp.ofCode r.cs)) with
      mod := r.modWithin 0b001110 && r.cs < 6, own := true, imm := r.imm == 0 }
  | 0x78 => some (r.rowOwn .v .v .unused .unused (r.imm == 0) (.chneg k (vReg r.dst) (vReg r.a)))
  | 0x79 => some (r.rowOwn .v .e .unused .unused true (.chld k (vReg r.dst) r.oa r.imm))
  | 0x7A => some (r.rowOwn .unused .e .v .unused true (.chst k r.oa (vReg r.b) r.imm))
  | 0x7B => some { r.rowOwn .d .unused .unused .unused (r.imm == 0) (.chmvc k r.od (r.v == 1)) with var := r.v < 2 }
  | 0xA0 => some (r.rowO .w .q .unused .unused (.join k (wReg r.dst) r.oa r.imm))
  | 0xA1 => some (r.rowN (r.imm == 0) (.leave k))
  | 0xA2 => some (r.rowN (r.imm == 0) (.bar k))
  | 0xA3 => some { r.rowOwn .p .p .unused .unused (r.imm == 0)
      (.barv k (r.v == 1) (pReg r.dst) (pReg r.a)) with var := r.v < 2 }
  | 0xA4 => some (r.rowO .unused .e .unused .unused (.spawn k r.oa r.imm))
  | 0xA5 => some (r.rowO .unused .q .q .unused (.depdec k r.oa r.ob r.imm))
  | 0x80 => some { var := r.v < 12 && r.lsVar, mod := r.modWithin 0b111000 && r.widCode < 5
                   dst := r.ldDst, a := .e, own := true, imm := true
                   instr := .ldg k r.od r.oa r.imm r.ty r.wid }
  | 0x81 => some { var := r.v < 12 && r.lsVar && (!r.flag || (3 ≤ r.v && r.v ≤ 9))
                   mod := r.modWithin 0b111001 && r.widCode < 5
                   dst := .unused, a := .e, b := r.stSrc, c := if r.flag then .q else .unused, own := true
                   imm := r.storeImm
                   instr := .stg k r.oa r.ob (if r.flag then some r.oc else none) r.imm r.ty r.wid }
  | 0x82 => some { var := r.v < 12 && r.lsVar, mod := r.modWithin 0b111000 && r.widCode < 5
                   dst := r.ldDst, a := .s, own := true, imm := true
                   instr := .lds k r.od r.oa r.imm r.ty r.wid }
  | 0x83 => some { var := r.v < 12 && r.lsVar, mod := r.modWithin 0b111000 && r.widCode < 5
                   dst := .unused, a := .s, b := r.stSrc, own := true, imm := r.storeImm
                   instr := .sts k r.oa r.ob r.imm r.ty r.wid }
  | 0x84 => some { var := r.v < 12 && r.lsVar, mod := r.modWithin 0b111110 && r.widCode < 5
                   dst := r.ldDst, a := .e, own := true, imm := true
                   instr := .ldv k r.od r.oa r.imm r.ty r.wid r.scope }
  | 0x85 => some (r.atomRow false (.atom k r.d3 r.imm (AtomOp.ofCode r.v) r.wid r.scope r.flag))
  | 0x86 => some (r.atomRow true (.red k r.oa r.ob r.imm (AtomOp.ofCode r.v) r.wid r.scope r.flag))
  | 0x87 => some (r.rowOwn .unused .e .unused .unused true (.monitor k r.oa r.imm))
  | 0x88 => some (r.rowN true (.waitmon k r.imm))
  | 0x89 => some { r.rowN (r.imm == 0) (match r.v with
        | 0 => .fenceAcq k r.scope
        | 1 => .fenceRel k r.scope
        | _ => .fenceAr k r.scope) with var := r.v < 3, mod := r.modWithin 0b000110 }
  | 0x8A => some { r.rowOwn .unused .e .unused .unused true (.pfd k (r.v == 1) r.oa r.imm) with var := r.v < 2 }
  | 0x8B => some (
    if r.v == 2 then
      { r.rowOwn .unused .q .unused .unused (r.immWithin 3)
          (.bankcfgFifo k r.oa ⟨r.imm.toNat % 8, Nat.mod_lt _ (by decide)⟩) with var := true }
    else
      { r.rowO .unused .q .unused .unused (if r.v == 0 then .bankcfgCache k r.oa else .bankcfgScratchpad k r.oa) with
          var := r.v < 2, imm := r.imm == 0 })
  | 0x8C => some (
    if r.v == 0 then r.rowO .unused .q .e .q (.rmapMap k r.oa r.ob r.oc r.imm)
    else { r.rowO .unused .q .unused .unused (.rmapUnmap k r.oa r.imm) with var := r.v == 1 })
  | 0xB0 => some { r.rowOwn .unused .e (if r.v == 3 then .unused else .s) .e r.depOk (match r.v with
        | 0 => .cpyGl k r.oa r.ob r.oc r.dep
        | 1 => .cpyLg k r.oa r.ob r.oc r.dep
        | 2 => .cpyGf k r.oa r.ob r.oc r.dep
        | _ => .cpyGg k r.oa r.oc r.dep) with var := r.v < 4 }
  | 0xB1 => some (r.rowOwn .unused .e .s .e r.depOk (.cpym k r.oa r.ob r.oc r.dep))
  | 0xB2 => some (r.rowO .unused .q .unused .unused (.publish k r.oa r.imm))
  | 0xB3 => some (
    if r.v == 0 then r.rowO .unused .e .unused .unused (.lrinv k r.oa r.imm)
    else { r.rowN (r.imm == 0) (.lrinvAll k) with var := r.v == 1 })
  | 0xB4 => some (r.rowO .d .q .unused .unused (.cbacq k r.od r.oa r.imm))
  | 0xB5 => some (r.rowO .unused .q .unused .unused (.cbrel k r.oa r.imm))
  | 0xC0 => some (
    if r.v == 0 then r.rowO .unused .e .unused .unused (.mmaGlob k r.oa r.imm)
    else { r.rowO .unused .s .unused .unused (.mmaLoc k r.oa r.imm) with var := r.v == 1 })
  | 0xC1 => some (r.rowOwn .unused .e .s .e r.depOk (.mdrain k r.oa r.ob r.oc r.dep))
  | 0xC2 => some (r.rowO .unused .s .s .unused (.mzero k r.oa r.ob r.imm))
  | 0xC3 => some (r.rowO .unused .s .s .unused (.tbld k r.oa r.ob r.imm))
  | 0xD0 => some { var := r.v == 0, mod := (Fmt.ofCode r.fmtCode).isSome
                   dst := .d, a := .s, b := .q, c := .w, exemptC := true
                   imm := r.imm == 0 && r.realByte r.a (if r.fmt.isPacked then r.fmt else .l32)
                   instr := .qnt k r.d2 (wReg r.c) r.imm r.fmt r.rnd }
  | 0xD1 => some (r.rowOwn .d .q .unused .unused (r.immWithin 6)
      (.statrd k r.od r.oa ⟨r.imm.toNat % 64, Nat.mod_lt _ (by decide)⟩))
  | 0xD2 => some (r.rowO .unused .q .unused .unused (.statrst k r.oa r.imm))
  | 0xD3 => some (r.rowOwn .unused .q .q .unused r.depOk (.statmrg k r.oa r.ob r.dep))
  | 0xE0 => some (r.rowOwn .d .unused .unused .unused (r.immWithin 12 && mfsOk (r.imm.truncate 12))
      (.mfs k r.od (r.imm.truncate 12)))
  | 0xE1 => some (r.rowOwn .unused .q .unused .unused (r.immWithin 12 && mtsOk (r.imm.truncate 12))
      (.mts k r.oa (r.imm.truncate 12)))
  | 0xE2 => some (r.rowOwn .d .unused .unused .unused (r.immWithin 16) (.cntr k r.od (r.imm.truncate 16)))
  | 0xE3 => some { r.rowOwn .de .unused .unused .unused (r.imm == 0)
      (if r.v == 0 then .timeClock k r.od else .timePtp k r.od) with var := r.v < 2 }
  | _ => none

end Raw

/-- The decoder: the checks 0x04 to 0x09 of Table 1.7 in the order listed, then the instruction (R41, R44). -/
def decodeRaw (r : Raw) : Except ScanReason Instr :=
  match r.row with
  | none => .error .opcode
  | some k =>
    if !k.var then .error .variant
    else if !k.mod then .error .mod
    else if r.resv then .error .reservedBit
    else if !k.operandsOk r then .error .operand
    else if !k.imm then .error .imm
    else .ok k.instr

/-- The instruction that a 96-bit word holds, or the reason it is refused. -/
def decode (w : BitVec 96) : Except ScanReason Instr := decodeRaw (Raw.ofWord w)

/-- Little-endian bytes as a number (R5). -/
def leNat : List Byte → Nat
  | [] => 0
  | b :: bs => b.toNat + 256 * leNat bs

/-- A number as `n` little-endian bytes (R5). -/
def leBytes : Nat → Nat → List Byte
  | 0, _ => []
  | n + 1, x => BitVec.ofNat 8 x :: leBytes n (x / 256)

/-- The decoder over the twelve bytes of an instruction slot (R25, R32). -/
def decodeBytes (bs : List Byte) : Except ScanReason Instr := decode (BitVec.ofNat 96 (leNat (bs.take 12)))

/-! ### The encoder -/

/-- A word with the guard and hints of `k` and every operand byte unused. -/
def Raw.base (k : Ctl) (op var mod : Nat) : Raw where
  op := BitVec.ofNat 8 op
  var := BitVec.ofNat 4 var
  gp := BitVec.ofNat 3 k.gp.val
  gn := k.gn
  dst := 0x78
  a := 0x78
  b := 0x78
  c := 0x78
  imm := 0
  mod := BitVec.ofNat 6 mod
  stop := k.stop
  resv := false
  stall := BitVec.ofNat 4 k.stall.val
  sb := BitVec.ofNat 3 k.sb.val
  yield := k.yield

namespace Raw

def setI (r : Raw) (imm : Word) : Raw := { r with imm := imm }
def setD (r : Raw) (d : BitVec 8) : Raw := { r with dst := d }
def setA (r : Raw) (a : Opnd) : Raw := { r with a := a.toByte }
def setB (r : Raw) (b : Opnd) : Raw := { r with b := b.toByte }
def setC (r : Raw) (c : Opnd) : Raw := { r with c := c.toByte }
def set1 (r : Raw) (o : D1) (imm : Word) : Raw := { r with dst := o.d.toByte, a := o.a.toByte, imm := imm }
def set2 (r : Raw) (o : D2) (imm : Word) : Raw :=
  { r with dst := o.d.toByte, a := o.a.toByte, b := o.b.toByte, imm := imm }
def set3 (r : Raw) (o : D3) (imm : Word) : Raw :=
  { r with dst := o.d.toByte, a := o.a.toByte, b := o.b.toByte, c := o.c.toByte, imm := imm }
def setV (r : Raw) (d a b : Fin 64) : Raw := { r with dst := vByte d, a := vByte a, b := vByte b }

end Raw

/-- MOD of layout I (Table 3.2). -/
def modI (w n sat : Bool) (cs : Nat := 0) : Nat :=
  (if w then 32 else 0) + (if n then 16 else 0) + 2 * cs + (if sat then 1 else 0)
/-- MOD of layouts G and C (Table 3.2). -/
def modG (fmt rnd : Nat) : Nat := 4 * fmt + rnd
/-- MOD of layout M (Table 3.2). -/
def modM (wid : Wid) (scope : Scope := .core) (flag : Bool := false) : Nat :=
  8 * wid.code + 2 * scope.code + (if flag then 1 else 0)
/-- VAR of a load or store. -/
def tyCode (ty : Option Tag) : Nat := (ty.map Tag.code).getD 0
/-- VAR of a real instruction (R79). -/
def ovCode (ov : Ov) (msk : Bool := false) : Nat := ov.code + (if msk then 4 else 0)

/-- The fields of an instruction's word (Tables 3.4 to 3.9); none for a step of another agent, which has no word. -/
def Instr.toRaw : Instr → Option Raw
  | .nop c => some (.base c 0x00 0 0)
  | .bra c off => some ((Raw.base c 0x01 0 0).setI off)
  | .brx c a imm => some (((Raw.base c 0x02 0 0).setA a).setI imm)
  | .callDirect c d off => some (((Raw.base c 0x03 0 0).setD d.toByte).setI off)
  | .callIndirect c d a imm => some ((((Raw.base c 0x03 1 0).setD d.toByte).setA a).setI imm)
  | .ret c a imm => some (((Raw.base c 0x04 0 0).setA a).setI imm)
  | .rcv c off => some ((Raw.base c 0x05 0 0).setI off)
  | .exit c => some (.base c 0x06 0 0)
  | .yield c => some (.base c 0x07 0 0)
  | .trap c code => some ((Raw.base c 0x08 0 0).setI (code.zeroExtend 32))
  | .rte c => some (.base c 0x09 0 0)
  | .brk c code => some ((Raw.base c 0x0A 0 0).setI (code.zeroExtend 32))
  | .pfi c lines off => some ((Raw.base c 0x0B lines.val 0).setI off)
  | .waitc c ld st cp tl => some ((Raw.base c 0x0C 0 0).setI (0#8 ++ tl ++ cp ++ st ++ ld))
  | .sleep c n => some ((Raw.base c 0x0D 0 0).setI (n.zeroExtend 32))
  | .iadd c o imm w n s => some ((Raw.base c 0x10 0 (modI w n s)).set2 o imm)
  | .isub c o imm w n s => some ((Raw.base c 0x11 0 (modI w n s)).set2 o imm)
  | .imul c o imm w => some ((Raw.base c 0x12 0 (modI w false false)).set2 o imm)
  | .imulh c o imm w n => some ((Raw.base c 0x13 0 (modI w n false)).set2 o imm)
  | .imad c o imm w => some ((Raw.base c 0x14 0 (modI w false false)).set3 o imm)
  | .imin c o imm w n => some ((Raw.base c 0x15 0 (modI w n false)).set2 o imm)
  | .imax c o imm w n => some ((Raw.base c 0x16 0 (modI w n false)).set2 o imm)
  | .iabs c o imm w s => some ((Raw.base c 0x17 0 (modI w false s)).set1 o imm)
  | .ineg c o imm w s => some ((Raw.base c 0x18 0 (modI w false s)).set1 o imm)
  | .shl c o imm w => some ((Raw.base c 0x19 0 (modI w false false)).set2 o imm)
  | .shr c o imm w => some ((Raw.base c 0x1A 0 (modI w false false)).set2 o imm)
  | .sar c o imm w => some ((Raw.base c 0x1B 0 (modI w false false)).set2 o imm)
  | .rot c o imm w => some ((Raw.base c 0x1C 0 (modI w false false)).set2 o imm)
  | .and c o imm w => some ((Raw.base c 0x1D 0 (modI w false false)).set2 o imm)
  | .or c o imm w => some ((Raw.base c 0x1E 0 (modI w false false)).set2 o imm)
  | .xor c o imm w => some ((Raw.base c 0x1F 0 (modI w false false)).set2 o imm)
  | .not c o imm w => some ((Raw.base c 0x20 0 (modI w false false)).set1 o imm)
  | .bfn3 c o t w => some ((Raw.base c 0x21 0 (modI w false false)).set3 o (t.zeroExtend 32))
  | .popc c o imm w => some ((Raw.base c 0x22 0 (modI w false false)).set1 o imm)
  | .clz c o imm w => some ((Raw.base c 0x23 0 (modI w false false)).set1 o imm)
  | .brev c o imm w => some ((Raw.base c 0x24 0 (modI w false false)).set1 o imm)
  | .bfe c o imm n => some ((Raw.base c 0x25 0 (modI false n false)).set3 o imm)
  | .bfi c o imm => some ((Raw.base c 0x26 0 0).set3 o imm)
  | .icmp c pd a b imm w n cmp =>
    some (((((Raw.base c 0x27 0 (modI w n false cmp.code)).setD (pByte pd)).setA a).setB b).setI imm)
  | .pcomb c pd pa pb pc t =>
    some { Raw.base c 0x28 0 0 with
      dst := pByte pd, a := pByte pa, b := pByte pb, c := pByte pc, imm := t.zeroExtend 32 }
  | .sel c o p imm w => some { (Raw.base c 0x29 0 (modI w false false)).set2 o imm with c := pByte p }
  | .mov c o imm w => some ((Raw.base c 0x2A 0 (modI w false false)).set1 o imm)
  | .lea c o imm n sh => some ((Raw.base c 0x2B 0 (modI false n false sh.val)).set2 o imm)
  | .retag c t o imm => some ((Raw.base c 0x2C t.code 0).set1 o imm)
  | .gadd c o imm f r ov => some ((Raw.base c 0x30 (ovCode ov) (modG f.code r.code)).set2 o imm)
  | .gsub c o imm f r ov => some ((Raw.base c 0x31 (ovCode ov) (modG f.code r.code)).set2 o imm)
  | .gmul c o imm f ov => some ((Raw.base c 0x32 (ovCode ov) (modG f.code 0)).set2 o imm)
  | .gdiv c o imm f ov => some ((Raw.base c 0x33 (ovCode ov) (modG f.code 0)).set2 o imm)
  | .gmad c o imm f r ov => some ((Raw.base c 0x34 (ovCode ov) (modG f.code r.code)).set3 o imm)
  | .gsqrt c o imm f => some ((Raw.base c 0x35 0 (modG f.code 0)).set1 o imm)
  | .grsq c o imm f r ov => some ((Raw.base c 0x36 (ovCode ov) (modG f.code r.code)).set1 o imm)
  | .grcp c o imm f ov m => some ((Raw.base c 0x37 (ovCode ov m) (modG f.code 0)).set1 o imm)
  | .gmin c o imm f => some ((Raw.base c 0x38 0 (modG f.code 0)).set2 o imm)
  | .gmax c o imm f => some ((Raw.base c 0x39 0 (modG f.code 0)).set2 o imm)
  | .gabs c o imm f => some ((Raw.base c 0x3A 0 (modG f.code 0)).set1 o imm)
  | .gneg c o imm f => some ((Raw.base c 0x3B 0 (modG f.code 0)).set1 o imm)
  | .gscale c o imm f ov => some ((Raw.base c 0x3C (ovCode ov) (modG f.code 0)).set2 o imm)
  | .gpow c o imm f ov => some ((Raw.base c 0x3D (ovCode ov) (modG f.code 0)).set2 o imm)
  | .gcmp c pd a b imm f cmp =>
    some (((((Raw.base c 0x3E cmp.code (modG f.code 0)).setD (pByte pd)).setA a).setB b).setI imm)
  | .gclass c o imm f => some ((Raw.base c 0x3F 0 (modG f.code 0)).set1 o imm)
  | .gexp2 c o imm f r ov m => some ((Raw.base c 0x40 (ovCode ov m) (modG f.code r.code)).set3 o imm)
  | .glog2 c o imm f r ov => some ((Raw.base c 0x41 (ovCode ov) (modG f.code r.code)).set1 o imm)
  | .gtanh c o imm f r ov => some ((Raw.base c 0x42 (ovCode ov) (modG f.code r.code)).set1 o imm)
  | .gsig c o imm f r ov => some ((Raw.base c 0x43 (ovCode ov) (modG f.code r.code)).set1 o imm)
  | .wstep c o imm f r ov => some ((Raw.base c 0x44 (ovCode ov) (modG f.code r.code)).set3 o imm)
  | .wmerge c o imm f r ov => some ((Raw.base c 0x45 (ovCode ov) (modG f.code r.code)).set3 o imm)
  | .cvt c o dt st r ov =>
    some ((Raw.base c 0x50 dt.code (modG st.code r.code)).set1 o (BitVec.ofNat 32 ov.code))
  | .pack c o imm f h => some ((Raw.base c 0x51 (if h then 1 else 0) (modG f.code 0)).set3 o imm)
  | .unpk c o imm f e => some ((Raw.base c 0x52 e.val (modG f.code 0)).set1 o imm)
  | .lpick c o imm m w => some ((Raw.base c 0x60 (m.code + (if w then 4 else 0)) 0).set2 o imm)
  | .bfly c d a b k => some ((Raw.base c 0x61 k.val 0).setV d a b)
  | .predx c form pa =>
    some (match form with
      | .all pd => { Raw.base c 0x62 0 0 with dst := pByte pd, a := pByte pa }
      | .any pd => { Raw.base c 0x62 1 0 with dst := pByte pd, a := pByte pa }
      | .uni pd => { Raw.base c 0x62 2 0 with dst := pByte pd, a := pByte pa }
      | .map d => { Raw.base c 0x62 3 0 with dst := d.toByte, a := pByte pa })
  | .redx c o imm op =>
    some (match op with
      | .int k w n => (Raw.base c 0x63 k.code (modI w n false)).set1 o imm
      | .gadd f r => (Raw.base c 0x63 6 (modG f.code r.code)).set1 o imm
      | .gmin f => (Raw.base c 0x63 7 (modG f.code 0)).set1 o imm
      | .gmax f => (Raw.base c 0x63 8 (modG f.code 0)).set1 o imm)
  | .elect c pd => some ((Raw.base c 0x64 0 0).setD (pByte pd))
  | .bind c s f n => some (((Raw.base c 0x70 s.val 0).setD (vByte f)).setI (n.zeroExtend 32))
  | .unbind c f n => some (((Raw.base c 0x71 0 0).setD (vByte f)).setI (n.zeroExtend 32))
  | .chadd c d a b ci => some ((Raw.base c 0x72 (if ci then 1 else 0) 0).setV d a b)
  | .chsub c d a b ci => some ((Raw.base c 0x73 (if ci then 1 else 0) 0).setV d a b)
  | .chmad c d a b e imm ci =>
    some { Raw.base c 0x74 (if ci then 1 else 0) 0 with
      dst := vByte d, a := vByte a, b := b.toByte, c := vByte e, imm := imm }
  | .chshl c d a b imm => some { Raw.base c 0x75 0 0 with dst := vByte d, a := vByte a, b := b.toByte, imm := imm }
  | .chshr c d a b imm ar =>
    some { Raw.base c 0x76 (if ar then 1 else 0) 0 with dst := vByte d, a := vByte a, b := b.toByte, imm := imm }
  | .chcmp c pd a b cmp =>
    some { Raw.base c 0x77 0 (modI false false false cmp.code) with dst := pByte pd, a := vByte a, b := vByte b }
  | .chneg c d a => some { Raw.base c 0x78 0 0 with dst := vByte d, a := vByte a }
  | .chld c d a off => some { Raw.base c 0x79 0 0 with dst := vByte d, a := a.toByte, imm := off }
  | .chst c a b off => some { Raw.base c 0x7A 0 0 with a := a.toByte, b := vByte b, imm := off }
  | .chmvc c d ci => some ((Raw.base c 0x7B (if ci then 1 else 0) 0).setD d.toByte)
  | .join c d a imm => some ((((Raw.base c 0xA0 0 0).setD (wByte d)).setA a).setI imm)
  | .leave c => some (.base c 0xA1 0 0)
  | .bar c => some (.base c 0xA2 0 0)
  | .barv c any pd pa =>
    some { Raw.base c 0xA3 (if any then 1 else 0) 0 with dst := pByte pd, a := pByte pa }
  | .spawn c a imm => some (((Raw.base c 0xA4 0 0).setA a).setI imm)
  | .depdec c a b imm => some ((((Raw.base c 0xA5 0 0).setA a).setB b).setI imm)
  | .ldg c d a off ty wid => some ((((Raw.base c 0x80 (tyCode ty) (modM wid)).setD d.toByte).setA a).setI off)
  | .stg c a b st off ty wid =>
    some (((((Raw.base c 0x81 (tyCode ty) (modM wid .core st.isSome)).setA a).setB b).setC (st.getD .zero)).setI off)
  | .lds c d a off ty wid => some ((((Raw.base c 0x82 (tyCode ty) (modM wid)).setD d.toByte).setA a).setI off)
  | .sts c a b off ty wid => some ((((Raw.base c 0x83 (tyCode ty) (modM wid)).setA a).setB b).setI off)
  | .ldv c d a off ty wid sc => some ((((Raw.base c 0x84 (tyCode ty) (modM wid sc)).setD d.toByte).setA a).setI off)
  | .atom c o off op wid sc sp => some ((Raw.base c 0x85 op.code (modM wid sc sp)).set3 o off)
  | .red c a b off op wid sc sp => some ((((Raw.base c 0x86 op.code (modM wid sc sp)).setA a).setB b).setI off)
  | .monitor c a off => some (((Raw.base c 0x87 0 0).setA a).setI off)
  | .waitmon c t => some ((Raw.base c 0x88 0 0).setI t)
  | .fenceAcq c sc => some (.base c 0x89 0 (2 * sc.code))
  | .fenceRel c sc => some (.base c 0x89 1 (2 * sc.code))
  | .fenceAr c sc => some (.base c 0x89 2 (2 * sc.code))
  | .pfd c l1 a off => some (((Raw.base c 0x8A (if l1 then 1 else 0) 0).setA a).setI off)
  | .bankcfgCache c a => some ((Raw.base c 0x8B 0 0).setA a)
  | .bankcfgScratchpad c a => some ((Raw.base c 0x8B 1 0).setA a)
  | .bankcfgFifo c a e => some (((Raw.base c 0x8B 2 0).setA a).setI (BitVec.ofNat 32 e.val))
  | .rmapMap c a b e imm => some (((((Raw.base c 0x8C 0 0).setA a).setB b).setC e).setI imm)
  | .rmapUnmap c a imm => some (((Raw.base c 0x8C 1 0).setA a).setI imm)
  | .cpyGl c a b e d => some (((((Raw.base c 0xB0 0 0).setA a).setB b).setC e).setI d.toImm)
  | .cpyLg c a b e d => some (((((Raw.base c 0xB0 1 0).setA a).setB b).setC e).setI d.toImm)
  | .cpyGf c a b e d => some (((((Raw.base c 0xB0 2 0).setA a).setB b).setC e).setI d.toImm)
  | .cpyGg c a e d => some ((((Raw.base c 0xB0 3 0).setA a).setC e).setI d.toImm)
  | .cpym c a b e d => some (((((Raw.base c 0xB1 0 0).setA a).setB b).setC e).setI d.toImm)
  | .publish c a imm => some (((Raw.base c 0xB2 0 0).setA a).setI imm)
  | .lrinv c a imm => some (((Raw.base c 0xB3 0 0).setA a).setI imm)
  | .lrinvAll c => some (.base c 0xB3 1 0)
  | .cbacq c d a imm => some ((((Raw.base c 0xB4 0 0).setD d.toByte).setA a).setI imm)
  | .cbrel c a imm => some (((Raw.base c 0xB5 0 0).setA a).setI imm)
  | .mmaGlob c a imm => some (((Raw.base c 0xC0 0 0).setA a).setI imm)
  | .mmaLoc c a imm => some (((Raw.base c 0xC0 1 0).setA a).setI imm)
  | .mdrain c a b e d => some (((((Raw.base c 0xC1 0 0).setA a).setB b).setC e).setI d.toImm)
  | .mzero c a b imm => some ((((Raw.base c 0xC2 0 0).setA a).setB b).setI imm)
  | .tbld c a b imm => some ((((Raw.base c 0xC3 0 0).setA a).setB b).setI imm)
  | .qnt c o ws imm f r => some { (Raw.base c 0xD0 0 (modG f.code r.code)).set2 o imm with c := wByte ws }
  | .statrd c d a n => some ((((Raw.base c 0xD1 0 0).setD d.toByte).setA a).setI (BitVec.ofNat 32 n.val))
  | .statrst c a imm => some (((Raw.base c 0xD2 0 0).setA a).setI imm)
  | .statmrg c a b d => some ((((Raw.base c 0xD3 0 0).setA a).setB b).setI d.toImm)
  | .mfs c d reg => some (((Raw.base c 0xE0 0 0).setD d.toByte).setI (reg.zeroExtend 32))
  | .mts c a reg => some (((Raw.base c 0xE1 0 0).setA a).setI (reg.zeroExtend 32))
  | .cntr c d n => some (((Raw.base c 0xE2 0 0).setD d.toByte).setI (n.zeroExtend 32))
  | .timeClock c d => some ((Raw.base c 0xE3 0 0).setD d.toByte)
  | .timePtp c d => some ((Raw.base c 0xE3 1 0).setD d.toByte)
  | .safePointHalt _ _ | .loadCompletion _ _ _ | .storeCompletion _ _ _ | .ifetchFillComplete _ _
  | .tlbWalkComplete _ | .copyAccept _ | .cbReserve _ _ | .copyCompletion _ _ _ | .copyError _ _ _ | .cpymDrain _ _
  | .windowRingRetry _ _ | .publishPoint _ _ | .matrixOpStart _ | .matrixOpCompletion _ | .matrixOpError _
  | .tbldExecute _ | .tablePull _ | .tsrUpdate _ | .dependenceDecrement _ _ | .taskPlacement _ _ _
  | .bindRecordDispatch _ _ | .holdRelease _ _ | .taskCompletion _ _ | .stealRequest _ _ _
  | .stealRequestReceive _ _ | .sorediumPacket _ _ | .stealReply _ | .pageResident _ | .monitorTrigger _
  | .waitmonTimeout _ _ | .sleepExpiry _ _ | .faultRecordDelivery _ | .preemptContext _ _ | .restoreContext _ _
  | .preemptTimeout _ _ | .eccError _ | .launch _ _ _ | .signalWrite _ _ _ _ | .signalAdd _ _ _ _ | .waitGe _ _ _ _
  | .waitEq _ _ _ _ | .waitPoll _ | .traceStart _ _ _ _ _ _ _ | .traceStop _ _ | .mapPages _ _ _ _
  | .mapExec _ _ _ _ _ _ | .mapCode _ _ _ _ _ | .mapKey _ _ _ _ | .mapContext _ _ _ _ | .mapFuse _ _ _ _
  | .unmapPages _ _ _ _ | .unmapExec _ _ _ _ | .unmapCode _ _ _ | .unmapKey _ _ _ | .unmapContext _ _ _
  | .statMerge _ _ _ _ | .ringDoorbell _ _ | .fanswerResume _ _ | .fanswerSkip _ _ _ | .fanswerKill _ _
  | .dbgctlHalt _ _ | .dbgctlResume _ _ | .dbgctlStep _ _ | .dbgctlBpsync _ _ | .ptpofsWrite _ _
  | .ptprateWrite _ _ | .pwrlimWrite _ _ | .fwlockWrite _ _ | .registerWrite _ _ _ | .inboundRead _ _ _
  | .inboundWrite _ _ _ | .inboundAtomic _ _ _ _ | .configRequest _ | .portDown _ | .portUp _ | .coldReset _ _
  | .junctionTrip | .powerClampSample _ _ | .firmwareWatchdogReset _ | .counterPageRefresh _
  | .counterGroupRotation | .pcSample _ | .waitmonUnpromptedEnd _ _ | .zeroLengthReadCompletion _ => none

/-- The 96-bit word of an instruction of a warp (R25). -/
def encode (i : Instr) : Option (BitVec 96) := i.toRaw.map Raw.toWord

/-- An instruction of a warp: one with a word. -/
def Instr.isWarp (i : Instr) : Bool := i.toRaw.isSome

/-- The instruction that the decoder reads from `nbits` bits, the bits above them zero; bit 0 is the least significant
bit of the first of the three little-endian words (R25). -/
def decodeTableWord (nbits w : Nat) : Option Instr :=
  match decode (BitVec.ofNat 96 (w % 2 ^ nbits)) with
  | .ok i => some i
  | .error _ => none

end Sys2Proof
end

