-- ==== Sys2Proof/Machine/State.lean ====
section
/-! DEFINITION. The state of the machine as plain data: every piece of state the manual gives the module, its agents
and the records in flight between them; the reasons a step stops; the state after reset (R441). -/

namespace Sys2Proof.Machine

/-- A table by number: rising keys, no entry equal to the default of its use (log 5). -/
abbrev Sparse (α : Type) := List (Nat × α)

/-- Why the machine stops without a next state. -/
inductive Fault where
  /-- Raised by every step of an agent while the module is off (R439), in bring-up, or after bring-up has failed (R441): nothing
  runs then. Safe. -/
  | moduleOff
  deriving DecidableEq, Repr

/-- Why a step has no meaning. -/
inductive Refusal where
  /-- Raised by an arm of exec whose instruction has no meaning yet. Safe. -/
  | notModelled (mnemonic : String)
  /-- Raised by an instruction of a warp when the current slot holds no warp that can issue: there is nothing to run it.
  Safe. -/
  | noWarp
  /-- Raised by step when the fetched word is none that the scanner passes, which R43 and R44 exclude. Safe. -/
  | badWord (reason : ScanReason)
  deriving DecidableEq, Repr

/-! ### Warps -/

/-- A reconvergence stack entry (R121, Table 5.1). -/
structure StackEntry where
  mask : Mask
  /-- KIND: a pending entry, else a join entry. -/
  pending : Bool
  pc : DWord
  deriving DecidableEq, Repr

/-- The limb-chain binding (R199): segment code, first register, register count. -/
structure Chain where
  seg : Fin 5
  first : Fin 64
  count : Nat
  deriving DecidableEq, Repr

/-- Where a byte of a local location has its home (R250): a physical address, or a byte of a core's bank space. -/
inductive Loc where
  | phys (pa : Nat)
  | bank (core : CoreIx) (off : Nat)
  deriving DecidableEq, Repr

/-- A byte that a load returns: already held, or to be read at its home under a key ID. -/
inductive ByteSrc where
  | held (b : Byte)
  | home (l : Loc) (key : BitVec 10)
  deriving DecidableEq, Repr

/-- One lane of an outstanding load, lowest byte first. -/
structure LaneLoad where
  lane : Lane
  /-- The virtual address of the first byte, in global memory. -/
  va : Nat
  /-- It reads bytes from the L1 where they are valid there (R229, R259). -/
  l1 : Bool
  bytes : List ByteSrc
  deriving DecidableEq, Repr

/-- One lane of an atomic operation (R266): operation, bytes, place, key and operands. -/
structure AtomLane where
  lane : Lane
  op : AtomOp
  bytes : Nat
  loc : Loc
  key : BitVec 10
  data : DWord
  cmp : DWord
  deriving DecidableEq, Repr

/-- The line a fill of the L1 goes to, once its bytes are read (R229). -/
structure FillSector where
  /-- Virtual address of the 32-byte sector. -/
  va : Nat
  pa : Nat
  key : BitVec 10
  deriving DecidableEq, Repr

/-- An outstanding load or ATOM (R141, R268). -/
structure PLoad where
  /-- Order of issue on the die. -/
  seq : Nat
  sb : Fin 8
  dst : Dst
  tag : Tag
  /-- Registers written. -/
  regs : Nat
  /-- The active mask at issue (R21). -/
  m : Mask
  lanes : List LaneLoad
  atom : List AtomLane
  /-- A plain read of R255, which keeps the order of its warp's reads. -/
  plain : Bool
  fills : List FillSector
  /-- The second destination of QNT (R345). -/
  also : Option (Fin 32 × Word)
  /-- Window accesses outstanding: port, lane and virtual address (R407). -/
  win : List (PortIx × Lane × DWord)
  /-- Sampled at issue: the record and the cycle (R390). -/
  sample : Option (BitVec 256 × Nat)
  deriving DecidableEq, Repr

/-- A byte on its way to its home (R257). -/
structure FlightByte where
  loc : Loc
  key : BitVec 10
  val : Byte
  deriving DecidableEq, Repr

/-- What a statistics update adds (R337): the elements it counts, as L32 or IEEE codes, and saturations. -/
structure TsrDelta where
  /-- Amounts to add by word; word 6 is WRITECNT, 64 bits over words 6 and 7. -/
  adds : Sparse Nat
  /-- The largest magnitude counted, as an L32 code. -/
  maxlog : Option Word
  deriving DecidableEq, Repr

/-- A statistics update on its way to the record home (R337). -/
structure TsrSend where
  ctx : CtxIx
  /-- Physical address of the record. -/
  pa : Nat
  key : BitVec 10
  gen : Word
  delta : TsrDelta
  /-- The warp and the order number of its store that waits for the update (R341). -/
  by_ : Option (CoreIx × SlotIx × Nat)
  deriving DecidableEq, Repr

/-- An outstanding store, RED or STATRST (R141, R268, R341). -/
structure PStore where
  seq : Nat
  /-- Virtual addresses of the L1 lines that hold its bytes dirty (R230). -/
  lines : List Nat
  flight : List FlightByte
  red : List AtomLane
  /-- The update that follows the bytes (R341), not yet sent, and whether it is on its way. -/
  stat : Option TsrSend
  sent : Bool
  /-- Window accesses not yet transmitted: port, lane and virtual address (R406, R407). -/
  win : List (PortIx × Lane × DWord)
  sample : Option (BitVec 256 × Nat)
  deriving DecidableEq, Repr

/-- A register whose old bits may still be read (R38): v registers are 0 to 63, w registers 64 to 95, predicates 96 to
102, the carry flags 103 and %limbs 104; its bits and tag before, the first cycle at which the new ones stand, and the scoreboard slot attached to it (R37). -/
structure Hazard where
  reg : Nat
  old : Vector Word 32
  tag : Tag
  due : Nat
  sb : Fin 8
  deriving DecidableEq, Repr

/-- What holds a warp at its instruction (R155). -/
inductive Wait where
  | waitc (ld st cp tl : Nat)
  /-- A counter that would pass 63 (R23). -/
  | counter
  | queue
  /-- PUBLISH until the warp's own copy commands are complete (R300 step 1). -/
  | commands
  | barrier
  | joining
  | sleep (start len : Nat)
  | waitmon (start timeout : Nat)
  /-- CBACQ on a circular buffer of a core. -/
  | cbacq (core : CoreIx) (buf : Nat)
  | release (stage : Nat)
  /-- A page walk of a data access (R246). -/
  | walk
  /-- PUBLISH of a region by these lanes, its flip requested (R300). -/
  | publish (region : BitVec 12) (lanes : Mask)
  /-- A line of an instruction cache (R133). -/
  | fill
  /-- A register dependence in interlocked mode, a scoreboard slot in hinted mode (R37, R39). -/
  | depend
  /-- A plain read of a byte that an outstanding ATOM or RED touches (R268). -/
  | atomic
  /-- Pages not resident that the firmware resolves (R368). -/
  | resident
  deriving DecidableEq, Repr

/-- What a warp does (R127, R362, R373, R382). -/
inductive Status where
  | running
  | parked
  /-- Parked and forwarded to the host (R368). -/
  | forwarded
  | halted
  /-- Stopped for pre-emption (R373). -/
  | stopped
  | ended
  deriving DecidableEq, Repr

/-- A warp in its slot (R152). -/
structure Warp where
  ctx : CtxIx
  /-- The task's number in the die. -/
  task : Nat
  index : Nat
  /-- MODEL: a name that no other warp has had (log 18). -/
  uid : Nat
  prio : Fin 4
  /-- HOLD of the bind record (R163). -/
  hold : Bool
  pc : DWord
  m : Mask
  x : Mask
  /-- The top entry first. -/
  stack : List StackEntry
  v : Vector (Vector Word 32) 64
  vt : Vector Tag 64
  w : Vector Word 32
  wt : Vector Tag 32
  p : Vector Mask 7
  ld : Nat
  st : Nat
  cp : Nat
  tl : Nat
  mode : Word
  chain : Option Chain
  carry : Mask
  band : Option (BitVec 8)
  status : Status
  wait : Option Wait
  /-- The fault record (R362). -/
  record : Option (Vector Word 256)
  /-- The second record of a fault in the handler (R369). -/
  nested : Option (Vector Word 256)
  /-- The program counter that the record's CODEOBJ and PCOFF name. -/
  parkPc : DWord
  /-- The warp runs its trap handler (R365). -/
  inHandler : Bool
  /-- Lanes skipped at the next issue (R367). -/
  skip : Mask
  haltPend : Bool
  stepPend : Bool
  /-- A step was pending when the warp entered its handler: it is delivered after the handler's return (R385). -/
  stepAfter : Bool
  /-- The next issue of a safe point is not matched (R385). -/
  pass : Bool
  /-- The place a halt record was written and its bytes as written, to load again what the host has changed (R384). -/
  haltAt : Option (Nat × List Byte)
  /-- A pre-emption request is pending (R373). -/
  preempt : Bool
  loads : List PLoad
  stores : List PStore
  /-- The armed monitor's block and whether it has been triggered (R269). -/
  monitor : Option (Loc × Bool)
  /-- The cycle at which a write first changed the monitored block (R270). -/
  alarm : Option Nat
  /-- Spans whose walks have ended for the instruction that waits for them (R246). -/
  walked : List Nat
  /-- Lines of a release's write step, still to be written under the translations probed: virtual address, physical address
  and key (R370). -/
  flushing : List (Nat × Nat × BitVec 10)
  hazards : List Hazard
  /-- The cycle in which the warp last issued (R391). -/
  issuedAt : Option Nat
  /-- The first cycle at which STALL lets the warp issue. -/
  nextIssue : Nat
  /-- The cycle at which the warp became ready (R155), kept until it issues. -/
  readyAt : Option Nat
  age : Nat
  yielded : Bool
  /-- Ports through which the warp has window stores not yet confirmed at home (R253). -/
  ports : List PortIx
  deriving DecidableEq, Repr

/-! ### Cores -/

/-- A bank's mode (R216). -/
inductive BankMode where
  | cache | scratchpad | fifo
  deriving DecidableEq, Repr

/-- Who holds a scratchpad allocation or a region (R165, R225). -/
inductive Owner where
  | band (id : BitVec 8)
  | task (id : Nat)
  /-- Space reserved for the pending joins of a band (R192). -/
  | reserved (id : BitVec 8)
  deriving DecidableEq, Repr

/-- A scratchpad allocation in a core's bank space (R218). -/
structure Alloc where
  id : Nat
  owner : Owner
  ctx : CtxIx
  start : Nat
  bytes : Nat
  deriving DecidableEq, Repr

/-- A circular buffer (R223, Table 9.4). -/
structure Buffer where
  id : Nat
  alloc : Nat
  /-- Offset in bank space of slot 0, and in the window. -/
  start : Nat
  woff : Nat
  /-- How many banks it takes. -/
  banks : Nat
  e : Nat
  n : Nat
  head : Nat
  tail : Nat
  free : Nat
  filled : Nat
  rsv : Nat
  acq : Nat
  /-- The reservations in order, each with whether it has been filled. -/
  order : List (Nat × Bool)
  deriving DecidableEq, Repr

/-- A region of the region map unit (R225, Table 9.5); a granule is absent or has a dirty mask. -/
structure Region where
  owner : Owner
  alloc : Nat
  ctx : CtxIx
  woff : Nat
  len : Nat
  va : Nat
  granules : List (Option (BitVec 256))
  deriving DecidableEq, Repr

/-- A line of the L1 data cache (R228). -/
structure L1Line where
  ctx : CtxIx
  /-- Virtual address of the line. -/
  va : Nat
  way : Fin 16
  data : Vector Byte 128
  valid : BitVec 128
  dirty : BitVec 128
  /-- The owner's slot and task, while a byte is dirty. -/
  owner : SlotIx × Nat
  /-- The record: CORE, else PRIVATE. -/
  shared : Bool
  deriving DecidableEq, Repr

/-- A TLB entry (R245): attribute bits of the PTE with PFN and RES clear, base frame and mask. -/
structure TlbEntry where
  ctx : CtxIx
  span : Nat
  attr : DWord
  base : Int
  mask : BitVec 256
  deriving DecidableEq, Repr

/-- A line of the instruction cache (R132), its use order in the list; `used` once a demand fetch has hit it. -/
structure ILine where
  ctx : CtxIx
  va : Nat
  /-- The frame that its bytes come from (R135). -/
  frame : Nat
  used : Bool
  words : List Byte
  deriving DecidableEq, Repr

/-- A fill of the instruction cache, in one of its 8 slots or waiting for one (R133). -/
structure IFill where
  ctx : CtxIx
  va : Nat
  demand : Bool
  deriving DecidableEq, Repr

/-- The warp that issued a command, as the error log names it (Table 12.6). -/
structure Issuer where
  core : CoreIx
  slot : SlotIx
  ctx : CtxIx
  task : Nat
  deriving DecidableEq, Repr

/-- The commands of the copy engines (R278). -/
inductive CopyKind where
  | gl | lg | gf | gg | multicast | drain | merge
  deriving DecidableEq, Repr

/-- A scratchpad place resolved at issue (R292): the allocation, its core and the offset in its window. -/
structure LocalRef where
  core : CoreIx
  alloc : Nat
  off : Nat
  /-- The scratchpad address as the program gave it. -/
  addr : Nat
  deriving DecidableEq, Repr

/-- A command of the copy engines with what it captured at issue (R280). -/
structure CopyCmd where
  id : Nat
  kind : CopyKind
  by_ : Issuer
  /-- The record that describes the memory side, and for CPY.gg the source. -/
  rec1 : BitVec 512
  recVa : Nat
  /-- The destination record of CPY.gg. -/
  rec2 : BitVec 512
  place : Option LocalRef
  origin : DWord
  dep : Option (ClusterIx × BitVec 12)
  subIn : Bool
  /-- Source elements that it has read since its issue, by place in the box (R260). -/
  got : Sparse Nat
  /-- Elements that it has moved, and what they add to the statistics by group, not yet sent (R285, R338). -/
  moved : List Nat
  deltas : List (Nat × TsrDelta)
  /-- Pages of its destination that it has translated, each with the selection that it read there (R298). -/
  sel : List (Nat × Bool)
  /-- DREC and GEN of the drained tiles of which it has read an element (R329). -/
  recs : Sparse (Option (Word × Option Word))
  /-- GEN read at issue, for STAT = 1 (R338); none until the record can be read. -/
  gen : Option Word
  /-- Words 0 to 3 of the record as read at acceptance, for QNT = 1 (R288). -/
  qrec : Option (BitVec 128)
  /-- The circular buffer named at issue, and the slot reserved in it (R293). -/
  buf : Option Nat
  slot : Option Nat
  /-- Where that slot starts, from the buffer's first byte. -/
  slotAt : Nat
  /-- First tile and count of a drain (R329), and the matrix operations that it follows (R309). -/
  tiles : Nat × Nat
  after : List Nat
  /-- Source index and destination word of a merge (R349). -/
  merge : Word × Word
  /-- The window-ring slot taken (R303). -/
  ringSlot : Option (Nat × Nat)
  /-- The holding buffer's tile, once read (R297). -/
  tile : Option (List Byte)
  /-- Receivers still to drain, each with its allocation as resolved at issue and the slot that its tile has been written into;
  whether one was skipped (R297). -/
  receivers : List (Fin 48 × Option Nat × Option Nat)
  skipped : Bool
  /-- Elements that have saturated and are not yet counted. -/
  sats : Nat
  /-- An element has saturated. -/
  clipped : Bool
  /-- SCALE of its record is stored (R346). -/
  scaled : Bool
  /-- The page, not resident, that the command waits for (R292). -/
  waiting : Option Nat
  /-- An error that the command has met: reason, address and KIND. -/
  error : Option (Nat × DWord × Nat)
  /-- The ring command that a STAT_MERGE packet completes. -/
  packet : Option (RingIx × Nat)
  deriving DecidableEq, Repr

/-- An entry of a matrix queue (R314): an operation with its images and the places that its scratchpad addresses name, row by
row of A, column by column of B and of the scale records, and the table buffer; or a TBLD. -/
inductive MatCmd where
  | op (id : Nat) (by_ : Issuer) (mpb : BitVec 1024) (tlr : BitVec 512) (a b s : List LocalRef)
    (t : Option (LocalRef × Nat))
  | tbld (id : Nat) (by_ : Issuer) (src : LocalRef) (entry : Fin 8)
  deriving DecidableEq, Repr

/-- What a matrix operation or a TBLD reads: a row of A, a column of B, a column's scale records, a table set. -/
inductive MatSrc where
  | a | b | s | t
  deriving DecidableEq, Repr

/-- A byte that an entry of a matrix queue has read since its issue (R260, R314): the row or column, and the byte there. -/
structure EarlyByte where
  id : Nat
  src : MatSrc
  index : Nat
  off : Nat
  val : Byte
  deriving DecidableEq, Repr

/-- MZERO and MDRAIN in the order of R309: what waits for earlier matrix operations. -/
structure TileZero where
  /-- The operations that precede it. -/
  after : List Nat
  first : Nat
  count : Nat
  deriving DecidableEq, Repr

/-- A core (R152). -/
structure Core where
  slots : Vector (Option Warp) 64
  /-- The first cycle at which each pipe accepts an instruction again (R154). -/
  busy : Vector Nat 8
  /-- The bind records that wait (R163). -/
  bindQ : List (BitVec 128)
  modes : Vector BankMode 16
  /-- Bytes of the 16 banks by bank × 0x4000 + offset; unlisted bytes are zero. -/
  sram : Sparse Byte
  allocs : List Alloc
  bufs : List Buffer
  regions : List Region
  /-- The most recently used line first. -/
  l1 : List L1Line
  /-- The most recently used line first. -/
  icache : List ILine
  fills : List IFill
  /-- The core's TLB, 32 entries (R246). -/
  tlb : List TlbEntry
  copyQ : List CopyCmd
  matQ : List MatCmd
  running : Option MatCmd
  /-- Blocks of the running operation that have started (R322, R324). -/
  started : Nat
  early : List EarlyByte
  /-- The context and the page, not resident, that the operation or the TBLD waits for (R315). -/
  opWait : Option (CtxIx × Nat)
  zeros : List TileZero
  /-- Elements by (tile × 32 + row) × 64 + column; unlisted elements are +0 (R307). -/
  tiles : Sparse Word
  /-- The DREC of each tile with a valid one (R307). -/
  drec : Sparse (BitVec 20)
  /-- The 8 table entries, 1,024 bytes each; unlisted bytes are zero. -/
  tables : Sparse Byte
  /-- The table sets of the running operation's blocks, in order, then a set pulled ahead for the next operation (R323, R324). -/
  staging : List (List Byte)
  /-- Lines pinned for the core (R325). -/
  pins : List Nat
  /-- The context whose state the store holds (R308). -/
  ctxOwner : Option CtxIx
  /-- The next slot that a PC sample looks at (R391), and the memory instructions since the last sample (R390). -/
  pcSlot : Nat
  memCount : Nat
  deriving DecidableEq, Repr

/-! ### Clusters and tasks -/

/-- A dependence counter (R171). -/
structure DepCounter where
  value : BitVec 16
  err : Bool
  waiters : List Nat
  deriving DecidableEq, Repr

/-- A member of a band. -/
structure Member where
  core : CoreIx
  slot : SlotIx
  /-- The warp's name. -/
  uid : Nat
  deriving DecidableEq, Repr

/-- How a member has arrived at the generation's end (R167). -/
inductive Arrival where
  | bar
  /-- The mode, pd, the participating lanes, and pa in them. -/
  | vote (any : Bool) (pd : Fin 8) (p : Mask) (bits : Mask)
  | leave
  | gone
  deriving DecidableEq, Repr

/-- A band (R165). -/
structure Band where
  id : BitVec 8
  task : Nat
  ctx : CtxIx
  gang : Bool
  /-- The core of a band that is not a gang (R164, R192). -/
  home : CoreIx
  members : List Member
  /-- The cores of the launch members whose bind records have not been dispatched (R166). -/
  coming : List CoreIx
  arrived : List (Member × Arrival)
  joins : List (Member × Fin 32)
  generation : Nat
  deriving DecidableEq, Repr

/-- What a task does. -/
inductive TaskState where
  | waiting
  /-- Submission waits for the TCB's page (R159). -/
  | readyToCapture
  | captureWait
  | ready
  | running
  /-- In a soredium packet (R182). -/
  | donated
  /-- Aborted, until the page is resident (R361). -/
  | aborted
  /-- All warps ended; completion waits for CTGT's page (R174). -/
  | completing
  deriving DecidableEq, Repr

/-- A task (R157). -/
structure Task where
  id : Nat
  ctx : CtxIx
  tcb : BitVec 512
  tcbVa : Nat
  handle : BitVec 16
  home : ClusterIx
  state : TaskState
  /-- ERR was set on its counter (R173). -/
  inErr : Bool
  killed : Bool
  faulted : Bool
  launchErr : Bool
  aborts : Nat
  committed : Bool
  /-- Virtual address of the parameter copy. -/
  param : Nat
  /-- Warps whose bind records have been written, and warps whose slots are free again. -/
  placed : Nat
  done : Nat
  readySince : Nat
  /-- Page that it waits for. -/
  waitVa : Nat
  deriving DecidableEq, Repr

/-- A submission that waits for the TCB's page (R159). -/
structure Submission where
  ctx : CtxIx
  va : Nat
  cluster : ClusterIx
  by_ : Option Issuer
  packet : Option (RingIx × Nat)
  deriving DecidableEq, Repr

/-- A message of work donation (R180 to R182). -/
structure StealMsg where
  tag : BitVec 16
  thief : ClusterIx
  anyCtx : Bool
  ctx : CtxIx
  want : Nat
  deriving DecidableEq, Repr

/-- A soredium packet (R182): the task's number in the die, its TCB image with the carriage word, and its parameter bytes. -/
structure SorediumPacket where
  task : Nat
  image : BitVec 512
  param : List Byte
  deriving DecidableEq, Repr

/-- A decrement on its way to a counter: its index, the error flag, how many, and its source, if that sends in order
(R239): a core, or 384 and a cluster's scheduler. -/
structure Decrement where
  index : BitVec 12
  err : Bool
  times : Nat
  by_ : Option Nat
  deriving DecidableEq, Repr

/-- A cluster (R2). -/
structure Cluster where
  /-- The cluster's TLB, 1,024 entries (R246). -/
  tlb : List TlbEntry
  /-- Dependence counters by index; unlisted counters are zero (R171). -/
  deps : Sparse DepCounter
  decs : List Decrement
  bands : List Band
  /-- Bind records whose stores are under way, in order, the first stalled by a full queue (R163). -/
  binds : List (CoreIx × BitVec 128)
  /-- The 32 engine contexts and the holding buffer's commands (R278, R297). -/
  engine : List CopyCmd
  /-- The core whose queue head is served next (R278). -/
  nextCore : Fin 48
  minq : Vector (BitVec 13) 5
  capq : Vector (BitVec 13) 5
  /-- Entries granted to each queue, beyond those that the model counts elsewhere. -/
  counts : Vector Nat 5
  stealThr : BitVec 12
  stealOut : Option StealMsg
  stealIn : List StealMsg
  /-- The offset, less 1, of the next victim (R180). -/
  stealNext : Fin 7
  /-- Soredium packets in flight to this cluster (R182). -/
  packetsIn : List SorediumPacket
  /-- The reply in flight to this cluster: TAG and COUNT (Table 6.10). -/
  replyIn : Option (BitVec 16 × Nat)
  /-- Records on their way to the host or the resolver, each with its partition (R177, R368). -/
  faultQ : List (FnIx × Vector Word 256)
  /-- Records that their senders hold until the pool grants them an entry (R177). -/
  faultHeld : List (FnIx × Vector Word 256)
  /-- Contexts under pre-emption, each with the cycle of the request (R374). -/
  preempting : List (CtxIx × Nat)
  enabled : Bool
  deriving DecidableEq, Repr

/-! ### Contexts, translation and memory -/

/-- A code object loaded by MAP CODE (R418 to R420). -/
structure CodeObj where
  id : Word
  /-- Virtual address of the first code page. -/
  base : Nat
  cls : Nat
  svn : Nat
  /-- The live-map table as read at the load, NSAFE entries (Table 1.6). -/
  live : List (BitVec 128)
  npages : Nat
  target : Word
  deriving DecidableEq, Repr

/-- A context (R409). -/
structure Context where
  /-- The descriptor as MAP CONTEXT read it. -/
  desc : BitVec 2048
  /-- Selectors that pick frame PFN + 1 (R244). -/
  flipped : List (BitVec 12)
  poison : List (BitVec 12)
  /-- Pages that a command has written since the last publish point (R299). -/
  stale : List Nat
  objs : List CodeObj
  /-- The breakpoint table as last loaded (R381). -/
  bps : List DWord
  ended : Bool
  deriving DecidableEq, Repr

/-- An executable page (R405, R443): its frame, and what its records name. -/
structure ExecPage where
  frame : Nat
  ctx : CtxIx
  va : Nat
  codeId : Word
  /-- The address that offsets count from. -/
  base : Nat
  /-- The object is loaded, so that the page has a live-map table. -/
  objLoaded : Bool
  cls : Nat
  interlocked : Bool
  deriving DecidableEq, Repr

/-- A walk in progress (R246). -/
structure Walk where
  ctx : CtxIx
  va : Nat
  /-- The entries of the leaf table that it has read already, by page (R245). -/
  got : Sparse DWord
  deriving DecidableEq, Repr

/-- A global monitor entry (R269), oldest first. -/
structure MonEntry where
  slice : Nat
  line : Nat
  core : CoreIx
  slot : SlotIx
  deriving DecidableEq, Repr

/-- A request for pages (R248). -/
structure PageReq where
  ctx : CtxIx
  va : Nat
  pages : List Nat
  deriving DecidableEq, Repr

/-- A record image in the engines' cache (R284). -/
structure TlrImage where
  ctx : CtxIx
  va : Nat
  image : BitVec 512
  deriving DecidableEq, Repr

/-- Posted writes of a port that are not yet at home (R406). -/
structure Posted where
  by_ : Option (CoreIx × SlotIx)
  /-- The context and the order number of the access, where a warp makes it (R247). -/
  ctx : CtxIx
  seq : Nat
  bytes : List (Nat × Byte)
  deriving DecidableEq, Repr

/-- A port (R402). -/
structure Port where
  up : Bool
  posted : List Posted
  /-- Zero-length reads outstanding: how many posted writes each stands behind, and who waits. -/
  zreads : List (Nat × Option (CoreIx × SlotIx))
  deriving DecidableEq, Repr

/-- A command of a ring that has been consumed and not completed (R414). -/
inductive RingWork where
  | launch
  | signal (addr value : DWord) (add : Bool)
  | wait (addr value : DWord) (eq : Bool)
  /-- The pages invalidated, and the order number before which accesses used the old translation (R247). -/
  | pages (va count before : Nat)
  /-- Its writes are on their way home through a port, or through any (R389, R406). -/
  | home (port : Option PortIx)
  | statMerge
  deriving DecidableEq, Repr

structure RingCmd where
  n : Nat
  hdr : PktHdr
  work : RingWork
  deriving DecidableEq, Repr

/-- A command ring (R411, Table 19.4). -/
structure Ring where
  base : DWord
  logn : BitVec 5
  enable : Bool
  head : Word
  tail : Word
  cmds : List RingCmd
  deriving DecidableEq, Repr

/-- A function's register page (R415) and counter page (R393). -/
structure Function where
  rings : Vector Ring 16
  /-- The first u64 of FANSWER. -/
  fanswer : DWord
  fltbase : DWord
  fltctl : Word
  dbgctl : DWord
  inva : DWord
  inctx : CtxIx
  /-- The counter page by entry; unlisted entries are zero. -/
  page : Sparse DWord
  /-- Entries that a refresh under way has still to write, SEQ last (R394). -/
  refresh : List (Nat × DWord)
  /-- The counts behind the page. -/
  counts : Sparse DWord
  /-- The counter groups selected, and the cycle up to which their counts stand. -/
  groups : List (Fin 8)
  mark : Nat
  deriving DecidableEq, Repr

/-- The inbound registers of a peer port (R404). -/
structure PeerIn where
  inbase : DWord
  inlim : DWord
  key : BitVec 10
  deriving DecidableEq, Repr

/-- A trace capture (R386, R389). -/
structure Trace where
  ctx : CtxIx
  base : DWord
  bytes : Nat
  k : Nat
  j : Nat
  cats : DWord
  /-- Records written, the count of them that the index holds, and records dropped since the last record written. -/
  written : Nat
  shown : Nat
  dropped : Nat
  /-- Records that have their place in the ring and are still to be written, each with its TASKSER (R406). -/
  queue : List (Word × List Byte)
  /-- The capture has ended, and its STOP record has its place in the ring (R389). -/
  closed : Bool
  stopPut : Bool
  deriving DecidableEq, Repr

/-- What pre-emption saves of a core (Table 16.6). -/
structure SavedCore where
  core : CoreIx
  warps : List (SlotIx × Warp)
  allocs : List Alloc
  bufs : List Buffer
  regions : List Region
  sram : Sparse Byte
  l1 : List L1Line
  copyQ : List CopyCmd
  matQ : List MatCmd
  zeros : List TileZero
  tiles : Sparse Word
  drec : Sparse (BitVec 20)
  tables : Sparse Byte
  staging : List (List Byte)
  early : List EarlyByte
  deriving DecidableEq, Repr

/-- A saved context on a cluster (R376). -/
structure Saved where
  cluster : ClusterIx
  ctx : CtxIx
  cores : List SavedCore
  /-- Bind records that had not been dispatched. -/
  binds : List (CoreIx × BitVec 128)
  engine : List CopyCmd
  deriving DecidableEq, Repr

/-! ### The die, the board, the machine -/

/-- The die. -/
structure Dev where
  /-- Cores by number; unlisted cores are as after reset. -/
  cores : Sparse Core
  clusters : Vector Cluster 8
  tasks : List Task
  submissions : List Submission
  contexts : Sparse Context
  exec : List ExecPage
  /-- Bytes of physical memory, R240; unlisted bytes read as zero (log 5). -/
  mem : List Host.Cell
  /-- Key slots by ID; unlisted slots hold zeros (R241). -/
  keys : Sparse (BitVec 512)
  /-- The key material under which a line was last written; unlisted lines under zeros (R236, R241). -/
  lineKey : Sparse (BitVec 512)
  /-- The last level of translation, 24,576 entries (R246). -/
  tlb : List TlbEntry
  walks : List Walk
  monitors : List MonEntry
  requests : List PageReq
  tlrs : List TlrImage
  tsrs : List TsrSend
  ports : Vector Port 6
  fns : Vector Function 9
  pfkey : BitVec 10
  peers : Vector PeerIn 5
  /-- PWRLIM, and the host's last value, above which firmware may not go (R438). -/
  pwrlim : BitVec 16
  hostLim : BitVec 16
  /-- FWWIN's windows, base and limit, and FWLOCK (R421). -/
  fwwin : Vector (DWord × DWord) 8
  fwlock : Bool
  /-- Bytes that writes have brought to the register pages, by offset in the device register range, each with the function whose
  write it is, the oldest first (R403, R408, log 28). -/
  regWrites : List (Nat × Byte × FnIx)
  /-- The values of the errata records appended to the capability table, in order (R417). -/
  errata : List (BitVec 128)
  trace : Option Trace
  saved : List Saved
  /-- The die's cycle counter (R151). -/
  clock : Nat
  /-- The PTP clock in units of 2^-32 ns, the rate, and the absorption due in the same units (R392). -/
  ptp : Nat
  ptpRate : Int
  ptpDue : Nat
  /-- Which of the selected groups counts (R394). -/
  rotation : Nat
  /-- Order numbers of issue. -/
  seq : Nat
  /-- MODEL: the draw counter of free values (log 4). -/
  draw : Nat
  /-- MODEL: names for allocations, buffers, commands and tasks (log 18). -/
  nextId : Nat
  /-- MODEL: the core and slot whose instruction runs (log 1). -/
  curCore : CoreIx
  curSlot : SlotIx
  deriving DecidableEq, Repr

/-- The board (R438 to R442). -/
structure Board where
  /-- The die has power: not after a junction trip (R439). -/
  power : Bool
  /-- Steps of bring-up that have finished (Table 21.4). -/
  stage : Fin 9
  /-- The failure code in the sideband status word. -/
  failure : BitVec 8
  /-- The clamp withholds matrix issue, vector issue. -/
  holdMatrix : Bool
  holdVector : Bool
  /-- Blown fuses of counters 1 to 3 (R419). -/
  fuses : Vector (Fin 65) 3
  deriving DecidableEq, Repr

/-- The module runs: bring-up has passed step 8 (R441). -/
def Board.on (b : Board) : Bool := b.stage == 8

/-- The ports take requests: step 7 has finished (R442). -/
def Board.answers (b : Board) : Bool := 7 ≤ b.stage.val

/-- A request at BAR0: a read of some bytes, a posted write, an AtomicOp. -/
inductive Bar0Req where
  | read (n : Nat)
  | write (data : List Byte)
  | atomic
  deriving DecidableEq, Repr

/-- Who meets an uncorrectable error (R237): a load of a warp, an accepted command, the running operation of a core, a request at a
port, or a write-back of a line under a key ID; in the SRAM of a core, one of the first three or no requester at all. -/
inductive EccBy where
  | load (core : CoreIx) (slot : SlotIx) (i : Nat)
  | command (cluster : ClusterIx) (id : Nat)
  | operation (core : CoreIx)
  | inbound
  | writeBack (key : BitVec 10)
  | sram (core : CoreIx)
  | sramLoad (core : CoreIx) (slot : SlotIx) (i : Nat) (at_ : CoreIx)
  | sramCommand (cluster : ClusterIx) (id : Nat) (at_ : CoreIx)
  | sramOperation (core at_ : CoreIx)
  deriving DecidableEq, Repr

/-- Who moves at a step: MODEL, log 1. -/
inductive Turn where
  /-- A step of another agent. -/
  | event (i : Instr)
  /-- A pipe of a core issues (R156). -/
  | issue (core : CoreIx) (pipe : Fin 8)
  /-- The device consumes the packet at a ring's HEAD (R411). -/
  | packet (q : RingIx)
  /-- The host or a peer changes its own memory. -/
  | outside (pa : Nat) (val : Byte)
  /-- Firmware appends an errata record (R417). -/
  | erratum (value : BitVec 128)
  /-- The oldest posted write of a port reaches its target (R406). -/
  | arrive (p : PortIx)
  /-- A window load of a warp, or a window access of an accepted command, is answered UR, Completer Abort or poison (R406). -/
  | refused (core : CoreIx) (slot : SlotIx) (i : Nat)
  | engineRefused (cluster : ClusterIx) (i : Nat)
  /-- The management core lowers the power limit (R421, R438). -/
  | limit (watts : BitVec 16)
  /-- A lane of a warp's load is read before the load completes, or its data stands in the registers already (R38, R255). -/
  | read (core : CoreIx) (slot : SlotIx) (i lane : Nat)
  | land (core : CoreIx) (slot : SlotIx) (i lane : Nat)
  /-- The oldest lane operation of a warp's ATOM that has not been performed is performed before the ATOM completes (R38, R266). -/
  | perform (core : CoreIx) (slot : SlotIx) (i : Nat)
  /-- A sector of a context is filled into a core's L1 ahead of any load (R255). -/
  | fill (core : CoreIx) (ctx : CtxIx) (va : Nat)
  /-- A line of a warp's write-back reaches home (R253 step 2). -/
  | home (core : CoreIx) (slot : SlotIx) (va : Nat)
  /-- A walk reads the PTE of one page of its span (R245). -/
  | walk (i page : Nat)
  /-- An access of an engine, a fetch, a region fill or a write-back near a core is translated through the levels of the TLB
  (R246, log 9). -/
  | translated (core : CoreIx) (ctx : CtxIx) (va : Nat)
  /-- A record image leaves the engines' cache (R284, R305). -/
  | dropRecord (i : Nat)
  /-- The host selects the counter groups of a partition (R394). -/
  | groups (f : FnIx) (gs : List (Fin 8))
  /-- The oldest write of the die to a register takes effect (R403). -/
  | register
  /-- A command of the copy engines reads a source element, moves elements, or sends updates (R260, R285, R338). -/
  | pick (cluster : ClusterIx) (id n : Nat)
  | move (cluster : ClusterIx) (id : Nat) (ns : List Nat)
  | update (cluster : ClusterIx) (id : Nat)
  /-- An entry of a matrix queue reads a byte (R260, R314); the running operation starts its next block (R322). -/
  | operand (core : CoreIx) (id : Nat) (src : MatSrc) (index off : Nat)
  | block (core : CoreIx)
  /-- The trace unit writes the records that wait (R389, R406). -/
  | records
  /-- Firmware consumes an entry of a scheduler inbound queue (R177). -/
  | serve (cluster : ClusterIx) (q : Fin 5)
  /-- An access meets an uncorrectable error at a physical address (R237). -/
  | ecc (by_ : EccBy) (pa : Nat)
  /-- A request of the host at a function's BAR0 (R403, R416). -/
  | bar0 (f : FnIx) (off : Nat) (req : Bar0Req)
  /-- A 128-bit CAS of the host or of a peer (R402). -/
  | cas128 (path : InPath)
  /-- PERST# is released (R441); the next step of bring-up ends, or fails. -/
  | perst
  | bringUp (fails : Bool)
  deriving DecidableEq, Repr

/-- What a port answers to a request (R404, R442): MODEL, log 1. -/
inductive Reply where
  | data (bs : List Byte)
  | ok
  | ur
  | abort
  | retry
  deriving DecidableEq, Repr

/-- The machine. -/
structure State where
  dev : Dev
  board : Board
  /-- MODEL: the turns to come (log 1). -/
  sched : List Turn
  /-- MODEL: the answers of the ports, latest first (log 1). -/
  replies : List Reply
  deriving DecidableEq, Repr

/-! ### Reset -/

/-- A core after reset (R216, R307, R441 step 5). -/
def Core.reset : Core where
  slots := Vector.replicate 64 none
  busy := Vector.replicate 8 0
  bindQ := []
  modes := Vector.ofFn fun b => if b.val < 8 then .cache else .scratchpad
  sram := []
  allocs := []
  bufs := []
  regions := []
  l1 := []
  icache := []
  fills := []
  tlb := []
  copyQ := []
  matQ := []
  running := none
  started := 0
  early := []
  opWait := none
  zeros := []
  tiles := []
  drec := []
  tables := []
  staging := []
  pins := []
  ctxOwner := none
  pcSlot := 0
  memCount := 0

/-- A cluster after reset (R171); MIN, CAP and STEALTHR log 20. -/
def Cluster.reset : Cluster where
  tlb := []
  deps := []
  decs := []
  bands := []
  binds := []
  engine := []
  nextCore := 0
  minq := Vector.replicate 5 0
  capq := Vector.replicate 5 4096
  counts := Vector.replicate 5 0
  stealThr := 0
  stealOut := none
  stealIn := []
  stealNext := 0
  packetsIn := []
  replyIn := none
  faultQ := []
  faultHeld := []
  preempting := []
  enabled := true

/-- A ring after reset (log 25). -/
def Ring.reset : Ring where
  base := 0
  logn := 0
  enable := false
  head := 0
  tail := 0
  cmds := []

/-- A function after reset (log 23, log 25). -/
def Function.reset : Function where
  rings := Vector.replicate 16 .reset
  fanswer := 0
  fltbase := 0
  fltctl := 0
  dbgctl := 0
  inva := 0
  inctx := 0
  page := []
  refresh := []
  counts := []
  groups := []
  mark := 0

/-- A port after reset (log 17). -/
def Port.reset : Port where
  up := true
  posted := []
  zreads := []

/-- The die after reset (R438, R441). -/
def Dev.reset : Dev where
  cores := []
  clusters := Vector.replicate 8 .reset
  tasks := []
  submissions := []
  contexts := []
  exec := []
  mem := []
  keys := []
  lineKey := []
  tlb := []
  walks := []
  monitors := []
  requests := []
  tlrs := []
  tsrs := []
  ports := Vector.replicate 6 .reset
  fns := Vector.replicate 9 .reset
  pfkey := 0
  peers := Vector.replicate 5 { inbase := 0, inlim := 0, key := 0 }
  pwrlim := 1800
  hostLim := 1800
  fwwin := Vector.replicate 8 (0, BitVec.allOnes 64)
  fwlock := false
  regWrites := []
  errata := []
  trace := none
  saved := []
  clock := 0
  ptp := 0
  ptpRate := 0
  ptpDue := 0
  rotation := 0
  seq := 0
  draw := 0
  nextId := 0
  curCore := 0
  curSlot := 0

/-- The board after reset (R441); the fuses log 24. -/
def Board.reset : Board where
  power := true
  stage := 8
  failure := 0
  holdMatrix := false
  holdVector := false
  fuses := Vector.replicate 3 0

/-- The machine right after reset (R441, after step 8). -/
def State.reset : State where
  dev := .reset
  board := .reset
  sched := []
  replies := []

end Sys2Proof.Machine
end

