-- ==== Sys2Proof/Machine/Sparse.lean ====
section
/-! DEFINITION. Tables by number in one canonical form (keys rising, no entry equal to the default), byte lists and small
helpers on lists and bit fields. -/

namespace Sys2Proof.Machine

namespace Sparse

variable {α : Type}

/-- The entry of a key, or the default. -/
def get (dflt : α) : Sparse α → Nat → α
  | [], _ => dflt
  | (k', v) :: t, k => if k' = k then v else get dflt t k

/-- The entry of a key, if listed. -/
def find? : Sparse α → Nat → Option α
  | [], _ => none
  | (k', v) :: t, k => if k' = k then some v else find? t k

/-- Puts an entry at its place by key. -/
def put (k : Nat) (v : α) : Sparse α → Sparse α
  | [] => [(k, v)]
  | (k', v') :: t =>
    if k' < k then (k', v') :: put k v t
    else if k' = k then (k, v) :: t
    else (k, v) :: (k', v') :: t

/-- Removes a key's entry. -/
def erase (k : Nat) : Sparse α → Sparse α
  | [] => []
  | (k', v') :: t => if k' = k then erase k t else (k', v') :: erase k t

/-- Writes an entry, removing it where it equals the default. -/
def set [DecidableEq α] (dflt : α) (k : Nat) (v : α) (l : Sparse α) : Sparse α :=
  if v = dflt then erase k l else put k v l

/-- The canonical form: keys strictly rising, all above a bound, and no entry equal to the default. -/
def wfFrom [DecidableEq α] (dflt : α) : Nat → Sparse α → Bool
  | _, [] => true
  | lo, (k, v) :: t => decide (lo ≤ k) && decide (v ≠ dflt) && wfFrom dflt (k + 1) t

/-- The canonical form. -/
def wf [DecidableEq α] (dflt : α) (l : Sparse α) : Bool := wfFrom dflt 0 l

/-- Writes entries from a key upwards. -/
def setList [DecidableEq α] (dflt : α) (k : Nat) : List α → Sparse α → Sparse α
  | [], l => l
  | v :: vs, l => setList dflt (k + 1) vs (set dflt k v l)

/-- The entries of `n` keys from `k` upwards. -/
def getList (dflt : α) (l : Sparse α) (k : Nat) : Nat → List α
  | 0 => []
  | n + 1 => get dflt l k :: getList dflt l (k + 1) n

/-- The entries whose keys lie outside `lo` to `hi - 1`. -/
def dropRange (lo hi : Nat) (l : Sparse α) : Sparse α := l.filter fun e => e.1 < lo || hi ≤ e.1

/-- The entries whose keys lie in `lo` to `hi - 1`. -/
def keepRange (lo hi : Nat) (l : Sparse α) : Sparse α := l.filter fun e => lo ≤ e.1 && e.1 < hi

end Sparse

/-! ### Lists -/

/-- The list with its `i`th element changed. -/
def modifyAt {α : Type} (f : α → α) : Nat → List α → List α
  | _, [] => []
  | 0, a :: t => f a :: t
  | n + 1, a :: t => a :: modifyAt f n t

/-- The list without its `i`th element. -/
def removeAt {α : Type} : Nat → List α → List α
  | _, [] => []
  | 0, _ :: t => t
  | n + 1, a :: t => a :: removeAt n t

/-- The first element that a test accepts, with its place. -/
def findIdxVal? {α : Type} (p : α → Bool) (l : List α) : Option (Nat × α) :=
  (l.zipIdx.find? fun e => p e.1).map fun e => (e.2, e.1)

/-- The elements that a partial function accepts, or none where it refuses one. -/
def mapAll? {α β : Type} (f : α → Option β) : List α → Option (List β)
  | [] => some []
  | a :: t => do
    let b ← f a
    let bs ← mapAll? f t
    pure (b :: bs)

/-! ### Bits -/

/-- The field [hi:lo] of a number. -/
def bitsN (x hi lo : Nat) : Nat := x / 2 ^ lo % 2 ^ (hi + 1 - lo)

/-- Bit `i` of a number. -/
def bitN (x i : Nat) : Bool := x.testBit i

/-- A number as a signed value of `n` bits. -/
def sextN (n x : Nat) : Int := if x % 2 ^ n < 2 ^ (n - 1) then (x % 2 ^ n : Nat) else (x % 2 ^ n : Nat) - (2 ^ n : Nat)

/-- An integer in `n` bits, two's complement. -/
def wrapN (n : Nat) (i : Int) : Nat := (i % (2 ^ n : Nat)).toNat

/-- The lanes of a mask, in ascending order. -/
def lanesOf (m : Mask) : List Lane := (List.finRange 32).filter fun l => m.getLsbD l.val

/-- The mask of the lanes that a test accepts. -/
def maskOf (f : Lane → Bool) : Mask :=
  (List.finRange 32).foldl (fun m l => if f l then m ||| (1#32 <<< l.val) else m) 0

/-- The lowest lane of a mask. -/
def lowestLane (m : Mask) : Option Lane := (lanesOf m).head?

/-- The number of bits set. -/
def popCount {n : Nat} (x : BitVec n) : Nat := (List.range n).foldl (fun c i => if x.getLsbD i then c + 1 else c) 0

/-- Whether an address is a multiple of a positive number. -/
def multipleOf (n a : Nat) : Bool := a % n == 0

end Sys2Proof.Machine
end

