-- ==== Sys2Proof/Machine/Access.lean ====
section
/-! DEFINITION. Named reads and updates of the parts of the die: cores, slots, clusters, contexts, functions, tasks; the
draw of a free value and the passing of time. -/

namespace Sys2Proof.Machine

/-- The cluster of a core (R2). -/
def clusterOf (k : CoreIx) : ClusterIx := ⟨k.val / 48, by omega⟩
/-- A core's number within its cluster (Table 1.1). -/
def coreInCluster (k : CoreIx) : Nat := k.val % 48
/-- The core of a cluster by its number there. -/
def coreOf (cl : ClusterIx) (k : Fin 48) : CoreIx := ⟨cl.val * 48 + k.val, by omega⟩

/-- The cores of a cluster in ascending order. -/
def coresOf (cl : ClusterIx) : List CoreIx := (List.finRange 48).map (coreOf cl)

namespace Dev

def core (d : Dev) (k : CoreIx) : Core := Sparse.get Core.reset d.cores k.val
def putCore (d : Dev) (k : CoreIx) (c : Core) : Dev := { d with cores := Sparse.put k.val c d.cores }
def modCore (d : Dev) (k : CoreIx) (f : Core → Core) : Dev := d.putCore k (f (d.core k))

def slot (d : Dev) (k : CoreIx) (j : SlotIx) : Option Warp := (d.core k).slots[j.val]
def putSlot (d : Dev) (k : CoreIx) (j : SlotIx) (w : Option Warp) : Dev :=
  d.modCore k fun c => { c with slots := c.slots.set j.val w }
def putWarp (d : Dev) (k : CoreIx) (j : SlotIx) (w : Warp) : Dev := d.putSlot k j (some w)
/-- Changes the warp in a slot, if there is one. -/
def modWarp (d : Dev) (k : CoreIx) (j : SlotIx) (f : Warp → Warp) : Dev :=
  match d.slot k j with
  | some w => d.putWarp k j (f w)
  | none => d

def cluster (d : Dev) (c : ClusterIx) : Cluster := d.clusters[c.val]
def modCluster (d : Dev) (c : ClusterIx) (f : Cluster → Cluster) : Dev :=
  { d with clusters := d.clusters.set c.val (f (d.cluster c)) }

def fn (d : Dev) (f : FnIx) : Function := d.fns[f.val]
def modFn (d : Dev) (f : FnIx) (g : Function → Function) : Dev := { d with fns := d.fns.set f.val (g (d.fn f)) }

def port (d : Dev) (p : PortIx) : Port := d.ports[p.val]
def modPort (d : Dev) (p : PortIx) (f : Port → Port) : Dev := { d with ports := d.ports.set p.val (f (d.port p)) }

def ring (d : Dev) (q : RingIx) : Ring := (d.fn q.fn).rings[q.ring.val]
def modRing (d : Dev) (q : RingIx) (f : Ring → Ring) : Dev :=
  d.modFn q.fn fun g => { g with rings := g.rings.set q.ring.val (f (d.ring q)) }

def context (d : Dev) (c : CtxIx) : Option Context := Sparse.find? d.contexts c.toNat
def putContext (d : Dev) (c : CtxIx) (x : Context) : Dev := { d with contexts := Sparse.put c.toNat x d.contexts }
def modContext (d : Dev) (c : CtxIx) (f : Context → Context) : Dev :=
  match d.context c with
  | some x => d.putContext c (f x)
  | none => d

def task? (d : Dev) (t : Nat) : Option Task := d.tasks.find? fun x => x.id == t
def modTask (d : Dev) (t : Nat) (f : Task → Task) : Dev :=
  { d with tasks := d.tasks.map fun x => if x.id == t then f x else x }

/-- Every warp of the die with its place. -/
def warps (d : Dev) : List (CoreIx × SlotIx × Warp) :=
  d.cores.flatMap fun e =>
    if h : e.1 < 384 then
      (List.finRange 64).filterMap fun j => (e.2.slots[j.val]).map fun w => (⟨e.1, h⟩, j, w)
    else []

/-- Changes every warp of the die. -/
def mapWarps (d : Dev) (f : CoreIx → SlotIx → Warp → Option Warp) : Dev :=
  { d with cores := d.cores.map fun e =>
      if h : e.1 < 384 then
        (e.1, { e.2 with slots := Vector.ofFn fun j => (e.2.slots[j.val]).bind (f ⟨e.1, h⟩ j) })
      else e }

/-- Changes every warp saved by pre-emption. -/
def mapSaved (d : Dev) (g : CoreIx → SlotIx → Warp → Warp) : Dev :=
  { d with saved := d.saved.map fun s => { s with cores := s.cores.map fun c =>
      { c with warps := c.warps.map fun w => (w.1, g c.core w.1 w.2) } } }

/-- Changes every core that is listed. -/
def mapCores (d : Dev) (f : CoreIx → Core → Core) : Dev :=
  { d with cores := d.cores.map fun e => if h : e.1 < 384 then (e.1, f ⟨e.1, h⟩ e.2) else e }

/-- Changes every cluster. -/
def mapClusters (d : Dev) (f : Cluster → Cluster) : Dev := { d with clusters := d.clusters.map f }

/-- Takes the next value of the draw counter (log 4). -/
def drawn (d : Dev) : Nat × Dev := (d.draw, { d with draw := d.draw + 1 })

/-- A name not used before (log 18). -/
def freshId (d : Dev) : Nat × Dev := (d.nextId, { d with nextId := d.nextId + 1 })

/-- The next order number of issue. -/
def freshSeq (d : Dev) : Nat × Dev := (d.seq, { d with seq := d.seq + 1 })

/-- The PTP clock's units in one cycle: 1.25 ns corrected by the rate in parts per 10^9 (R392). -/
def ptpUnits (rate : Int) (cycles : Nat) : Nat :=
  ((5 * 2 ^ 30 : Int) * cycles * (1000000000 + rate) / 1000000000).toNat

/-- Time passes: the cycle counter and the PTP clock advance, at half rate while an absorption is due (R151, R392). -/
def advance (d : Dev) (cycles : Nat) : Dev :=
  let full := ptpUnits d.ptpRate cycles
  let taken := min d.ptpDue (full / 2)
  { d with clock := d.clock + cycles, ptp := d.ptp + (full - taken), ptpDue := d.ptpDue - taken }

/-- The time in whole nanoseconds (R392). -/
def ptpNs (d : Dev) : Nat := d.ptp / 2 ^ 32

end Dev

/-- Field [hi:lo] of a record image. -/
def fieldOf {n : Nat} (x : BitVec n) (hi lo : Nat) : Nat := (x.extractLsb' lo (hi + 1 - lo)).toNat

namespace Context

/-- A field of the descriptor (Table 19.3). -/
def field (c : Context) (hi lo : Nat) : Nat := fieldOf c.desc hi lo
def ptroot (c : Context) : Nat := c.field 63 0
def part (c : Context) : Nat := c.field 103 100
def l1pol (c : Context) : Bool := c.desc.getLsbD 104
def sigreq (c : Context) : Bool := c.desc.getLsbD 105
def nbblock (c : Context) : Nat := c.field 115 112
def nbthresh (c : Context) : Nat := c.field 127 120
def pinquota (c : Context) : Nat := c.field 223 192
def tsrbase (c : Context) : Nat := c.field 319 256
def tsrcount (c : Context) : Nat := c.field 351 320
def srseed (c : Context) : Word := c.desc.extractLsb' 352 32
def hentryObj (c : Context) : Word := c.desc.extractLsb' 384 32
def hentryOff (c : Context) : Nat := c.field 447 416
def hmask (c : Context) : Nat := c.field 479 464
def bpcount (c : Context) : Nat := c.field 495 480
def hspill (c : Context) : Nat := c.field 575 512
def bptab (c : Context) : Nat := c.field 639 576
def dbgarea (c : Context) : Nat := c.field 703 640
def errlog (c : Context) : Nat := c.field 767 704
def errcnt (c : Context) : Nat := c.field 799 768
def scanlog (c : Context) : Nat := c.field 863 800
def scancnt (c : Context) : Nat := c.field 895 864
/-- The pool on the peer at port p, p from 1 to 5. -/
def peerpool (c : Context) (p : Nat) : Nat := c.field (959 + 64 * (p - 1)) (896 + 64 * (p - 1))
def keyLo (c : Context) : Nat := c.field 1225 1216
def keyHi (c : Context) : Nat := c.field 1241 1232

end Context

namespace Task

/-- A field of the TCB (Table 6.2). -/
def field (t : Task) (hi lo : Nat) : Nat := fieldOf t.tcb hi lo
def codeobj (t : Task) : Word := t.tcb.extractLsb' 0 32
def entry (t : Task) : Nat := t.field 63 32
def paramVa (t : Task) : Nat := t.field 127 64
def warpCount (t : Task) : Nat := t.field 143 128
def tail (t : Task) : Nat := t.field 148 144
def gang (t : Task) : Bool := t.tcb.getLsbD 152
def idem (t : Task) : Bool := t.tcb.getLsbD 153
def errrun (t : Task) : Bool := t.tcb.getLsbD 154
def nosteal (t : Task) : Bool := t.tcb.getLsbD 155
def prio (t : Task) : Nat := t.field 157 156
def bandsz (t : Task) : Nat := t.field 175 160
def paramlen (t : Task) : Nat := t.field 191 176
def spbytes (t : Task) : Nat := t.field 223 192
def depwait (t : Task) : BitVec 16 := t.tcb.extractLsb' 224 16
def depinit (t : Task) : Nat := t.field 255 240
def ctgt (t : Task) : Nat := t.field 319 256
def cval (t : Task) : Nat := t.field 351 320
def cdep (t : Task) : BitVec 16 := t.tcb.extractLsb' 352 16
def taskser (t : Task) : Word := t.tcb.extractLsb' 384 32
def clmask (t : Task) : Nat := t.field 423 416

end Task

end Sys2Proof.Machine
end

