-- ==== Sys2Proof/Machine/Exact.lean ====
section
/-! DEFINITION. Exact real results as rounding reads them (R57, R59): for a real Y, the floor of Y × 2^33 and whether that
is exact. Sums of powers of two with fractional exponents are decided algebraically where Y is a number of that grid and by
interval arithmetic of growing precision elsewhere (log 19). -/

namespace Sys2Proof.Machine

/-- A real Y as R57 reads it: ⌊Y × 2^33⌋, and whether Y × 2^33 is that integer. -/
structure Quant where
  q : Int
  exact : Bool
  deriving DecidableEq, Repr

namespace Exact

/-- One Newton step towards the integer square root, from above. -/
def sqrtIter : Nat → Nat → Nat → Nat
  | 0, _, g => g
  | k + 1, n, g =>
    let g' := (g + n / g) / 2
    if g' < g then sqrtIter k n g' else g

/-- The integer square root. -/
def isqrt (n : Nat) : Nat :=
  if n = 0 then 0 else sqrtIter (n.log2 + 2) n (2 ^ (n.log2 / 2 + 1))

/-- Bounds of 2^(r / 2^f) × 2^p for r below 2^f: the product of the square roots that r's bits select. `root` bounds the
root of the bit looked at. -/
def powBits (p : Nat) : Nat → Nat → Nat × Nat → Nat × Nat → Nat × Nat
  | 0, _, _, acc => acc
  | k + 1, r, root, acc =>
    let root' := (isqrt (root.1 * 2 ^ p), isqrt (root.2 * 2 ^ p) + 1)
    let acc' :=
      if r.testBit k then (acc.1 * root'.1 / 2 ^ p, acc.2 * root'.2 / 2 ^ p + 1) else acc
    powBits p k r root' acc'

/-- Bounds of 2^(r / 2^f) × 2^p. -/
def pow2 (f r p : Nat) : Nat × Nat :=
  if r = 0 then (2 ^ p, 2 ^ p) else powBits p f r (2 * 2 ^ p, 2 * 2 ^ p) (2 ^ p, 2 ^ p)

/-- `n` binary digits of the logarithm of a number between lo and hi, scaled by 2^p into [1, 2), by repeated squaring;
none where the bounds do not decide a digit. -/
def logDigits (p : Nat) : Nat → Nat → Nat → Nat → Option Nat
  | 0, _, _, acc => some acc
  | n + 1, lo, hi, acc =>
    let lo' := lo * lo / 2 ^ p
    let hi' := hi * hi / 2 ^ p + 1
    if 2 * 2 ^ p ≤ lo' then logDigits p n (lo' / 2) ((hi' + 1) / 2) (2 * acc + 1)
    else if hi' < 2 * 2 ^ p then logDigits p n lo' hi' (2 * acc)
    else none

/-- ⌊log2(x) × 2^n⌋ for every x between lo and hi, where the bounds decide it. -/
def logFloor (n p lo hi : Nat) : Option Int :=
  if lo = 0 then none
  else
    let e := lo.log2
    if hi.log2 ≠ e then none
    else
      let lo' := if e ≤ p then lo * 2 ^ (p - e) else lo / 2 ^ (e - p)
      let hi' := if e ≤ p then hi * 2 ^ (p - e) else hi / 2 ^ (e - p) + 1
      (logDigits p n lo' hi' 0).map fun a => (e : Int) * 2 ^ n + a

/-- A term of an exact sum: an integer times 2^(E / 2^f). -/
abbrev Term := Int × Int

/-- Adds a coefficient to the group of a residue. -/
def addGroup (r : Nat) (c : Int) : List (Nat × Int) → List (Nat × Int)
  | [] => [(r, c)]
  | (r', c') :: t => if r' = r then (r', c' + c) :: t else (r', c') :: addGroup r c t

/-- The least exponent of the terms, in whole powers of two. -/
def minExp (f : Nat) (ts : List Term) : Int := ts.foldl (fun m t => min m (t.2 / 2 ^ f)) 0

/-- The sum grouped by the residue of the exponent modulo 2^f, scaled by 2^(−minExp): groups are independent over the
rationals, so the sum is zero exactly when no group remains. -/
def groups (f : Nat) (ts : List Term) : List (Nat × Int) :=
  let k := minExp f ts
  let gs := ts.foldl
    (fun g t => addGroup (t.2 % 2 ^ f).toNat (t.1 * 2 ^ (t.2 / 2 ^ f - k).toNat) g) []
  gs.filter fun g => g.2 ≠ 0

/-- Bounds of the grouped sum × 2^p. -/
def sumBounds (f p : Nat) (gs : List (Nat × Int)) : Int × Int :=
  gs.foldl (fun b g =>
    let w := pow2 f g.1 p
    if 0 < g.2 then (b.1 + g.2 * w.1, b.2 + g.2 * w.2) else (b.1 + g.2 * w.2, b.2 + g.2 * w.1)) (0, 0)

/-- The precisions tried, in bits (log 19). -/
def precisions : List Nat := [160, 320, 640, 1280, 2560, 5120]

/-- The first precision that decides, or a default (log 19). -/
def ziv {α : Type} (dflt : α) (f : Nat → Option α) : List Nat → α
  | [] => dflt
  | p :: ps => match f p with
    | some a => a
    | none => ziv dflt f ps

/-- Whether a positive number is a power of two. -/
def isPow2 (n : Nat) : Bool := n == 2 ^ n.log2

/-- The sign and the scaled logarithm Y = log2|x| × 2^f of the sum x of terms over a positive denominator; none for an
exact zero (R59). Y is an integer exactly when one group remains and its coefficient over the denominator, in lowest
terms, is a power of two. -/
def sumLog (f : Nat) (ts : List Term) (den : Nat) : Option (Bool × Quant) :=
  let k := minExp f ts
  let gs := groups f ts
  match gs with
  | [] => none
  | [(r, c)] =>
    let g := c.natAbs.gcd den
    let n := c.natAbs / g
    let d := den / g
    if isPow2 n && isPow2 d then
      some (c < 0, ⟨(((k + n.log2 - d.log2) * 2 ^ f) + r) * 2 ^ 33, true⟩)
    else some (c < 0, ⟨inexact f gs k den, false⟩)
  | _ => some (negative f gs, ⟨inexact f gs k den, false⟩)
where
  /-- The sign of a sum that is not zero. -/
  negative (f : Nat) (gs : List (Nat × Int)) : Bool :=
    ziv false (fun p =>
      let b := sumBounds f p gs
      if 0 < b.1 then some false else if b.2 < 0 then some true else none) precisions
  /-- ⌊Y × 2^33⌋ where Y is irrational. -/
  inexact (f : Nat) (gs : List (Nat × Int)) (k : Int) (den : Nat) : Int :=
    ziv 0 (fun p =>
      let b := sumBounds f p gs
      let lh : Option (Nat × Nat) :=
        if 0 < b.1 then some (b.1.toNat, b.2.toNat)
        else if b.2 < 0 then some ((-b.2).toNat, (-b.1).toNat) else none
      match lh with
      | none => none
      | some (lo, hi) =>
        let s := 2 ^ (2 * p)
        let lo' := lo * s / den
        let hi' := hi * s / den + 1
        (logFloor (f + 33) (p + f + 64) lo' hi').map fun l =>
          l + (k - (3 * p : Nat)) * 2 ^ (f + 33)) precisions

/-- The value of a sum of terms, scaled: ⌊x × 2^n⌋ and whether that is exact. -/
def sumFloor (f : Nat) (ts : List Term) (n : Nat) : Quant :=
  let k := minExp f ts
  let gs := groups f ts
  let scale (c : Int) (e : Int) : Quant :=
    if 0 ≤ e then ⟨c * 2 ^ e.toNat, true⟩
    else ⟨c / 2 ^ (-e).toNat, c % 2 ^ (-e).toNat == 0⟩
  match gs with
  | [] => ⟨0, true⟩
  | [(0, c)] => scale c (k + n)
  | _ => ⟨ziv 0 (fun p =>
      let b := sumBounds f p gs
      let lo := (scale b.1 (k + n - p)).q
      let hi := (scale b.2 (k + n - p)).q
      if lo = hi then some lo else none) precisions, false⟩

/-- ⌊ln 2 × 2^256⌋. -/
def ln2 : Nat :=
  0xB17217F7D1CF79ABC9E3B39803F2F6AF40F343267298B62D8A0D175B8BAAFA2B

/-- ⌊log2(D × ln 2 / 4096) × 2^22⌋ for a positive D (R318). -/
def log2Ln2 (d : Nat) : Int :=
  match logFloor 22 200 (d * ln2) (d * (ln2 + 1)) with
  | some l => l - (256 + 12) * 2 ^ 22
  | none => 0

/-- Bounds of Σ x^i / i! × 2^p for 0 ≤ x < 2^-8, x between lo and hi over 2^p. -/
def expSeries (p lo hi : Nat) : Nat → Nat → Nat × Nat → Nat × Nat → Nat × Nat
  | 0, _, _, acc => (acc.1, acc.2 + 1)
  | k + 1, i, t, acc =>
    let t' := (t.1 * lo / 2 ^ p / i, t.2 * hi / 2 ^ p / i + 1)
    expSeries p lo hi k (i + 1) t' (acc.1 + t'.1, acc.2 + t'.2)

/-- Squares bounds `k` times. -/
def squares (p : Nat) : Nat → Nat × Nat → Nat × Nat
  | 0, b => b
  | k + 1, b => squares p k (b.1 * b.1 / 2 ^ p, b.2 * b.2 / 2 ^ p + 1)

/-- Bounds of e^x × 2^p for 0 ≤ x < 2^8, x between lo and hi over 2^p. -/
def exp (p lo hi : Nat) : Nat × Nat :=
  let one := 2 ^ p
  let b := expSeries p (lo / 2 ^ 16) (hi / 2 ^ 16 + 1) (p / 8 + 4) 1 (one, one) (one, one)
  squares p 16 b

/-- Bounds of 2^(L / 2^f) × 2^p. -/
def value (f p : Nat) (l : Int) : Nat × Nat :=
  let w := pow2 f (l % 2 ^ f).toNat p
  let e := l / 2 ^ f
  if 0 ≤ e then (w.1 * 2 ^ e.toNat, w.2 * 2 ^ e.toNat)
  else (w.1 / 2 ^ (-e).toNat, w.2 / 2 ^ (-e).toNat + 1)

/-- Y = log2(tanh a) × 2^f for a = 2^(L / 2^f) (R112): transcendental, so never on the grid. -/
def tanhLog (f : Nat) (l : Int) : Quant :=
  if 32 * 2 ^ f ≤ l * 1 ∨ 5 * 2 ^ f ≤ l then ⟨-1, false⟩
  else if l ≤ -(32 * 2 ^ f) then ⟨l * 2 ^ 33 - 1, false⟩
  else ⟨ziv 0 (fun p =>
    let a := value f p l
    let e := exp p (2 * a.1) (2 * a.2)
    let one := 2 ^ p
    let lo := (e.1 - one) * 2 ^ p / (e.1 + one)
    let hi := (e.2 - one) * 2 ^ p / (e.2 + one) + 1
    (logFloor (f + 33) (p + f + 64) lo hi).map fun x => x - (p : Int) * 2 ^ (f + 33)) precisions, false⟩

/-- Y = log2(1 / (1 + e^(−a))) × 2^f for a = ±2^(L / 2^f) (R112). -/
def sigLog (f : Nat) (neg : Bool) (l : Int) : Quant :=
  if l ≤ -(64 * 2 ^ f) then ⟨-(2 ^ f * 2 ^ 33 : Int) + (if neg then -1 else 0), false⟩
  else if 6 * 2 ^ f ≤ l && !neg then ⟨-1, false⟩
  else if 8 * 2 ^ f ≤ l then ⟨-(2 ^ f * 2 ^ 33 * 2 ^ 8 : Int) - 1, false⟩
  else ⟨ziv 0 (fun p =>
    let a := value f p l
    let e := exp p a.1 a.2
    let one := 2 ^ p
    let lo := if neg then one * one / (one + e.2) else e.1 * one / (e.1 + one)
    let hi := if neg then one * one / (one + e.1) + 1 else e.2 * one / (e.2 + one) + 1
    (logFloor (f + 33) (p + f + 64) lo hi).map fun x => x - (p : Int) * 2 ^ (f + 33)) precisions, false⟩

end Exact

end Sys2Proof.Machine
end

