-- ==== Sys2Proof/Machine/Real.lean ====
section
/-! DEFINITION. Real values: the codes of the formats (R45, R46), order (R49), the one rounding step (R57, R58), special
operands (Table 2.5), the operations of the real group on one element (R105 to R114), and conversions (R66 to R71). -/

namespace Sys2Proof

/-- Fraction bits f of a format's element (Table 2.1). -/
def Fmt.frac : Fmt → Nat
  | .l8a | .l8ax4 => 3
  | .l8b | .l8bx4 => 2
  | .l16 | .l16x2 => 7
  | .l32 => 22

/-- Log-field bits n of a format's element (Table 2.1). -/
def Fmt.logBits : Fmt → Nat
  | .l8a | .l8ax4 | .l8b | .l8bx4 => 6
  | .l16 | .l16x2 => 14
  | .l32 => 30

/-- Elements in a register (R48). -/
def Fmt.count : Fmt → Nat
  | .l16x2 => 2
  | .l8ax4 | .l8bx4 => 4
  | _ => 1

/-- The register tag of a format (Table 1.3). -/
def Fmt.tag : Fmt → Tag
  | .l8a => .l8a
  | .l8b => .l8b
  | .l16 => .l16
  | .l32 => .l32
  | .l16x2 => .l16x2
  | .l8ax4 => .l8ax4
  | .l8bx4 => .l8bx4

namespace Machine

/-- A real value of a log format (R45). -/
inductive Num where
  | zero (neg : Bool)
  | fin (neg : Bool) (log : Int)
  | inf (neg : Bool)
  | nan (neg : Bool) (payload : Nat)
  deriving DecidableEq, Repr

namespace Num

/-- The sign. -/
def neg : Num → Bool
  | .zero s | .fin s _ | .inf s | .nan s _ => s

def isNan : Num → Bool
  | .nan _ _ => true
  | _ => false

/-- The value with its sign inverted; a NaN passes unchanged (R60, R108). -/
def negate : Num → Num
  | .zero s => .zero (!s)
  | .fin s l => .fin (!s) l
  | .inf s => .inf (!s)
  | .nan s p => .nan s p

/-- The value with its sign cleared; a NaN passes unchanged (R108). -/
def abs : Num → Num
  | .zero _ => .zero false
  | .fin _ l => .fin false l
  | .inf _ => .inf false
  | .nan s p => .nan s p

/-- +1.0 -/
def one : Num := .fin false 0

/-- The value of a code (R45); bits above the format are ignored (R47). -/
def ofCode (f : Fmt) (code : Nat) : Num :=
  let n := f.logBits
  let l := code % 2 ^ n
  let s := code.testBit (n + 1)
  if code.testBit n then
    if l = 0 then .zero s else if l = 2 ^ n - 1 then .inf s else .nan s l
  else .fin s (sextN n l)

/-- The code of a value (R45). -/
def code (f : Fmt) (x : Num) : Nat :=
  let n := f.logBits
  let w (s g : Bool) (l : Nat) : Nat := s.toNat * 2 ^ (n + 1) + g.toNat * 2 ^ n + l
  match x with
  | .zero s => w s true 0
  | .fin s l => w s false (wrapN n l)
  | .inf s => w s true (2 ^ n - 1)
  | .nan s p => w s true (p % 2 ^ n)

/-- The canonical NaN with a sign (R46). -/
def canonical (f : Fmt) (s : Bool) : Num := .nan s (2 ^ (f.logBits - 1))

/-- The signed key of R49; none for a NaN. -/
def key (f : Fmt) : Num → Option Int
  | .zero _ => some 0
  | .fin s l => let k := l + 2 ^ (f.logBits - 1) + 1; some (if s then -k else k)
  | .inf s => let k : Int := 2 ^ f.logBits + 1; some (if s then -k else k)
  | .nan _ _ => none

/-- The first NaN of a list of sources (R61). -/
def firstNan : List Num → Option Num
  | [] => none
  | x :: t => if x.isNan then some x else firstNan t

end Num

/-- The events of one element, in the bit order of %mode[8:4] (R92). -/
abbrev Events := BitVec 5

namespace Ev
abbrev nv : Events := 1
abbrev of_ : Events := 2
abbrev uf : Events := 4
abbrev dz : Events := 8
abbrev sat : Events := 16
end Ev

/-- A rounding mode with DYN resolved (R57). -/
inductive RMode where
  | rn | rz | sr
  deriving DecidableEq, Repr

/-- What rounding takes beside the exact result: the mode, S, and whether overflow gives the largest finite value (R58). -/
structure RCtx where
  mode : RMode
  s : Word
  sat : Bool
  deriving DecidableEq, Repr

/-- S of element j (R48, R63). -/
def RCtx.turn (r : RCtx) (j : Nat) : RCtx := { r with s := r.s.rotateLeft (8 * j) }

/-- A result with its events. -/
abbrev Res := Num × Events

/-- R57 on the logarithm, or on any exact real: the integer the mode chooses. -/
def roundQ (mode : RMode) (s : Word) (y : Quant) : Int :=
  let fl := y.q / 2 ^ 33
  let fr := (y.q % 2 ^ 33).toNat
  match mode with
  | .rz => fl
  | .sr => if s.toNat < fr / 2 then fl + 1 else fl
  | .rn =>
    if fr < 2 ^ 32 then fl
    else if fr = 2 ^ 32 && y.exact then (if fl % 2 = 0 then fl else fl + 1)
    else fl + 1

/-- R58 on a rounded log. -/
def checkRange (f : Fmt) (r : RCtx) (neg : Bool) (l : Int) : Res :=
  let h : Int := 2 ^ (f.logBits - 1)
  if l < -h then (.zero neg, Ev.uf)
  else if h ≤ l then ((if r.sat || r.mode == .rz then .fin neg (h - 1) else .inf neg), Ev.of_)
  else (.fin neg l, 0)

/-- R57 and R58 on a finite non-zero exact result whose scaled log is y. -/
def roundLog (f : Fmt) (r : RCtx) (neg : Bool) (y : Quant) : Res := checkRange f r neg (roundQ r.mode r.s y)

/-- The invalid result (R60). -/
def invalid (f : Fmt) : Res := (.canonical f false, Ev.nv)

/-- An exact sum of terms over a positive denominator, rounded once; exact cancellation gives +0 (R59, Table 2.5). -/
def roundSum (f : Fmt) (r : RCtx) (ts : List Exact.Term) (den : Nat) : Res :=
  match Exact.sumLog f.frac ts den with
  | none => (.zero false, 0)
  | some (neg, y) => roundLog f r neg y

/-- A signed coefficient. -/
def signed (neg : Bool) (c : Int) : Int := if neg then -c else c

/-- An addend not yet rounded: a special value, or an integer coefficient times a power of two with a log (Table 2.5). -/
inductive Addend where
  | zero (neg : Bool)
  | inf (neg : Bool)
  | term (t : Exact.Term)
  deriving DecidableEq, Repr

namespace Addend

/-- A value that is no NaN as an addend, times a positive coefficient. -/
def ofNum (c : Int) : Num → Addend
  | .zero s => .zero s
  | .inf s => .inf s
  | .fin s l => .term (signed s c, l)
  | .nan s _ => .zero s

def negate : Addend → Addend
  | .zero s => .zero (!s)
  | .inf s => .inf (!s)
  | .term (c, e) => .term (-c, e)

end Addend

/-- The sum of addends over a denominator by the addition rows of Table 2.5 and one rounding. -/
def addAll (f : Fmt) (r : RCtx) (den : Nat) (as : List Addend) : Res :=
  let infs := as.filterMap fun a => match a with | .inf s => some s | _ => none
  let terms := as.filterMap fun a => match a with | .term t => some t | _ => none
  match infs with
  | s :: t => if t.all (· == s) then (.inf s, 0) else invalid f
  | [] =>
    match terms with
    | [] => (.zero (as.all fun a => a == .zero true), 0)
    | _ => roundSum f r terms den

/-- The product of two values that are no NaN, unrounded, by the multiplication rows of Table 2.5; none is invalid. -/
def mulNum : Num → Num → Option Num
  | .zero s, .fin t _ | .zero s, .zero t | .fin s _, .zero t => some (.zero (s != t))
  | .inf s, .fin t _ | .inf s, .inf t | .fin s _, .inf t => some (.inf (s != t))
  | .fin s l, .fin t k => some (.fin (s != t) (l + k))
  | _, _ => none

namespace RealOp

/-- GADD (R105). -/
def add (f : Fmt) (r : RCtx) (a b : Num) : Res :=
  match Num.firstNan [a, b] with
  | some x => (x, 0)
  | none => addAll f r 1 [.ofNum 1 a, .ofNum 1 b]

/-- GSUB (R105). -/
def sub (f : Fmt) (r : RCtx) (a b : Num) : Res := add f r a b.negate

/-- An exact integer log, checked (R106). -/
def ofProduct (f : Fmt) (r : RCtx) : Option Num → Res
  | none => invalid f
  | some (.fin s l) => checkRange f r s l
  | some x => (x, 0)

/-- GMUL (R106). -/
def mul (f : Fmt) (r : RCtx) (a b : Num) : Res :=
  match Num.firstNan [a, b] with
  | some x => (x, 0)
  | none => ofProduct f r (mulNum a b)

/-- GMAD (R105). -/
def mad (f : Fmt) (r : RCtx) (a b c : Num) : Res :=
  match Num.firstNan [a, b, c] with
  | some x => (x, 0)
  | none =>
    match mulNum a b with
    | none => invalid f
    | some p => addAll f r 1 [.ofNum 1 p, .ofNum 1 c]

/-- GDIV (Table 4.3, R104). -/
def div (f : Fmt) (r : RCtx) (a b : Num) : Res :=
  match Num.firstNan [a, b] with
  | some x => (x, 0)
  | none =>
    let s := a.neg != b.neg
    match a, b with
    | .fin _ l, .fin _ k => checkRange f r s (l - k)
    | .fin _ _, .zero _ => (.inf s, Ev.dz)
    | .zero _, .zero _ | .inf _, .inf _ => invalid f
    | .zero _, _ | .fin _ _, _ => (.zero s, 0)
    | _, _ => (.inf s, 0)

/-- GRCP (Table 4.3, R104). -/
def rcp (f : Fmt) (r : RCtx) (msk : Bool) (a : Num) : Res :=
  match a with
  | .nan _ _ => (a, 0)
  | .fin s l => checkRange f r s (-l)
  | .zero s => if msk then (.zero s, 0) else (.inf s, Ev.dz)
  | .inf s => (.zero s, 0)

/-- GSCALE (Table 4.3). -/
def scale (f : Fmt) (r : RCtx) (a : Num) (k : Int) : Res :=
  match a with
  | .fin s l => checkRange f r s (l + k * 2 ^ f.frac)
  | _ => (a, 0)

/-- GPOW (Table 4.3). -/
def pow (f : Fmt) (r : RCtx) (a : Num) (k : Int) : Res :=
  let s := k % 2 = 1 && a.neg
  match a with
  | .nan _ _ => (a, 0)
  | .fin _ l => if k = 0 then (.one, 0) else checkRange f r s (l * k)
  | .zero _ => if k = 0 then (.one, 0) else if 0 < k then (.zero s, 0) else (.inf s, 0)
  | .inf _ => if k = 0 then (.one, 0) else if 0 < k then (.inf s, 0) else (.zero s, 0)

/-- GSQRT (R107). -/
def sqrt (f : Fmt) (a : Num) : Res :=
  match a with
  | .nan _ _ | .zero _ | .inf false => (a, 0)
  | .fin false l => (.fin false (roundQ .rn 0 ⟨l * 2 ^ 32, true⟩), 0)
  | _ => invalid f

/-- GRSQ (R107). -/
def rsq (f : Fmt) (r : RCtx) (a : Num) : Res :=
  match a with
  | .nan _ _ => (a, 0)
  | .zero s => (.inf s, 0)
  | .inf false => (.zero false, 0)
  | .fin false l => roundLog f r false ⟨-l * 2 ^ 32, true⟩
  | _ => invalid f

/-- GMIN and GMAX (R108). -/
def pick (f : Fmt) (max : Bool) (a b : Num) : Num :=
  match Num.firstNan [a, b] with
  | some x => x
  | none =>
    match a, b with
    | .zero s, .zero t => .zero (if max then s && t else s || t)
    | _, _ =>
      let ka := (a.key f).getD 0
      let kb := (b.key f).getD 0
      if max then (if ka < kb then b else a) else (if kb < ka then b else a)

/-- A comparison (R49, R109). -/
def cmp (f : Fmt) (c : Cmp) (a b : Num) : Bool :=
  match a.key f, b.key f with
  | some x, some y =>
    match c with
    | .eq => x = y
    | .ne => x ≠ y
    | .lt => x < y
    | .le => x ≤ y
    | .gt => y < x
    | .ge => y ≤ x
    | .num => true
    | .nan => false
  | _, _ => c == .ne || c == .nan

/-- The class mask (Table 4.4). -/
def cls (f : Fmt) (a : Num) : Word :=
  match a with
  | .inf s => if s then 0x01 else 0x20
  | .zero s => if s then 0x04 else 0x08
  | .nan s _ => if s then 0x80 else 0x40
  | .fin s l =>
    (if s then 0x02#32 else 0x10) |||
      (if l = 2 ^ (f.logBits - 1) - 1 then 0x100 else if l = -(2 ^ (f.logBits - 1) : Int) then 0x200 else 0)

/-- GEXP2 (R111, Table 4.5). -/
def exp2 (f : Fmt) (r : RCtx) (msk : Bool) (x s m : Num) : Res :=
  match Num.firstNan [x, s, m] with
  | some y => (y, 0)
  | none =>
    match mulNum s x with
    | none => invalid f
    | some p =>
      match Addend.ofNum 1 p, Addend.ofNum (-1) m with
      | .inf false, .inf false => if msk then (.one, 0) else invalid f
      | .inf true, .inf true => if msk then (.zero false, 0) else invalid f
      | .inf s, _ => (if s then .zero false else .inf false, 0)
      | _, .inf s => (if s then .inf false else .zero false, 0)
      | a, b =>
        let ts := [a, b].filterMap fun y => match y with | .term t => some t | _ => none
        roundLog f r false (Exact.sumFloor f.frac ts (f.frac + 33))

/-- GLOG2 (R112). -/
def log2 (f : Fmt) (r : RCtx) (a : Num) : Res :=
  match a with
  | .nan _ _ => (a, 0)
  | .zero _ => (.inf true, 0)
  | .inf false => (.inf false, 0)
  | .fin false l => roundSum f r [(l, -(f.frac : Int) * 2 ^ f.frac)] 1
  | _ => invalid f

/-- GTANH (R112). -/
def tanh (f : Fmt) (r : RCtx) (a : Num) : Res :=
  match a with
  | .inf s => (.fin s 0, 0)
  | .fin s l => roundLog f r s (Exact.tanhLog f.frac l)
  | _ => (a, 0)

/-- GSIG (R112); of ±0 it is 0.5 in L8B too, DESIGN CHOICE (log 120). -/
def sig (f : Fmt) (r : RCtx) (a : Num) : Res :=
  match a with
  | .nan _ _ => (a, 0)
  | .zero _ => (.fin false (-(2 ^ f.frac)), 0)
  | .inf s => (if s then .zero false else .one, 0)
  | .fin s l => roundLog f r false (Exact.sigLog f.frac s l)

/-- WSTEP: the new mean and M2 (R113). Within a step, sources of the instruction stand in the order of R61 and precede a
computed value (log 26). -/
def wstep (f : Fmt) (r : RCtx) (mean m2 x : Num) (n : Int) : (Num × Num) × Events :=
  if n ≤ 0 then ((.canonical f false, .canonical f false), Ev.nv)
  else
    let step (j : Nat) (den : Nat) (nans : List Num) (as : List Addend) : Res :=
      match Num.firstNan nans with
      | some y => (y, 0)
      | none => addAll f (r.turn j) den as
    let d1 := step 0 1 [mean, x] [.ofNum 1 x, (Addend.ofNum 1 mean).negate]
    let mean' := step 1 n.toNat [mean, d1.1] [.ofNum n mean, .ofNum 1 d1.1]
    let d2 := step 2 1 [x, mean'.1] [.ofNum 1 x, (Addend.ofNum 1 mean'.1).negate]
    let q : Num × Events :=
      match Num.firstNan [d1.1, d2.1] with
      | some y => (y, 0)
      | none =>
        match mulNum d1.1 d2.1 with
        | none => invalid f
        | some p => (if p.neg then .zero false else p, 0)
    let m2' := step 3 1 [m2, q.1] [.ofNum 1 m2, .ofNum 1 q.1]
    ((mean'.1, m2'.1), d1.2 ||| mean'.2 ||| d2.2 ||| q.2 ||| m2'.2)

/-- WMERGE: the merged mean and M2 (R114); the order of NaNs as for WSTEP (log 26). -/
def wmerge (f : Fmt) (r : RCtx) (meanA m2A meanB m2B : Num) (nA nB : Nat) : (Num × Num) × Events :=
  if nA = 0 && nB = 0 then ((.zero false, .zero false), 0)
  else if nA = 0 then ((meanB, m2B), 0)
  else if nB = 0 then ((meanA, m2A), 0)
  else
    let n := nA + nB
    let step (j : Nat) (den : Nat) (nans : List Num) (as : List Addend) : Res :=
      match Num.firstNan nans with
      | some y => (y, 0)
      | none => addAll f (r.turn j) den as
    let dl := step 0 1 [meanA, meanB] [.ofNum 1 meanB, (Addend.ofNum 1 meanA).negate]
    let mean := step 1 n [meanA, dl.1] [.ofNum n meanA, .ofNum nB dl.1]
    let q : Addend :=
      match dl.1 with
      | .fin _ l => .term (nA * nB, 2 * l)
      | .inf _ => .inf false
      | _ => .zero false
    let m2 := step 2 n [m2A, m2B, dl.1] [.ofNum n m2A, .ofNum n m2B, q]
    ((mean.1, m2.1), dl.2 ||| mean.2 ||| m2.2)

end RealOp

/-! ### Conversions -/

/-- An IEEE memory format (Table 2.6): exponent bits, significand bits, bias, largest finite, infinity, NaN. -/
structure IeeeFmt where
  eb : Nat
  mb : Nat
  bias : Nat
  big : Nat
  inf : Option Nat
  nan : Nat
  deriving DecidableEq, Repr

/-- Table 2.6. -/
def ieeeOf : Typ → Option IeeeFmt
  | .f32 => some ⟨8, 23, 127, 0x7F7FFFFF, some 0x7F800000, 0x7FC00000⟩
  | .f16 => some ⟨5, 10, 15, 0x7BFF, some 0x7C00, 0x7E00⟩
  | .bf16 => some ⟨8, 7, 127, 0x7F7F, some 0x7F80, 0x7FC0⟩
  | .e4m3 => some ⟨4, 3, 7, 0x7E, none, 0x7F⟩
  | .e5m2 => some ⟨5, 2, 15, 0x7B, some 0x7C, 0x7E⟩
  | _ => none

/-- A value to convert: its magnitude a power of two with a fractional log, or an integer times a power of two. -/
inductive CvtVal where
  | zero (neg : Bool)
  | inf (neg : Bool)
  | nan (neg : Bool) (payload : Option (Fmt × Nat))
  | log (neg : Bool) (f : Fmt) (l : Int)
  | lin (neg : Bool) (c : Nat) (e : Int)
  deriving DecidableEq, Repr

/-- The value of a log code (R45). -/
def CvtVal.ofLog (f : Fmt) (code : Nat) : CvtVal :=
  match Num.ofCode f code with
  | .zero s => .zero s
  | .inf s => .inf s
  | .nan s p => .nan s (some (f, p))
  | .fin s l => .log s f l

/-- The value of an integer (R71). -/
def CvtVal.ofInt (i : Int) : CvtVal := if i = 0 then .zero false else .lin (i < 0) i.natAbs 0

/-- The value of an IEEE code (R66, R67). -/
def CvtVal.ofIeee (t : IeeeFmt) (subIn : Bool) (code : Nat) : CvtVal :=
  let s := code.testBit (t.eb + t.mb)
  let e := code / 2 ^ t.mb % 2 ^ t.eb
  let m := code % 2 ^ t.mb
  let top := e = 2 ^ t.eb - 1
  if t.inf.isNone && top && m = 2 ^ t.mb - 1 then .nan s none
  else if t.inf.isSome && top then (if m = 0 then .inf s else .nan s none)
  else if e = 0 then
    if m = 0 || subIn then .zero s else .lin s m (1 - t.bias - t.mb)
  else .lin s (2 ^ t.mb + m) (e - t.bias - t.mb)

/-- The value of source bits of a conversion type. -/
def CvtVal.of (ty : Typ) (subIn : Bool) (x : Nat) : CvtVal :=
  match ty with
  | .l8a => .ofLog .l8a x
  | .l8b => .ofLog .l8b x
  | .l16 => .ofLog .l16 x
  | .l32 => .ofLog .l32 x
  | .i32 => .ofInt (sextN 32 x)
  | .n32 => .ofInt (x % 2 ^ 32 : Nat)
  | .i64 => .ofInt (sextN 64 x)
  | .n64 => .ofInt (x % 2 ^ 64 : Nat)
  | t => match ieeeOf t with
    | some i => .ofIeee i subIn x
    | none => .zero false

/-- The scaled magnitude: ⌊|x| × 2^n⌋. -/
def magFloor (f : Nat) (l : Int) (c : Nat) (n : Int) : Quant :=
  Exact.sumFloor f [((c : Int), l + n * 2 ^ f)] 0

/-- The pairs of log formats that convert exactly (R70). -/
def exactPair : Fmt → Fmt → Bool
  | .l8a, .l16 | .l8a, .l32 | .l8b, .l16 | .l8b, .l32 | .l16, .l32 => true
  | _, _ => false

/-- A NaN's payload passing to another log format (R61). -/
def nanTo (src dst : Fmt) (s : Bool) (p : Nat) : Num :=
  let n := src.logBits
  let k := dst.logBits
  if n ≤ k then .nan s (p * 2 ^ (k - n))
  else
    let p' := p / 2 ^ (n - k)
    if p' = 0 || p' = 2 ^ k - 1 then .canonical dst s else .nan s p'

/-- Conversion to a log format (R67, R70, R71, R116); an engine saturates every narrowing, infinite inputs too (R286). -/
def toLog (f : Fmt) (r : RCtx) (narrowing : Bool) (x : CvtVal) : Res :=
  let satEv (y : Res) : Res :=
    match y.1 with
    | .fin _ _ => if y.2 = Ev.of_ then (y.1, Ev.sat) else y
    | _ => y
  match x with
  | .zero s => (.zero s, 0)
  | .nan s (some (g, p)) => (nanTo g f s p, 0)
  | .nan s none => (.canonical f s, 0)
  | .inf s =>
    if narrowing then (.fin s (2 ^ (f.logBits - 1) - 1), Ev.sat) else (.inf s, 0)
  | .log s g l => satEv (roundLog f r s ⟨l * 2 ^ (33 + f.frac) / 2 ^ g.frac, true⟩)
  | .lin s c e => satEv (roundSum f r [(signed s c, e * 2 ^ f.frac)] 1)

/-- An overflow into an IEEE format (Table 2.7). -/
def ieeeOver (t : IeeeFmt) (sat : Bool) (s : Bool) (fromInf : Bool) : Nat × Events :=
  let sb := s.toNat * 2 ^ (t.eb + t.mb)
  if sat then (sb + t.big, Ev.sat)
  else match t.inf with
    | some i => (sb + i, if fromInf then 0 else Ev.of_)
    | none => (sb + t.nan, Ev.of_)

/-- Rounds a magnitude into an IEEE format on its significand (R68): its floor log2 e and ⌊mag × 2^(n)⌋ by `mag`. -/
def toIeeeMag (t : IeeeFmt) (r : RCtx) (s : Bool) (e : Int) (mag : Int → Quant) : Nat × Events :=
  let sb := s.toNat * 2 ^ (t.eb + t.mb)
  let emin : Int := 1 - t.bias
  let e' := max e emin
  let m := (roundQ r.mode r.s (mag (33 - (e' - t.mb)))).toNat
  if m = 0 then (sb, Ev.uf)
  else
    let code : Int := if m < 2 ^ t.mb then m else (e' + t.bias - 1) * 2 ^ t.mb + m
    if t.big < code then ieeeOver t r.sat s false else (sb + code.toNat, 0)

/-- Conversion to an IEEE format (R68, R69). -/
def toIeee (t : IeeeFmt) (r : RCtx) (x : CvtVal) : Nat × Events :=
  let sb (s : Bool) : Nat := s.toNat * 2 ^ (t.eb + t.mb)
  match x with
  | .zero s => (sb s, 0)
  | .nan s _ => (sb s + t.nan, 0)
  | .inf s => ieeeOver t r.sat s true
  | .log s g l => toIeeeMag t r s (l / 2 ^ g.frac) (magFloor g.frac l 1)
  | .lin s c e => toIeeeMag t r s (e + c.log2) (magFloor 0 e c)

/-- Conversion to an integer of w bits (R71). -/
def toInt (w : Nat) (uns : Bool) (r : RCtx) (x : CvtVal) : Nat × Events :=
  let lo : Int := if uns then 0 else -(2 ^ (w - 1))
  let hi : Int := if uns then 2 ^ w - 1 else 2 ^ (w - 1) - 1
  let clamp (i : Int) : Nat × Events :=
    if i < lo then (wrapN w lo, Ev.sat) else if hi < i then (wrapN w hi, Ev.sat) else (wrapN w i, 0)
  match x with
  | .zero _ => (0, 0)
  | .nan _ _ => (0, Ev.sat)
  | .inf s => (wrapN w (if s then lo else hi), Ev.sat)
  | .log s g l => clamp (signed s (roundQ r.mode r.s (magFloor g.frac l 1 33)))
  | .lin s c e => clamp (signed s (roundQ r.mode r.s (magFloor 0 e c 33)))

/-- A conversion from type st to type dt of source bits x (R115, R116). -/
def convert (dt st : Typ) (r : RCtx) (subIn engine : Bool) (x : Nat) : Nat × Events :=
  let v := CvtVal.of st subIn x
  match dt.fmt? with
  | some f => let y := toLog f r (engine && !st.fmt?.any fun g => exactPair g f) v; (y.1.code f, y.2)
  | none =>
    match ieeeOf dt with
    | some t => toIeee t r v
    | none =>
      match dt with
      | .i32 => toInt 32 false r v
      | .n32 => toInt 32 true r v
      | .i64 => toInt 64 false r v
      | _ => toInt 64 true r v

/-! ### Stochastic rounding -/

/-- The function mix (R64). -/
def mix (a b : Word) : Word :=
  let step (xy : Word × Word) (ks : Word × Nat) : Word × Word :=
    let x := ((xy.1 ^^^ xy.2) * ks.1).rotateLeft ks.2
    (x, xy.2 + (x ^^^ (xy.2 >>> 7)))
  let r := [(0xA3B195C5#32, 13), (0x6C078E2B, 17), (0xD2B74F09, 11), (0x3F1D6A93, 19)].foldl step
    (a, b ^^^ 0x3C6EF372)
  r.1 ^^^ r.2

/-- The rounding value S of a lane for a dither index (R63). -/
def srValue (seed taskser : Word) (lane : Nat) (d : Word) : Word :=
  mix (seed ^^^ taskser) (d ^^^ (BitVec.ofNat 32 lane <<< 24))

end Machine

end Sys2Proof
end

