-- ==== Sys2Proof/Machine/Flags.lean ====
section
/-! DEFINITION. The fields of %mode (R16), the rounding and overflow an instruction takes from them (R57, R58, R94), the
trap decision on events (R92), and the fault codes with their classes and contents (Table 16.1). -/

namespace Sys2Proof.Machine

/-! ### %mode -/

/-- What a write to %mode stores: reserved bits read as zero, rounding code 3 stores 0 (R16). -/
def modeStored (x : Word) : Word :=
  let y := x &&& 0x1FF
  if y &&& 3 = 3 then y &&& 0x1FC else y

/-- RND as a mode (Table 1.2). -/
def modeRnd (m : Word) : RMode :=
  match (m &&& 3).toNat with
  | 1 => .rz
  | 2 => .sr
  | _ => .rn

/-- SUB_IN. -/
def modeSubIn (m : Word) : Bool := m.getLsbD 2
/-- OVF_DEF. -/
def modeOvfDef (m : Word) : Bool := m.getLsbD 3
/-- The trap enables in the bit order of an event mask (R92). -/
def modeTraps (m : Word) : Events := m.extractLsb' 4 5

/-- The rounding mode of an instruction (R57, R94). -/
def rmodeOf (m : Word) : Rnd → RMode
  | .rn => .rn
  | .rz => .rz
  | .sr => .sr
  | .dyn => modeRnd m

/-- Whether overflow gives the largest finite value (R58, R69). -/
def satOf (m : Word) : Ov → Bool
  | .dflt => modeOvfDef m
  | .sat => true
  | .ovf => false

/-- What rounding takes from the instruction and %mode, for a rounding value S. -/
def rctxOf (m : Word) (rnd : Rnd) (ov : Ov) (s : Word) : RCtx := ⟨rmodeOf m rnd, s, satOf m ov⟩

/-- R92 step 3: an enabled event. -/
def trapped (m : Word) (e : Events) : Bool := modeTraps m &&& e != 0

/-! ### Faults -/

namespace Code
abbrev notres : Nat := 0x01
abbrev fetchNotres : Nat := 0x02
abbrev addrInvalid : Nat := 0x10
abbrev addrAlign : Nat := 0x11
abbrev accessPerm : Nat := 0x12
abbrev fetchInvalid : Nat := 0x13
abbrev format : Nat := 0x14
abbrev limbDiverge : Nat := 0x15
abbrev limbUnbound : Nat := 0x16
abbrev limbOvf : Nat := 0x17
abbrev rescale : Nat := 0x18
abbrev arith : Nat := 0x19
abbrev band : Nat := 0x1A
abbrev engineParam : Nat := 0x1B
abbrev stack : Nat := 0x1C
abbrev trap : Nat := 0x1D
abbrev brk : Nat := 0x1E
abbrev ecc : Nat := 0x30
abbrev link : Nat := 0x31
abbrev watchdog : Nat := 0x32
abbrev violation : Nat := 0x33
/-- No fault: the access waits for a page walk (R246). -/
abbrev walk : Nat := 0x100
/-- No fault: the fill of a granule waits for an atomic operation of the warp on its bytes (R226, R268). -/
abbrev atomic : Nat := 0x101
end Code

/-- The rank of a code's class: 2 for class C, 1 for class B, 0 for the codes that may be class A (Table 16.1). -/
def codeRank (c : Nat) : Nat := if 0x30 ≤ c then 2 else if 0x10 ≤ c then 1 else 0

/-- A lane entry (Table 16.5). -/
structure LaneCause where
  lane : Lane
  cause : Nat
  addr : DWord
  ldetail : Events := 0
  deriving DecidableEq, Repr

/-- A fault of an instruction: its code, its lanes, DETAIL, the failing line of a write-back, and whether the instruction
is complete (R126). -/
structure FaultInfo where
  code : Nat
  lanes : List LaneCause
  detail : Word := 0
  wb : Option DWord := none
  complete : Bool := false
  deriving DecidableEq, Repr

namespace FaultInfo

/-- A fault decided once for the warp: every participating lane carries the cause (R364). -/
def warpWide (code : Nat) (p : Mask) (addr : DWord := 0) (detail : Word := 0) : FaultInfo :=
  { code := code, detail := detail, lanes := (lanesOf p).map fun l => { lane := l, cause := code, addr := addr } }

/-- FORMAT: every active lane names it, and so every participating one (R20, R119, R364; log 88). -/
def format (m : Mask) : FaultInfo := warpWide Code.format m

/-- ENGINE_PARAM with its reason in DETAIL. -/
def engineParam (reason : Nat) (p : Mask) (addr : DWord) : FaultInfo :=
  warpWide Code.engineParam p addr (BitVec.ofNat 32 reason)

/-- The addresses of accesses that wait for a page walk (R246). -/
def walks (f : FaultInfo) : List DWord := f.lanes.filterMap fun c => if c.cause = Code.walk then some c.addr else none

/-- A lane waits for an atomic operation of its warp (R268). -/
def afterAtomic (f : FaultInfo) : Bool := f.lanes.any fun c => c.cause == Code.atomic

/-- A fault with the causes its lanes keep, if any lane fails (R139). -/
def ofLanes (ls : List LaneCause) : Option FaultInfo := ls.head?.map fun c => { code := c.cause, lanes := ls }

/-- The highest class found among the lanes decides, and the lowest lane with a cause of that class gives CODE (R139, R357,
R395); a code that may be class A counts as class B where R360 does not allow an abort. -/
def settle (abortable : Bool) (f : FaultInfo) : FaultInfo :=
  let rank (c : Nat) : Nat := if codeRank c = 0 && !abortable then 1 else codeRank c
  let top := f.lanes.foldl (fun m c => max m (rank c.cause)) 0
  match f.lanes.find? fun c => rank c.cause == top with
  | some c => { f with code := c.cause, detail := if c.cause = f.code then f.detail else 0 }
  | none => f

/-- ARITH: each lane carries its event mask, DETAIL their OR (R92, R189, Table 16.1). -/
def arith (es : List (Lane × Events)) : FaultInfo :=
  { code := Code.arith
    detail := (es.foldl (fun (m : Events) e => m ||| e.2) 0).setWidth 32
    lanes := es.map fun e => { lane := e.1, cause := Code.arith, addr := 0, ldetail := e.2 } }

end FaultInfo

end Sys2Proof.Machine
end

