-- ==== Sys2Proof/Machine/Operands.lean ====
section
/-! DEFINITION. Reading operands and writing results: every form of an operand byte as an integer, a pair, a real and a
uniform value (R29 to R31), the tags a source carries (R20), and writes of registers and predicates with their tags (R13,
R14, R21). -/

namespace Sys2Proof.Machine

/-- What an instruction reads: the registers as its reads see them (R38), with what some lanes read of a w register (numbered 64 to
95) or of %limbs (104) instead; the uniform specials (Table 1.1), IMM32, and the participating lanes (R183). -/
structure View where
  r : Warp
  late : List (Nat × Mask × Word) := []
  sp : Vector Word 16
  imm : Word
  p : Mask
  deriving DecidableEq, Repr

/-- The register `i` above a v register. -/
def vUp (r : Fin 64) (i : Nat) : Fin 64 := ⟨(r.val + i) % 64, Nat.mod_lt _ (by decide)⟩
/-- The register `i` above a w register. -/
def wUp (r : Fin 32) (i : Nat) : Fin 32 := ⟨(r.val + i) % 32, Nat.mod_lt _ (by decide)⟩

/-- Two words as a pair, the low word first (R12). -/
def pairOf (lo hi : Word) : DWord := hi ++ lo
/-- The low word of a pair. -/
def loWord (x : DWord) : Word := x.setWidth 32
/-- The high word of a pair. -/
def hiWord (x : DWord) : Word := x.extractLsb' 32 32

namespace Warp

def vAt (w : Warp) (r : Fin 64) (l : Lane) : Word := w.v[r.val][l.val]
def wAt (w : Warp) (r : Fin 32) : Word := w.w[r.val]
def vTag (w : Warp) (r : Fin 64) : Tag := w.vt[r.val]
def wTag (w : Warp) (r : Fin 32) : Tag := w.wt[r.val]

/-- A predicate's lanes; p7 is always true (R14). -/
def pred (w : Warp) (p : Fin 8) : Mask := if h : p.val < 7 then w.p[p.val] else Mask.all

/-- The lanes in which a guard holds (R26). -/
def guardMask (w : Warp) (c : Ctl) : Mask := if c.gn then ~~~(w.pred c.gp) else w.pred c.gp

/-- Writes a v register in the lanes of p, with the tag of R21. -/
def setV (w : Warp) (r : Fin 64) (p : Mask) (val : Lane → Word) (t : Tag) : Warp :=
  let old := w.vTag r
  let t' := if w.m = Mask.all ∨ old = t ∨ old = .undef then t else .raw
  { w with
    v := w.v.set r.val (Vector.ofFn fun l => if p.getLsbD l.val then val l else w.vAt r l)
    vt := w.vt.set r.val t' }

/-- Writes a w register once (R13). -/
def setW (w : Warp) (r : Fin 32) (x : Word) (t : Tag) : Warp :=
  { w with w := w.w.set r.val x, wt := w.wt.set r.val t }

/-- Writes the register `i` above a destination: the lanes of p of a v register; once, from the lowest lane of p, a w
register (R13, R93); nothing for the byte 0x78. -/
def setDst (w : Warp) (d : Dst) (i : Nat) (p : Mask) (val : Lane → Word) (t : Tag) : Warp :=
  match d with
  | .v r => if p = 0 then w else w.setV (vUp r i) p val t
  | .w r => match lowestLane p with
    | some l => w.setW (wUp r i) (val l) t
    | none => w
  | .none => w

/-- Writes a pair (R12). -/
def setPair (w : Warp) (d : Dst) (p : Mask) (val : Lane → DWord) (t : Tag) : Warp :=
  (w.setDst d 0 p (fun l => loWord (val l)) t).setDst d 1 p (fun l => hiWord (val l)) t

/-- Writes a field marked *, its value below 2^64 (R73, R95): I64 on a pair under W, else a register with a tag. -/
def setStar (w : Warp) (wide : Bool) (d : Dst) (p : Mask) (val : Lane → Nat) (t : Tag := .i32) : Warp :=
  if wide then w.setPair d p (fun l => BitVec.ofNat 64 (val l)) .i64
  else w.setDst d 0 p (fun l => BitVec.ofNat 32 (val l)) t

/-- Writes a predicate in the lanes of p; p7 discards (R14). -/
def setPred (w : Warp) (pd : Fin 8) (p : Mask) (bits : Mask) : Warp :=
  if h : pd.val < 7 then { w with p := w.p.set pd.val ((w.p[pd.val] &&& ~~~p) ||| (bits &&& p)) } else w

end Warp

/-- The lanes that compute: the lowest one of p for a w destination (R93), else all of p. -/
def Dst.lanes (d : Dst) (p : Mask) : Mask :=
  match d with
  | .w _ => match lowestLane p with
    | some l => 1#32 <<< l.val
    | none => 0
  | _ => p

/-- A real inline constant ±2^(k − 31) as a code (R30). -/
def inlineReal (f : Fmt) (k : BitVec 7) : Nat :=
  (Num.fin (k.getLsbD 6) (((k.toNat % 64 : Nat) : Int) - 31 |> (· * 2 ^ f.frac))).code f

/-- A code repeated in every element (R30). -/
def repeatCode (f : Fmt) (c : Nat) : Word :=
  BitVec.ofNat 32 ((List.range f.count).foldl (fun x j => x + c * 2 ^ (f.elem.bits * j)) 0)

namespace View

/-- What a lane reads of a register that is written once for the warp (R38). -/
def lateAt (v : View) (reg : Nat) (l : Lane) (x : Word) : Word :=
  v.late.foldl (fun x e => if e.1 = reg ∧ e.2.1.getLsbD l.val then e.2.2 else x) x

/-- A w register as a lane reads it. -/
def wAt (v : View) (r : Fin 32) (l : Lane) : Word := v.lateAt (64 + r.val) l (v.r.wAt r)

/-- A source as a 32-bit value (R29, R30). -/
def word (v : View) (a : Opnd) (l : Lane) : Word :=
  match a with
  | .v r => v.r.vAt r l
  | .w r => v.wAt r l
  | .sp n =>
    if n.val = 0 then BitVec.ofNat 32 l.val
    else if n.val = 7 then (if v.r.carry.getLsbD l.val then 1 else 0)
    else if n.val = 6 then v.lateAt 104 l v.sp[6]
    else v.sp[n.val]
  | .zero => 0
  | .imm => v.imm
  | .inl k => k.signExtend 32

/-- A source of class e (R12, R72). -/
def pair (v : View) (a : Opnd) (l : Lane) : DWord :=
  match a with
  | .v r => pairOf (v.r.vAt r l) (v.r.vAt (vUp r 1) l)
  | .w r => pairOf (v.wAt r l) (v.wAt (wUp r 1) l)
  | .sp _ => (v.word a l).setWidth 64
  | .zero => 0
  | .imm => v.imm.signExtend 64
  | .inl k => k.signExtend 64

/-- The bits of a field marked * (R73). -/
def bits (v : View) (wide : Bool) (a : Opnd) (l : Lane) : Nat :=
  if wide then (v.pair a l).toNat else (v.word a l).toNat

/-- A field marked * read as an integer, signed, or unsigned under N (R50). -/
def int (v : View) (wide uns : Bool) (a : Opnd) (l : Lane) : Int :=
  if uns then v.bits wide a l else sextN (if wide then 64 else 32) (v.bits wide a l)

/-- A real source as raw bits: 0x78 is +0 and an inline constant stands in every element (R30, R103). -/
def real (v : View) (f : Fmt) (a : Opnd) (l : Lane) : Word :=
  match a with
  | .zero => repeatCode f ((Num.zero false).code f)
  | .inl k => repeatCode f (inlineReal f k)
  | _ => v.word a l

/-- A real source of one element as its code, the bits above the format read as zero (R47). -/
def realCode (v : View) (f : Fmt) (a : Opnd) (l : Lane) : Word := BitVec.ofNat 32 ((v.real f a l).toNat % 2 ^ f.bits)

/-- The tag of the register `i` above a source; none where the source carries no tag (R20). -/
def tagAt (v : View) (a : Opnd) (i : Nat) : Option Tag :=
  match a with
  | .v r => some (v.r.vTag (vUp r i))
  | .w r => some (v.r.wTag (wUp r i))
  | _ => none

/-- The first `n` registers of a source carry a tag (R20). -/
def has (v : View) (t : Tag) (n : Nat) (a : Opnd) : Bool :=
  (List.range n).all fun i => match v.tagAt a i with
    | some t' => t' == t
    | none => true

/-- A typed integer source (R95). -/
def isInt (v : View) (wide : Bool) (a : Opnd) : Bool := if wide then v.has .i64 2 a else v.has .i32 1 a

/-- A source that accepts any tag but UNDEF, checked on each of its first `n` registers (R20, R97). -/
def defined (v : View) (n : Nat) (a : Opnd) : Bool :=
  (List.range n).all fun i => v.tagAt a i != some .undef

/-- A bitwise source of a field marked *. -/
def isBits (v : View) (wide : Bool) (a : Opnd) : Bool := v.defined (if wide then 2 else 1) a

/-- The value of a uniform source, read in the lowest participating lane. -/
def uniform (v : View) (a : Opnd) : Word := v.word a ((lowestLane v.p).getD 0)

/-- The pair of a uniform source. -/
def uniformPair (v : View) (a : Opnd) : DWord := v.pair a ((lowestLane v.p).getD 0)

end View

/-- What an instruction on registers and predicates alone answers: the warp after it, or its fault. -/
inductive RegAct where
  | ok (w : Warp)
  | bad (f : FaultInfo)
  deriving DecidableEq, Repr

/-- An instruction on registers alone: FORMAT where its tag checks fail (R92 step 1), else its result. -/
def checked (v : View) (ok : Bool) (w : Warp) : RegAct := if ok then .ok w else .bad (.format v.r.m)

end Sys2Proof.Machine
end

