-- ==== Sys2Proof/Machine/Aes.lean ====
section
/-! DEFINITION. AES-256-XTS as memory encryption uses it (R241): the block cipher of FIPS 197 with a 256-bit key, forwards and
backwards, and the tweaked mode of IEEE 1619 over the eight 16-byte blocks of a 128-byte data unit. A block is a list of 16 byte
values, first byte first; the round keys of a key are a list of 15 blocks (log 14). -/

namespace Sys2Proof.Machine.Aes

/-- The S-box, entry i at bits 8i and up. -/
def sboxTable : Nat :=
  0x16BB54B00F2D99416842E6BF0D89A18CDF2855CEE9871E9B948ED9691198F8E19E1DC186B95735610EF6034866B53E708A8BBD4B1F74DDE8C6B4A61C2E2578BA08AE7A65EAF4566CA94ED58D6D37C8E779E4959162ACD3C25C2406490A3A32E0DB0B5EDE14B8EE4688902A22DC4F816073195D643D7EA7C41744975FEC130CCDD2F3FF1021DAB6BCF5389D928F40A351A89F3C507F02F94585334D43FBAAEFD0CF584C4A39BECB6A5BB1FC20ED00D153842FE329B3D63B52A05A6E1B1A2C830975B227EBE28012079A059618C323C7041531D871F1E5A534CCF73F362693FDB7C072A49CAFA2D4ADF04759FA7DC982CA76ABD7FE2B670130C56F6BF27B777C63

/-- The inverse S-box. -/
def invSboxTable : Nat :=
  0x7D0C2155631469E126D677BA7E042B17619953833CBBEBC8B0F52AAE4D3BE0A0EF9CC9939F7AE52D0D4AB519A97F51605FEC8027591012B131C7078833A8DD1FF45ACD78FEC0DB9A2079D2C64B3E56FC1BBE18AA0E62B76F89C5291D711AF1476EDF751CE837F9E28535ADE72274AC9673E6B4F0CECFF297EADC674F4111913A6B8A130103BDAFC1020F3FCA8F1E2CD00645B3B80558E4F70AD3BC8C00ABD890849D8DA75746155EDAB9EDFD5048706C92B6655DCC5CA4D41698688664F6F87225D18B6D49A25B76B224D92866A12E084EC3FA420B954CEE3D23C2A632947B54CBE9DEC444438E3487FF2F9B8239E37CFBD7F3819EA340BF38A53630D56A0952

def sub (table x : Nat) : Nat := table / 2 ^ (8 * x) % 256

/-- The product with x in the field of 256 elements. -/
def dbl (x : Nat) : Nat := if 128 ≤ x then (2 * x) % 256 ^^^ 0x1B else 2 * x

/-- The product of two elements of the field, the second below 16. -/
def mul (x n : Nat) : Nat :=
  (if n.testBit 0 then x else 0) ^^^ (if n.testBit 1 then dbl x else 0) ^^^ (if n.testBit 2 then dbl (dbl x) else 0) ^^^
    (if n.testBit 3 then dbl (dbl (dbl x)) else 0)

/-- Two blocks added. -/
def add (a b : List Nat) : List Nat := List.zipWith (· ^^^ ·) a b

/-- Row r of the state rotated by `s r` places: byte 4c + r comes from column c + s r. -/
def rotateRows (s : Nat → Nat) (b : List Nat) : List Nat :=
  (List.range 16).map fun i => (b[4 * ((i / 4 + s (i % 4)) % 4) + i % 4]?).getD 0

/-- Each column multiplied by the circulant matrix with first row m. -/
def mixColumns (m : List Nat) (b : List Nat) : List Nat :=
  (List.range 16).map fun i =>
    (List.range 4).foldl (fun x j => x ^^^ mul ((b[4 * (i / 4) + j]?).getD 0) ((m[(j + 4 - i % 4) % 4]?).getD 0)) 0

/-- The next word of the key schedule, from the last eight words, the oldest first. -/
def nextWord (i : Nat) (last : List (List Nat)) : List Nat :=
  let w := last.getLastD []
  let t :=
    if i % 8 = 0 then
      let r := (w.drop 1 ++ w.take 1).map (sub sboxTable)
      add r [2 ^ (i / 8 - 1), 0, 0, 0]
    else if i % 8 = 4 then w.map (sub sboxTable)
    else w
  add (last.headD []) t

/-- The words of the key schedule from number i on, given the eight before it. -/
def schedule : Nat → Nat → List (List Nat) → List (List Nat)
  | 0, _, _ => []
  | n + 1, i, last =>
    let w := nextWord i last
    w :: schedule n (i + 1) (last.drop 1 ++ [w])

/-- A list in pieces of four. -/
def fours : Nat → List Nat → List (List Nat)
  | 0, _ => []
  | n + 1, l => l.take 4 :: fours n (l.drop 4)

/-- Words joined into blocks. -/
def blocks : Nat → List (List Nat) → List (List Nat)
  | 0, _ => []
  | n + 1, ws => (ws.take 4).flatten :: blocks n (ws.drop 4)

/-- The 15 round keys of a key of 32 bytes. -/
def roundKeys (key : List Nat) : List (List Nat) :=
  let ws := fours 8 key
  blocks 15 (ws ++ schedule 52 8 ws)

/-- The rounds after the first addition, the last without its mixing. -/
def encryptRounds (b : List Nat) : List (List Nat) → List Nat
  | [] => b
  | k :: ks =>
    let t := rotateRows id (b.map (sub sboxTable))
    if ks.isEmpty then add t k else encryptRounds (add (mixColumns [2, 3, 1, 1] t) k) ks

/-- The cipher on one block, under its round keys. -/
def encrypt (ks : List (List Nat)) (b : List Nat) : List Nat :=
  match ks with
  | [] => b
  | k :: ks => encryptRounds (add b k) ks

/-- The inverse rounds, the round keys last first. -/
def decryptRounds (b : List Nat) : List (List Nat) → List Nat
  | [] => b
  | k :: ks =>
    let t := add ((rotateRows (fun r => 4 - r) b).map (sub invSboxTable)) k
    if ks.isEmpty then t else decryptRounds (mixColumns [14, 11, 13, 9] t) ks

/-- The inverse cipher on one block. -/
def decrypt (ks : List (List Nat)) (b : List Nat) : List Nat :=
  match ks.reverse with
  | [] => b
  | k :: ks => decryptRounds (add b k) ks

/-! ### The tweaked mode -/

/-- Bytes of a number, the lowest first. -/
def bytesOf (n x : Nat) : List Nat := (List.range n).map fun i => x / 2 ^ (8 * i) % 256

/-- A number from its bytes. -/
def natOf (b : List Nat) : Nat := b.foldr (fun x n => x + 256 * n) 0

/-- The product of a tweak with the primitive element. -/
def nextTweak (t : Nat) : Nat := if t.testBit 127 then 2 * t % 2 ^ 128 ^^^ 0x87 else 2 * t

/-- The product of a tweak with the j-th power of the primitive element. -/
def tweakUp : Nat → Nat → Nat
  | 0, t => t
  | j + 1, t => tweakUp j (nextTweak t)

/-- The tweak of block j of a data unit: the second half of the key encrypts the unit's number. -/
def tweakOf (key : BitVec 512) (unit j : Nat) : List Nat :=
  bytesOf 16 (tweakUp j (natOf (encrypt (roundKeys (bytesOf 32 (key.toNat / 2 ^ 256))) (bytesOf 16 unit))))

/-- A block of a data unit as it is stored: under the first half of the key, between two additions of its tweak. -/
def xtsEncrypt (key : BitVec 512) (unit j : Nat) (b : List Nat) : List Nat :=
  let t := tweakOf key unit j
  add (encrypt (roundKeys (bytesOf 32 key.toNat)) (add b t)) t

/-- A block of a data unit as it is read. -/
def xtsDecrypt (key : BitVec 512) (unit j : Nat) (b : List Nat) : List Nat :=
  let t := tweakOf key unit j
  add (decrypt (roundKeys (bytesOf 32 key.toNat)) (add b t)) t

/-- A block written under one key as a read under another sees it (R241). -/
def recrypt (old new : BitVec 512) (unit j : Nat) (b : List Byte) : List Byte :=
  (xtsDecrypt new unit j (xtsEncrypt old unit j (b.map (·.toNat)))).map (BitVec.ofNat 8)

end Sys2Proof.Machine.Aes
end

