-- ==== Sys2Proof/Config.lean ====
section
/-! DEFINITION. What one implementation fixes, and the free values: constants without a body, applied to a plain
counter of the state or to the operands the value depends on (log 4). Nothing can be proved of what they are. -/

namespace Sys2Proof.Config

/-- Log 4: fresh free values, one for each value of the draw counter. -/
opaque freeWord : Nat → Word
/-- Log 4: a fresh free 64-bit value. -/
opaque freeDWord : Nat → DWord
/-- Log 4: a fresh free byte. -/
opaque freeByte : Nat → Byte
/-- Log 4: a fresh free choice between two. -/
opaque freeBit : Nat → Bool
/-- Log 4: a fresh free number, used where the spec bounds nothing. -/
opaque freeNat : Nat → Nat

/-- Log 3: how many cycles pass at one step; none where the next step falls into the same cycle. -/
opaque stepCycles : Nat → Nat

/-- Log 6: the bytes of the capability table in ROM that the manual does not give, by record type and place. -/
opaque capRom : Nat → Nat → Byte
/-- Log 6: the stepping register's bits [15:0], major and minor stepping (R147). -/
opaque stepping : BitVec 16
/-- Log 28: what the device register range reads as where the manual describes no register that reads there. -/
opaque regByte : Nat → Byte

/-- Log 29: where the register page holds a PF register whose offset the manual does not give: 0 PFKEY, 1 to 8 INVA of
VF v, 9 to 16 INCTX of VF v, 17 to 31 INBASE, INLIM and KEY of ports 1 to 5. -/
opaque pfOffset : Nat → Nat

/-- Log 16: whether both signatures of a code object verify, by class, manifest bytes and signature bytes (R420
step 5). The key hashes are in ROM and the manual does not give them. -/
opaque signaturesVerify : Nat → List Byte → List Byte → Bool

/-- Log 13: the latency of a row of Table 6.1 on a stepping other than major stepping 1, as record 0x0003 of the capability
table states it (R38, R39, R416); row 4 holds what W = 1 adds. -/
opaque latency : Nat → BitVec 16
/-- Log 13: the cycles for which an instruction keeps its pipe on such a stepping, by row of Table 6.1 and active beats. -/
opaque busyCycles : Nat → Nat → Nat

end Sys2Proof.Config
end

