-- ==== Sys2Proof/Machine/Regs.lean ====
section
/-! DEFINITION. What the device register range reads as (R403): the capability table (R416, R417), the register pages
(R411, R415) and the counter pages (R393). -/

namespace Sys2Proof.Machine

/-- The major and minor stepping and die identifier (R147). -/
def steppingReg : Word := 0xB6400000#32 ||| Config.stepping.setWidth 32

/-- The major stepping. -/
def majorStepping : Nat := (Config.stepping.toNat / 2 ^ 8) % 2 ^ 8

/-- An errata record's value as firmware writes it: reserved fields are zero (R8, Table 19.7). -/
def erratumValue (e : BitVec 128) : BitVec 128 := e &&& 0xFF03FFFFFFFFFFFF#128

/-- An errata record applies to the running stepping (Table 19.7). -/
def erratumApplies (e : BitVec 128) : Bool :=
  fieldOf e 47 32 == 0xFFFF || fieldOf e 47 32 == Config.stepping.toNat

/-- An errata record forces interlocked mode for all code (R417). -/
def Dev.forceInterlocked (d : Dev) : Bool := d.errata.any fun e => erratumApplies e && e.getLsbD 49

/-- A cluster's scheduling is enabled (R3, R417). -/
def Dev.clusterOn (d : Dev) (c : ClusterIx) : Bool :=
  (d.cluster c).enabled && !(d.errata.any fun e => erratumApplies e && e.getLsbD 48 && e.getLsbD (56 + c.val))

/-- Byte `i` of a number, little-endian. -/
def byteOf (x : Nat) (i : Nat) : Byte := BitVec.ofNat 8 (x / 2 ^ (8 * i))

/-! ### The capability table (R416, R417, log 6) -/

/-- A record of the table, with zeros up to a multiple of 8 bytes. -/
def capRecord (type : Nat) (value : List Byte) : List Byte :=
  let bs := leBytes 2 type ++ leBytes 2 value.length ++ value
  bs ++ List.replicate ((8 - bs.length % 8) % 8) 0

/-- Bytes of a record that the manual does not give. -/
def capFree (type n : Nat) : List Byte := (List.range n).map (Config.capRom type)

/-- The latency of a row of Table 6.1 on the running stepping, where the row has a number of its own. -/
def rowLatency (row : Nat) : Option Nat :=
  if majorStepping ≠ 1 then (if row < 8 then some (Config.latency row).toNat else none)
  else [some 4, some 6, some 8, some 12, none, none, some 6, some 6, none].getD row none

/-- The busy cycles of a row of Table 6.1 for a warp with all four beats active (R154). -/
def rowBusy (row : Nat) : Nat :=
  if majorStepping ≠ 1 then Config.busyCycles row 4 else [4, 4, 4, 8, 8, 1, 4, 4, 4].getD row 0

/-- Record 0x0003: busy cycles and latency of each row of Table 6.1, a latency free where the row states no number. -/
def capTiming : List Byte := (List.range 9).flatMap fun row =>
  leBytes 2 (rowBusy row) ++ match rowLatency row with
    | some n => leBytes 2 n
    | none => [Config.capRom 3 (4 * row + 2), Config.capRom 3 (4 * row + 3)]

/-- Record 0x0002: one field for each of the 13 rows of Table 0.1, its one whole number in the unit that the row prints, free
where the row has several figures. -/
def capRated : List Byte := (List.range 13).flatMap fun row =>
  match [some 384, some 800, none, none, none, none, some 786432, none, none, some 384, none, none, some 1800].getD row none with
  | some n => leBytes 4 n
  | none => (List.range 4).map fun i => Config.capRom 2 (4 * row + i)

/-- The records before the signature. -/
def capSigned : List Byte :=
  capRecord 0x0001 (leBytes 4 steppingReg.toNat ++ capFree 1 16) ++ capRecord 0x0002 capRated ++ capRecord 0x0003 capTiming ++
    capRecord 0x0004 (capFree 4 (8 * 55 * 2)) ++ capRecord 0x0005 [0xFF] ++ capRecord 0x0006 (capFree 6 (3 * 2 * 48))

/-- The signature record. -/
def capSignature : List Byte := capRecord 0x00FE (capFree 0xFE (64 + 3309))

/-- The header, of the table as it comes from ROM. -/
def capHeader : List Byte :=
  let tail := 16 + capSigned.length + capSignature.length
  leBytes 4 0x54424143 ++ leBytes 4 (tail + 8) ++ leBytes 4 tail ++ leBytes 4 0

/-- The errata records and the end record that follow the signature (R417). -/
def Dev.capTail (d : Dev) : List Byte :=
  d.errata.flatMap (fun e => capRecord 0x8000 (leBytes 16 e.toNat)) ++ capRecord 0xFFFF []

/-- The capability table (R416). -/
def Dev.capTable (d : Dev) : List Byte := capHeader ++ capSigned ++ capSignature ++ d.capTail

/-- A byte of the capability table's place, opaque past the end record. -/
def Dev.capByte (d : Dev) (n : Nat) : Byte := (d.capTable[n]?).getD (Config.regByte n)

/-! ### The register pages -/

/-- PORTSTAT (R415). -/
def Dev.portStat (d : Dev) : Nat :=
  (List.finRange 6).foldl (fun x p => if (d.port p).up then x + 2 ^ p.val else x) 0

/-- The PF register at an offset that `Config.pfOffset` gives (log 29). -/
def pfRegAt (off : Nat) : Option (Fin 32) := (List.finRange 32).find? fun n => Config.pfOffset n.val == off / 8 * 8

/-- The function of VF `i`, counted from 0. -/
def vfFn (i : Nat) : FnIx := ⟨(i + 1) % 9, Nat.mod_lt _ (by decide)⟩

/-- The value of a PF register of `Config.pfOffset`. -/
def Dev.pfReg (d : Dev) (n : Fin 32) : Nat :=
  if n.val = 0 then d.pfkey.toNat
  else if n.val ≤ 8 then (d.fn (vfFn (n.val - 1))).inva.toNat
  else if n.val ≤ 16 then (d.fn (vfFn (n.val - 9))).inctx.toNat
  else
    let p := d.peers[(n.val - 17) / 3 % 5]'(Nat.mod_lt _ (by decide))
    match (n.val - 17) % 3 with
    | 0 => p.inbase.toNat
    | 1 => p.inlim.toNat
    | _ => p.key.toNat

/-- The registers that the pages show, by function and offset: where the register starts, its width in bytes and its value
(Table 19.4, R415, R421, R438, log 28). -/
def Dev.regAt (d : Dev) (f : FnIx) (off : Nat) : Option (Nat × Nat × Nat) :=
  let g := d.fn f
  if off < 0x200 then
    let r := g.rings[off / 32 % 16]
    let o := off % 32
    let base := off - o
    if o < 8 then some (base, 8, r.base.toNat)
    else if o < 12 then some (base + 8, 4, r.logn.toNat + (if r.enable then 256 else 0))
    else if o < 16 then some (base + 12, 4, r.head.toNat)
    else if o < 20 then some (base + 16, 4, r.tail.toNat)
    else some (base + 20, 12, 0)
  else if 0x218 ≤ off && off < 0x21C then some (0x218, 4, wrapN 32 (if f.val = 0 then d.ptpRate else 0))
  else if 0x200 ≤ off && off < 0x208 then some (0x200, 8, g.fanswer.toNat)
  else if 0x220 ≤ off && off < 0x228 then some (0x220, 8, g.dbgctl.toNat)
  else if 0x230 ≤ off && off < 0x238 then some (0x230, 8, g.fltbase.toNat)
  else if 0x238 ≤ off && off < 0x23C then some (0x238, 4, g.fltctl.toNat)
  else if 0x240 ≤ off && off < 0x248 then some (0x240, 8, d.portStat)
  else if f.val = 0 ∧ 0x250 ≤ off ∧ off < 0x254 then some (0x250, 4, d.pwrlim.toNat)
  else if f.val = 0 ∧ 0x300 ≤ off ∧ off < 0x380 then
    let x := d.fwwin[(off - 0x300) / 16 % 8]'(Nat.mod_lt _ (by decide))
    some (off / 8 * 8, 8, (if off / 8 % 2 = 0 then x.1 else x.2).toNat)
  else if f.val = 0 ∧ 0x380 ≤ off ∧ off < 0x384 then some (0x380, 4, if d.fwlock then 1 else 0)
  else if h : f.val = 0 ∧ 0x400 ≤ off ∧ off < 0x490 then
    let v : FnIx := ⟨(off - 0x400) / 16, by omega⟩
    let o := off % 16
    if o < 8 then some (off - o, 8, (d.fn v).fltbase.toNat)
    else if o < 12 then some (off - o + 8, 4, (d.fn v).fltctl.toNat)
    else none
  else if f.val = 0 then (pfRegAt off).map fun n => (off / 8 * 8, 8, d.pfReg n)
  else none

/-- A byte of a function's register page. -/
def Dev.regPageByte (d : Dev) (f : FnIx) (off : Nat) : Byte :=
  match d.regAt f off with
  | some (start, _, x) => byteOf x (off - start)
  | none => Config.regByte (0x100000 + f.val * 0x10000 + off)

/-- A byte of a function's counter page (R393). -/
def Dev.counterByte (d : Dev) (f : FnIx) (off : Nat) : Byte :=
  byteOf (Sparse.get (0 : DWord) (d.fn f).page (off / 8)).toNat (off % 8)

/-- A byte of the device register range, by its offset there (R403). -/
def Dev.deviceByte (d : Dev) (off : Nat) : Byte :=
  if off < 0x100000 then d.capByte off
  else if h : off < 0x100000 + 9 * 0x10000 then
    d.regPageByte ⟨(off - 0x100000) / 0x10000, by omega⟩ (off % 0x10000)
  else if h : 0x200000 ≤ off ∧ off < 0x200000 + 9 * 0x1000 then
    d.counterByte ⟨(off - 0x200000) / 0x1000, by omega⟩ (off % 0x1000)
  else Config.regByte off

end Sys2Proof.Machine
end

