-- ==== Sys2Proof/Machine/Memory.lean ====
section
/-! DEFINITION. Physical memory under its keys (R236, R240, R241), homes of bytes (R250), page tables and their checks (R242 to
R244), the TLB (R245 to R247), and monitors triggered by writes (R269, R270). -/

namespace Sys2Proof.Machine

/-- What lies at a physical address (Table 9.7); the parameter copies lie above it (log 18). -/
inductive PaKind where
  | dram
  | peer (p : Fin 5)
  | host
  | regs
  | param
  | unassigned
  deriving DecidableEq, Repr

/-- Table 9.7. -/
def paKind (pa : Nat) : PaKind :=
  if pa < 0x2000000000 then .dram
  else if h : 0x400000000000 ≤ pa ∧ pa < 0x450000000000 then
    .peer ⟨(pa - 0x400000000000) / 0x10000000000, by omega⟩
  else if 0x800000000000 ≤ pa && pa < 0xC00000000000 then .host
  else if 0xFF0000000000 ≤ pa && pa < 0x1000000000000 then .regs
  else if 0x1000000000000 ≤ pa then .param
  else .unassigned

/-- The port of a window address (R240). -/
def portOf (pa : Nat) : Option PortIx :=
  match paKind pa with
  | .peer p => some ⟨p.val + 1, by omega⟩
  | .host => some 0
  | _ => none

/-- A request of the firmware for n bytes is sent (R421): to host memory only inside a window of FWWIN, the limit
included (log 117). -/
def Dev.fwSent (d : Dev) (pa n : Nat) : Bool :=
  paKind pa != .host || d.fwwin.toList.any fun w =>
    w.1.toNat ≤ pa - 0x800000000000 && pa - 0x800000000000 + n ≤ w.2.toNat + 1

/-- A byte in a peer or host window. -/
def isWindow (pa : Nat) : Bool := (portOf pa).isSome

/-- The canonical form of the memory: addresses strictly rising, no entry equal to zero, which an unlisted address reads as
(log 5). -/
def Memory.wf (m : List Host.Cell) : Bool := Sparse.wf (0 : Byte) m

namespace Dev

/-! ### Bytes at home -/

/-- The key material of a slot (R241). -/
def material (d : Dev) (k : BitVec 10) : BitVec 512 := Sparse.get 0 d.keys k.toNat

/-- The key material that a line was last written under. -/
def lineMaterial (d : Dev) (pa : Nat) : BitVec 512 := Sparse.get 0 d.lineKey (pa / 128)

/-- A byte as its line's own key reads it: the reads of the device itself, of tables, descriptors and rings (log 30). -/
def rawByte (d : Dev) (pa : Nat) : Byte := Sparse.get (0 : Byte) d.mem pa

/-- The 16-byte block that holds a byte, as a read under other key material than its line's sees it (R241, log 14). -/
def otherKey (d : Dev) (new : BitVec 512) (pa : Nat) : List Byte :=
  Aes.recrypt (d.lineMaterial pa) new (pa / 128) (pa % 128 / 16) ((List.range 16).map fun i => d.rawByte (pa / 16 * 16 + i))

/-- A byte at its home, read under a key ID (R236, R241). -/
def readPa (d : Dev) (key : BitVec 10) (pa : Nat) : Byte :=
  match paKind pa with
  | .regs => d.deviceByte (pa - 0xFF0000000000)
  | .dram =>
    if d.lineMaterial pa = d.material key then d.rawByte pa else ((d.otherKey (d.material key) pa)[pa % 16]?).getD 0
  | _ => d.rawByte pa

/-- Stores a byte of physical memory. -/
def putByte (d : Dev) (pa : Nat) (b : Byte) : Dev := { d with mem := Sparse.set (0 : Byte) pa b d.mem }

/-- Rewrites a line under a key ID before a byte of it is written under that key (R236). -/
def rekey (d : Dev) (key : BitVec 10) (pa : Nat) : Dev :=
  if d.lineMaterial pa = d.material key then d
  else
    let base := pa / 128 * 128
    let bs := (List.range 8).flatMap fun j => d.otherKey (d.material key) (base + 16 * j)
    { d with
      mem := Sparse.setList (0 : Byte) base bs d.mem
      lineKey := Sparse.set 0 (pa / 128) (d.material key) d.lineKey }

/-- A frame that no agent may write (R43, R405). -/
def isProtected (d : Dev) (pfn : Nat) : Bool := d.exec.any fun e => e.frame == pfn

/-- A write reaches a monitored block: its monitors are triggered, and a write of a different value bounds their waits
(R270). -/
def trigger (d : Dev) (block : Loc) (changes : Bool) : Dev :=
  let watches (w : Warp) : Bool := w.monitor.any fun m => m.1 == block
  let note (w : Warp) : Warp :=
    { w with monitor := some (block, true), alarm := w.alarm.or (if changes then some d.clock else none) }
  if d.cores.any fun e => e.2.slots.toList.any fun s => s.any watches
  then d.mapWarps fun _ _ w => some (if watches w then note w else w)
  else d

/-- An offset of the device register range lies in a register page (R403). -/
def inRegPages (off : Nat) : Bool := 0x100000 ≤ off && off < 0x100000 + 9 * 0x10000

/-- Writes a byte at its home under a key ID; a protected frame, the capability table and the counter pages keep their values
(R393, R405, R416), and a byte for a register page waits there for its turn (log 28), as the PF's unless `writtenBy` names another function. -/
def writePa (d : Dev) (key : BitVec 10) (pa : Nat) (b : Byte) : Dev :=
  let changes := d.readPa key pa != b
  match paKind pa with
  | .regs =>
    let off := pa - 0xFF0000000000
    if inRegPages off then { d with regWrites := d.regWrites ++ [(off, b, 0)] } else d
  | .dram =>
    if d.isProtected (pa / 0x10000) then d
    else ((d.rekey key pa).putByte pa b).trigger (.phys (pa / 128 * 128)) changes
  | _ => (d.putByte pa b).trigger (.phys (pa / 128 * 128)) changes

/-- The register bytes that have come since the list held `n` are a function's writes (R408). -/
def writtenBy (d : Dev) (f : FnIx) (n : Nat) : Dev :=
  { d with regWrites := d.regWrites.take n ++ (d.regWrites.drop n).map fun w => (w.1, w.2.1, f) }

/-- Writes bytes from an address upwards. -/
def writeBytes (d : Dev) (key : BitVec 10) (pa : Nat) : List Byte → Dev
  | [] => d
  | b :: bs => (d.writePa key pa b).writeBytes key (pa + 1) bs

/-- Reads `n` bytes from an address upwards. -/
def readBytes (d : Dev) (key : BitVec 10) (pa n : Nat) : List Byte := (List.range n).map fun i => d.readPa key (pa + i)

/-- Reads `n` bytes as the device itself does. -/
def rawBytes (d : Dev) (pa n : Nat) : List Byte := (List.range n).map fun i => d.rawByte (pa + i)

/-- A number of `n` bytes as the device itself reads it. -/
def rawNat (d : Dev) (pa n : Nat) : Nat := leNat (d.rawBytes pa n)

/-- A write of `n` bytes from an address upwards reaches its blocks. -/
def triggerAll (d : Dev) (pa n : Nat) (changes : Bool) : Dev :=
  (List.range ((pa % 128 + n + 127) / 128)).foldl (fun d i => d.trigger (.phys ((pa / 128 + i) * 128)) changes) d

/-- Stores bytes of one frame as the device itself does, under the line's own key (log 30), unless the frame is protected
(R405). -/
def putRaw (d : Dev) (pa : Nat) (bs : List Byte) : Dev :=
  if d.isProtected (pa / 0x10000) then d
  else { d with mem := Sparse.setList (0 : Byte) pa bs d.mem }.triggerAll pa bs.length (d.rawBytes pa bs.length != bs)

/-! ### Page tables -/

/-- The next table that a directory entry names, where the entry is valid and well-formed (R242). -/
def dirNext (e : Nat) : Option Nat :=
  let next := bitsN e 47 11 * 2048
  if e % 2 = 1 ∧ bitsN e 10 1 = 0 ∧ bitsN e 63 48 = 0 ∧ next < 0x2000000000 then some next else none

/-- Whether a frame may be named by a PTE (R240, R243, R406). -/
def frameOk (pfn : Nat) : Bool :=
  match paKind (pfn * 0x10000) with
  | .dram | .host | .regs => true
  | .peer _ => (pfn * 0x10000 - 0x400000000000) % 0x10000000000 < 0x2000000000
  | _ => false

end Dev

/-- Fields of a PTE (Table 9.9). -/
def pteV (e : Nat) : Bool := e.testBit 0
def pteRes (e : Nat) : Bool := e.testBit 1
def pteR (e : Nat) : Bool := e.testBit 2
def pteW (e : Nat) : Bool := e.testBit 3
def pteX (e : Nat) : Bool := e.testBit 4
def pteKey (e : Nat) : Nat := bitsN e 14 5
def pteDb (e : Nat) : Bool := e.testBit 15
def pteRegion (e : Nat) : BitVec 12 := BitVec.ofNat 12 (bitsN e 27 16)
def ptePfn (e : Nat) : Nat := bitsN e 63 32
/-- The attribute bits of a TLB entry: all but PFN and RES (R245). -/
def pteAttr (e : Nat) : Nat := e % 2 ^ 32 - (if pteRes e then 2 else 0)

/-- A virtual address within 57 bits. -/
def va57 (va : Nat) : Nat := va % 2 ^ 57

/-- Canonical form (R137). -/
def canonical (va : Nat) : Bool := va < 2 ^ 56 || (2 ^ 64 - 2 ^ 56 ≤ va && va < 2 ^ 64)

/-- The parameter range (R160). -/
def inParamRange (va : Nat) : Bool := 0xFFFFFF0000000000 ≤ va && va < 2 ^ 64

namespace Dev

/-- The table that holds the leaf entries of a span (R242). -/
def leafTable (d : Dev) (x : Context) (va : Nat) : Option Nat := do
  let at_ (base hi lo : Nat) : Nat := d.rawNat (base + 8 * bitsN va hi lo) 8
  let t2 ← dirNext (at_ x.ptroot 56 48)
  let t1 ← dirNext (at_ t2 47 40)
  let t0 ← dirNext (at_ t1 39 32)
  dirNext (at_ t0 31 24)

/-- Whether a PTE is valid and well-formed for a context (R243, R409 KEYSET). -/
def pteOk (x : Context) (e : Nat) : Bool :=
  pteV e && bitsN e 29 28 == 0 && !(pteDb e && ptePfn e % 2 == 1) && frameOk (ptePfn e) &&
    x.keyLo ≤ pteKey e && pteKey e ≤ x.keyHi

/-- The PTE of a page as the tables stand, where every entry of the walk is valid and well-formed (R242, R243). -/
def walkPte (d : Dev) (x : Context) (va : Nat) : Option Nat := do
  let t ← d.leafTable x va
  let e := d.rawNat (t + 8 * bitsN va 23 16) 8
  if pteOk x e then some e else none

/-- Where the PTE of a page lies. -/
def pteAddr (d : Dev) (x : Context) (va : Nat) : Option Nat := (d.leafTable x va).map fun t => t + 8 * bitsN va 23 16

/-- The TLB entry that covers a page (R245). -/
def tlbFind (d : Dev) (c : CtxIx) (va : Nat) : Option TlbEntry :=
  d.tlb.find? fun t => t.ctx == c && t.span == va57 va / 2 ^ 24 && t.mask.getLsbD (bitsN va 23 16)

/-- The translation of a page: from the covering TLB entry, else from a walk (R245 to R247, log 9). -/
def pteOf (d : Dev) (c : CtxIx) (x : Context) (va : Nat) : Option Nat :=
  match d.tlbFind c va with
  | some t => some (t.attr.toNat + 2 + (t.base + bitsN va 23 16).toNat * 2 ^ 32)
  | none => d.walkPte x va

/-- The die as the translations of a core see it: the core's TLB, then its cluster's, then the die's (R246). -/
def via (d : Dev) (k : CoreIx) : Dev := { d with tlb := (d.core k).tlb ++ (d.cluster (clusterOf k)).tlb ++ d.tlb }

/-- The die as the translations of a cluster's engines see it (R246, log 9). -/
def viaCluster (d : Dev) (cl : ClusterIx) : Dev := { d with tlb := (d.cluster cl).tlb ++ d.tlb }

/-- An entry enters a TLB of some size; one that it displaces is a free choice (R246, log 9). -/
def tlbPut (size n : Nat) (e : TlbEntry) (ts : List TlbEntry) : List TlbEntry :=
  (e :: removeAt (Config.freeNat n) (ts.filter (· != e))).take size

/-- A span of a context that a core cannot translate without a walk (R246). -/
def tlbMisses (d : Dev) (k : CoreIx) (c : CtxIx) (va : Nat) : Bool :=
  (d.context c).isSome && canonical va && !inParamRange va && ((d.via k).tlbFind c va).isNone

/-- TLB entries leave every level of translation (R246, R247). -/
def tlbDrop (d : Dev) (gone : TlbEntry → Bool) : Dev :=
  let keep (ts : List TlbEntry) : List TlbEntry := ts.filter fun t => !gone t
  (({ d with tlb := keep d.tlb }).mapClusters fun c => { c with tlb := keep c.tlb }).mapCores fun _ c => { c with tlb := keep c.tlb }

/-- A core's access is translated: an entry found in its cluster's TLB or the die's enters those below (R246). -/
def tlbFill (d : Dev) (k : CoreIx) (c : CtxIx) (va : Nat) : Dev :=
  let find (ts : List TlbEntry) : Option TlbEntry := { d with tlb := ts }.tlbFind c va
  match find (d.core k).tlb, find (d.cluster (clusterOf k)).tlb, find d.tlb with
  | some _, _, _ => d
  | none, some e, _ => { d.modCore k fun x => { x with tlb := tlbPut 32 d.draw e x.tlb } with draw := d.draw + 1 }
  | none, none, some e =>
    { (d.modCore k fun x => { x with tlb := tlbPut 32 d.draw e x.tlb }).modCluster (clusterOf k) fun x =>
        { x with tlb := tlbPut 1024 (d.draw + 1) e x.tlb } with draw := d.draw + 2 }
  | none, none, none => d

/-- A miss takes a page walk, unless one for its span and context is under way already (R246). -/
def noteWalk (d : Dev) (c : CtxIx) (va : Nat) : Dev :=
  let span := va57 va / 2 ^ 24
  if d.walks.any fun w => w.ctx == c && w.va / 2 ^ 24 == span then d
  else { d with walks := d.walks ++ [{ ctx := c, va := va57 va, got := [] }] }

/-- An access near a core that no warp's instruction makes is translated: an entry found enters the levels below it, else the
access takes a walk (R246, log 9). -/
def walkFor (d : Dev) (k : CoreIx) (c : CtxIx) (va : Nat) : Dev :=
  if d.tlbMisses k c va then d.noteWalk c va else d.tlbFill k c va

/-- A frame of the capability table or of the counter pages (R243, R403). -/
def isReadOnlyFrame (pfn : Nat) : Bool := (0xFF000000 ≤ pfn && pfn < 0xFF000010) || pfn == 0xFF000020

end Dev

/-- What an access does to its bytes. -/
inductive Access where
  | read | write | both
  deriving DecidableEq, Repr

def Access.reads : Access → Bool
  | .write => false
  | _ => true

def Access.writes : Access → Bool
  | .read => false
  | _ => true

/-- A translation: the physical address, the key ID, and the region of a double-backed page. -/
structure Trans where
  pa : Nat
  key : BitVec 10
  region : Option (BitVec 12)
  deriving DecidableEq, Repr

namespace Dev

/-- The live copy of a task's parameter block that holds an address (R160). -/
def paramTask (d : Dev) (c : CtxIx) (va : Nat) : Option Task :=
  d.tasks.find? fun t => t.ctx == c && t.param != 0 && t.param ≤ va && va < t.param + 256

/-- Where a parameter copy lies (log 18). -/
def paramPa (c : CtxIx) (va : Nat) : Nat := 2 ^ 48 + c.toNat * 2 ^ 40 + va % 2 ^ 40

/-- A translation with its checks in the order of R243, giving the fault code of the first cause. `shadow` picks the other
backing of a double-backed page (R244). -/
def translate (d : Dev) (c : CtxIx) (va : Nat) (acc : Access) (shadow : Bool := false) : Except Nat Trans :=
  match d.context c with
  | none => .error Code.addrInvalid
  | some x =>
    if !canonical va then .error Code.addrInvalid
    else if inParamRange va then
      match d.paramTask c va with
      | none => .error Code.addrInvalid
      | some _ => if acc.writes then .error Code.accessPerm else .ok ⟨paramPa c va, 0, none⟩
    else match d.pteOf c x va with
      | none => .error Code.addrInvalid
      | some e =>
        let region := pteRegion e
        let flip := pteDb e && (x.flipped.contains region != shadow)
        let pfn := ptePfn e + (if flip then 1 else 0)
        if acc.writes && (pteX e || d.isProtected pfn) then .error Code.violation
        else if (acc.reads && !pteR e) || (acc.writes && (!pteW e || isReadOnlyFrame pfn)) then .error Code.accessPerm
        else if !pteRes e then .error Code.notres
        else .ok ⟨pfn * 0x10000 + va % 0x10000, BitVec.ofNat 10 (pteKey e), if pteDb e then some region else none⟩

/-- The frame that a page's address names for a fetch, if its entry is valid and well-formed (R242 to R244). -/
def frameAt (d : Dev) (c : CtxIx) (x : Context) (va : Nat) : Option Nat :=
  (d.pteOf c x va).map fun e => ptePfn e + (if pteDb e && x.flipped.contains (pteRegion e) then 1 else 0)

/-- Lines leave every instruction cache of the die (R135). -/
def dropLines (d : Dev) (gone : ILine → Bool) : Dev :=
  d.mapCores fun _ k => { k with icache := k.icache.filter fun l => !gone l }

/-- The executable page that holds an address, where a fetch may take its words (R44, R405), else the fault code. -/
def fetchPage (d : Dev) (c : CtxIx) (va : Nat) : Except Nat ExecPage :=
  match d.context c with
  | none => .error Code.fetchInvalid
  | some x =>
    if !canonical va || inParamRange va then .error Code.fetchInvalid
    else match d.pteOf c x va with
      | none => .error Code.fetchInvalid
      | some e =>
        let flip := pteDb e && x.flipped.contains (pteRegion e)
        let pfn := ptePfn e + (if flip then 1 else 0)
        match d.exec.find? fun p => p.frame == pfn with
        | none => .error Code.fetchInvalid
        | some p =>
          if !pteX e then .error Code.fetchInvalid
          else if !pteRes e then .error Code.fetchNotres
          else
            match d.exec.find? fun q => q.ctx == c && q.va == va57 va / 0x10000 * 0x10000 with
            | some q => .ok q
            | none => .ok p

/-- A valid program counter (R33). -/
def validPc (pc : Nat) : Bool := [4, 16, 28, 40, 52].contains (pc % 64)

/-- The next program counter (R33). -/
def nextPc (pc : DWord) : DWord := if pc.toNat % 64 = 52 then pc + 16 else pc + 12

/-- The check of a destination (R44, R123): the fault code, if it fails. -/
def fetchFault (d : Dev) (c : CtxIx) (pc : Nat) : Option Nat :=
  if !validPc pc then some Code.fetchInvalid
  else match d.fetchPage c pc with
    | .ok _ => none
    | .error e => some e

/-! ### Locations -/


/-- The region of a core's map unit that holds a byte of bank space, with the byte's offset in it (R225). -/
def regionAt (c : Core) (off : Nat) : Option (Nat × Region × Nat) :=
  (c.regions.zipIdx.find? fun r =>
      match c.allocs.find? fun a => a.id == r.1.alloc with
      | some a => a.start + r.1.woff ≤ off && off < a.start + r.1.woff + r.1.len
      | none => false).bind fun r =>
    (c.allocs.find? fun a => a.id == r.1.alloc).map fun a => (r.2, r.1, off - (a.start + r.1.woff))

/-- A byte at its home (R250). -/
def readLoc (d : Dev) (l : Loc) (key : BitVec 10) : Byte :=
  match l with
  | .phys pa => d.readPa key pa
  | .bank k off => Sparse.get (0 : Byte) (d.core k).sram off

/-- Marks a byte of a present granule dirty (R226). -/
def markDirty (r : Region) (o : Nat) : Region :=
  { r with granules := modifyAt (fun g => g.map fun m => m ||| (1#256 <<< (o % 256))) (o / 256) r.granules }

/-- Writes a byte at its home (R250). -/
def writeLoc (d : Dev) (l : Loc) (key : BitVec 10) (b : Byte) : Dev :=
  match l with
  | .phys pa => d.writePa key pa b
  | .bank k off =>
    (d.modCore k fun c =>
      let c := { c with sram := Sparse.set (0 : Byte) off b c.sram }
      match regionAt c off with
      | some (i, _, o) => { c with regions := modifyAt (markDirty · o) i c.regions }
      | none => c).trigger (.bank k (off / 128 * 128)) (Sparse.get (0 : Byte) (d.core k).sram off != b)

/-- The location `i` bytes above. -/
def locUp (l : Loc) (i : Nat) : Loc :=
  match l with
  | .phys pa => .phys (pa + i)
  | .bank k off => .bank k (off + i)

end Dev

end Sys2Proof.Machine
end

