-- ==== Sys2Proof/Machine/Trace.lean ====
section
/-! DEFINITION. Counts behind the counter pages (R393), places of code in records (R34, R363, R443), and the trace capture
(R386 to R389). -/

namespace Sys2Proof.Machine

namespace Dev

/-- The function of a context's partition (R408). -/
def partOf (d : Dev) (c : CtxIx) : FnIx :=
  match d.context c with
  | some x => ⟨min x.part 8, by omega⟩
  | none => 0

/-- Adds to a count of a function (R393). -/
def countFn (d : Dev) (f : FnIx) (entry n : Nat) : Dev :=
  d.modFn f fun g => { g with counts := Sparse.set 0 entry (Sparse.get (0 : DWord) g.counts entry + BitVec.ofNat 64 n) g.counts }

/-- Adds to a count of a context's partition (Table 17.6). -/
def count (d : Dev) (c : CtxIx) (entry n : Nat) : Dev := d.countFn (d.partOf c) entry n

/-- The executable page of a program counter, whatever its residency. -/
def execAt (d : Dev) (c : CtxIx) (pc : Nat) : Option ExecPage :=
  match d.exec.find? fun q => q.ctx == c && q.va == va57 pc / 0x10000 * 0x10000 with
  | some q => some q
  | none =>
    match d.fetchPage c pc with
    | .ok p => some p
    | .error _ => none

/-- Code object ID and offset as records name a program counter (R363, R443). -/
def codePlace (d : Dev) (c : CtxIx) (pc : Nat) : Word × Word :=
  match d.execAt c pc with
  | some p => (p.codeId, BitVec.ofInt 32 ((va57 pc : Int) - p.base))
  | none => (0, 0)

/-- The bytes of a slab as fetches read them (R32). -/
def codeBytes (d : Dev) (c : CtxIx) (va n : Nat) : List Byte :=
  match d.context c with
  | none => []
  | some x =>
    match d.pteOf c x va with
    | none => []
    | some e =>
      let pfn := ptePfn e + (if pteDb e && x.flipped.contains (pteRegion e) then 1 else 0)
      d.readBytes (BitVec.ofNat 10 (pteKey e)) (pfn * 0x10000 + va % 0x10000) n

/-- The safe-point ordinal of an instruction: the slab's map base and the STOPs in lower slots (R34). -/
def ordinalAt (d : Dev) (c : CtxIx) (pc : Nat) : Nat :=
  let slab := pc / 64 * 64
  let bs := d.codeBytes c slab 64
  let base := leNat (bs.take 4) / 16 % 2 ^ 20
  let slot := (pc % 64 - 4) / 12
  base + ((List.range slot).filter fun i => (leNat ((bs.drop (4 + 12 * i + 8)).take 4)).testBit 22).length

/-- A trace record (Table 17.2). -/
def traceBytes (d : Dev) (ty : Nat) (cl core slot : Nat) (taskser : Word) (payload : BitVec 128) : List Byte :=
  leBytes 8 d.ptpNs ++
    [BitVec.ofNat 8 ty, BitVec.ofNat 8 cl, BitVec.ofNat 8 core, BitVec.ofNat 8 slot] ++ leBytes 4 taskser.toNat ++
    leBytes 16 payload.toNat

/-- A store of the device's own: into a window it is posted on its port behind the earlier stores there, and dropped where
the port is down (R406, R407). -/
def sendTo (d : Dev) (key : BitVec 10) (pa : Nat) (bs : List Byte) : Dev :=
  match portOf pa with
  | none => d.writeBytes key pa bs
  | some p =>
    if !(d.port p).up then d
    else d.modPort p fun x =>
      { x with posted := x.posted ++ [{ by_ := none, ctx := 0, seq := 0, bytes := bs.zipIdx.map fun b => (pa + b.2, b.1) }] }

/-- The posted writes of a port reach home in order (R406). -/
def flushPort (d : Dev) (p : PortIx) : Dev :=
  let d := (d.port p).posted.foldl (fun d w => w.bytes.foldl (fun d b => d.writePa 0 b.1 b.2) d) d
  d.modPort p fun x => { x with posted := [], zreads := x.zreads.map fun z => (0, z.2) }

/-- Writes bytes through a context's tables, each 8-byte unit under its own translation; a failing unit is not written. A write to a
register is that of the context's function (R408). -/
def putVa (d : Dev) (c : CtxIx) (va : Nat) (bs : List Byte) : Dev :=
  ((List.range ((bs.length + 7) / 8)).foldl (fun d i =>
    match d.translate c (va + 8 * i) .write with
    | .ok t => d.sendTo t.key t.pa ((bs.drop (8 * i)).take 8)
    | .error _ => d) d).writtenBy (d.partOf c) d.regWrites.length

/-- Reads bytes through a context's tables. -/
def getVa (d : Dev) (c : CtxIx) (va n : Nat) : Option (List Byte) :=
  mapAll? (fun i => match d.translate c (va + i) .read with
    | .ok t => some (d.readPa t.key t.pa)
    | .error _ => none) (List.range n)

/-- Writes one record into the trace ring (R389). -/
def tracePut (d : Dev) (t : Trace) (rec : List Byte) : Dev :=
  let n := t.bytes / 32 - 1
  { d.putVa t.ctx (t.base.toNat + 32 + 32 * (t.written % n)) rec with trace := some { t with written := t.written + 1 } }

/-- The write index of the ring moves to the records that are at home, and a capture that has ended is over once it counts its last
one (R389). -/
def traceShow (d : Dev) : Dev :=
  match d.trace with
  | none => d
  | some t =>
    if (List.finRange 6).any fun p => (d.port p).posted.any fun w => w.by_.isNone then d
    else
      let d := if t.shown = t.written then d else d.putVa t.ctx t.base.toNat (leBytes 8 t.written)
      { d with trace := if t.stopPut && t.queue.isEmpty then none else some { t with shown := t.written } }

/-- Records that the ring has room for (R389). -/
def traceRoom (d : Dev) (t : Trace) : Nat :=
  let read := match d.getVa t.ctx (t.base.toNat + 8) 8 with
    | some bs => leNat bs
    | none => 0
  (t.bytes / 32 - 1) - (t.written + t.queue.length - read)

/-- Drops records, counting them (R389). -/
def traceDrop (d : Dev) (t : Trace) (n : Nat) : Dev :=
  { d with trace := some { t with dropped := t.dropped + n } }.count t.ctx 15 n

/-- The next record of a capture waits for the window stores of its task that have not been transmitted on the port of its
place (R406). -/
def traceHeld (d : Dev) (t : Trace) (ser : Word) : Bool :=
  match d.translate t.ctx (t.base.toNat + 32 + 32 * (t.written % (t.bytes / 32 - 1))) .write with
  | .error _ => false
  | .ok a => match portOf a.pa with
    | none => false
    | some p => d.warps.any fun x =>
      (d.task? x.2.2.task).any (fun y => y.taskser == ser) && x.2.2.stores.any fun s => s.win.any fun b => b.1 == p

/-- The records of a capture that have their places are written, in order, as far as none of them has to wait, and the write index
follows them. -/
def traceFlush : Nat → Dev → Dev
  | 0, d => d
  | n + 1, d =>
    match d.trace with
    | none => d
    | some t => match t.queue with
      | [] => d.traceShow
      | r :: rest => if d.traceHeld t r.1 then d.traceShow else traceFlush n (d.tracePut { t with queue := rest } r.2).traceShow

/-- Records take the next places of the ring (R387, R389). -/
def traceQueue (d : Dev) (t : Trace) (rs : List (Word × List Byte)) : Dev :=
  { d with trace := some { t with queue := t.queue ++ rs } }

/-- A LOST record takes a place before the next record, where there is room (R389). -/
def traceLost (d : Dev) (t : Trace) : Trace :=
  if t.dropped = 0 ∨ d.traceRoom t = 0 then t
  else { t with
    dropped := 0, queue := t.queue ++ [(0, d.traceBytes 0 0xFF 0xFF 0xFF 0 (BitVec.ofNat 128 t.dropped))] }

/-- Emits the records of one traced event while a capture runs that selects its type (R386 to R389). -/
def emit (d : Dev) (cl core slot : Nat) (taskser : Word) (recs : List (Nat × BitVec 128)) : Dev :=
  match d.trace, recs.head? with
  | some t, some (ty, _) =>
    if t.closed || !(ty == 0 || ty == 10 || ty == 11 || t.cats.getLsbD ty) then d
    else
      let t := d.traceLost t
      let d := if d.traceRoom t < recs.length then d.traceDrop t recs.length
        else d.traceQueue t (recs.map fun r => (taskser, d.traceBytes r.1 cl core slot taskser r.2))
      traceFlush (((d.trace.map fun x => x.queue.length).getD 0) + 1) d
  | _, _ => d

/-- The trace unit goes on: the STOP record of a capture that has ended takes its place once there is room, never dropped, and
what waits is written as far as it can be (R389, R406). -/
def traceOn (d : Dev) : Dev :=
  match d.trace with
  | none => d
  | some t =>
    let d :=
      if !t.closed || t.stopPut then d
      else
        let t := d.traceLost t
        if t.dropped ≠ 0 ∨ d.traceRoom t = 0 then { d with trace := some t }
        else d.traceQueue { t with stopPut := true }
          [(0, d.traceBytes 11 0xFF 0xFF 0xFF 0 (BitVec.ofNat 128 (t.written + t.queue.length)))]
    traceFlush (((d.trace.map fun x => x.queue.length).getD 0) + 1) d

/-- The FAULT record of an error that ends a context and that no warp's instruction raises (Table 17.3): the code object and the
offset that it names are not given. -/
def traceEnd (d : Dev) (code : Nat) : Dev :=
  let (n, d) := d.drawn
  d.emit 0xFF 0xFF 0xFF 0 [(4, BitVec.ofNat 128 (code + 2 * 2 ^ 8 + (Config.freeDWord n).toNat * 2 ^ 16))]

/-- A traced event of a warp. -/
def traceWarp (d : Dev) (k : CoreIx) (j : SlotIx) (w : Warp) (recs : List (Nat × BitVec 128)) : Dev :=
  let ser := match d.task? w.task with
    | some t => t.taskser
    | none => 0
  d.emit (clusterOf k).val (coreInCluster k) j.val ser recs

end Dev

end Sys2Proof.Machine
end

