-- ==== Sys2Proof/Machine/L1.lean ====
section
/-! DEFINITION. The L1 data cache (R228 to R232), the deferred write-back (R370, R371) and the settling of stores (R141,
R257). -/

namespace Sys2Proof.Machine

/-- The 64-bit form of a 57-bit address (R137). -/
def canon57 (va : Nat) : Nat := if va < 2 ^ 56 then va else va + (2 ^ 64 - 2 ^ 57)

namespace Core

/-- The banks in cache mode: the ways of the L1 (R217). -/
def ways (c : Core) : List (Fin 16) := (List.finRange 16).filter fun b => c.modes[b.val] == .cache

/-- The line of a context at an address (R228). -/
def l1Find (c : Core) (ctx : CtxIx) (va : Nat) : Option L1Line :=
  c.l1.find? fun l => l.ctx == ctx && l.va == va57 va / 128 * 128

/-- Stores a line as the most recently used. -/
def l1Put (c : Core) (l : L1Line) : Core :=
  { c with l1 := l :: c.l1.filter fun m => !(m.ctx == l.ctx && m.va == l.va) }

/-- The lines of a set (R228). -/
def l1Set (c : Core) (va : Nat) : List L1Line := c.l1.filter fun l => l.va / 128 % 128 == va / 128 % 128

/-- A way for an absent line: a free one, else that of the least recently used line of the set without a dirty byte, which
leaves (R230 step 3). -/
def l1Take (c : Core) (va : Nat) : Option (Fin 16 × Core) :=
  let set := c.l1Set va
  match c.ways.find? fun b => !(set.any fun l => l.way == b) with
  | some b => some (b, c)
  | none =>
    match set.reverse.find? fun l => l.dirty == 0 with
    | some v => some (v.way, { c with l1 := c.l1.filter fun m => !(m.ctx == v.ctx && m.va == v.va) })
    | none => none

end Core

/-- The bytes of a line that are valid and that a warp may read from it (R229). -/
def L1Line.readable (l : L1Line) (j : SlotIx) (task : Nat) (i : Fin 128) : Bool :=
  l.valid.getLsbD i.val &&
    (!l.dirty.getLsbD i.val || l.owner == (j, task) || (l.shared && l.owner.2 == task))

/-- A line without bytes. -/
def L1Line.empty (ctx : CtxIx) (va : Nat) (way : Fin 16) : L1Line :=
  { ctx := ctx, va := va, way := way, data := Vector.replicate 128 0, valid := 0, dirty := 0, owner := (0, 0),
    shared := false }

/-- The line clean (R231). -/
def L1Line.clean (l : L1Line) : L1Line := { l with dirty := 0, owner := (0, 0), shared := false }

/-- The line without its clean bytes; none when no byte is left (Table 9.6). -/
def L1Line.dropClean (l : L1Line) : Option L1Line := if l.dirty = 0 then none else some { l with valid := l.dirty }

/-- Why a write-back fails: the code and the failing line (R371). -/
structure WbFault where
  code : Nat
  va : Nat
  deriving DecidableEq, Repr

namespace Dev

/-- A line holds words of a statistics record of its context (R334, R335). -/
def inPool (d : Dev) (c : CtxIx) (va : Nat) : Bool :=
  (d.context c).any fun x =>
    let line := va57 va / 128 * 128
    va57 x.tsrbase ≤ line && line < va57 x.tsrbase + 256 * x.tsrcount

/-- A store is done (R141, R268, R341). -/
def storeDone (p : PStore) : Bool :=
  p.lines.isEmpty && p.flight.isEmpty && p.red.isEmpty && p.stat.isNone && !p.sent

/-- The records of a sampled memory instruction that ends now, TOTAL in network cycles, two to a cycle (R7, R390,
Table 17.4). -/
def traceSample (d : Dev) (k : CoreIx) (j : SlotIx) (w : Warp) : Option (BitVec 256 × Nat) → Dev
  | none => d
  | some x =>
    let total : BitVec 256 := BitVec.ofNat 256 (min (2 * (d.clock - x.2)) 0xFFFF) <<< 192
    let r := x.1 ||| total
    d.traceWarp k j w [(7, r.extractLsb' 0 128), (8, r.extractLsb' 128 128)]

/-- A core has issued one more memory instruction: whether it is sampled, one in 2^k while category 7 is traced (R390). -/
def countMem (d : Dev) (k : CoreIx) : Bool × Dev :=
  match d.trace with
  | none => (false, d)
  | some t =>
    if !t.cats.getLsbD 7 then (false, d)
    else
      let count := (d.core k).memCount + 1
      let due := 2 ^ t.k ≤ count
      (due, d.modCore k fun c => { c with memCount := if due then 0 else count })

/-- The sample of a memory instruction whose lanes have made accesses to some sectors, and the farthest level that they reach; the
parts that are timing of one implementation are free (R390, Table 17.4, log 91). -/
def sampleFrom (d : Dev) (w : Warp) (op : Nat) (lanes : List Lane) (sectors level : Nat) : (BitVec 256 × Nat) × Dev :=
  let place := d.codePlace w.ctx w.pc.toNat
  let m : Mask := lanes.foldl (fun m l => m ||| (1#32 <<< l.val)) 0
  let free (i : Nat) : Nat := Config.freeNat (d.draw + i)
  let last := (lanes[free 0 % lanes.length]?).elim 0 fun l => l.val
  let lo : BitVec 128 := BitVec.ofNat 128 (place.1.toNat + place.2.toNat * 2 ^ 32 + m.toNat * 2 ^ 64 + op * 2 ^ 96 +
    sectors * 2 ^ 104 + free 1 % 2 ^ 8 * 2 ^ 112 + last * 2 ^ 120 + level * 2 ^ 125)
  let hi : BitVec 128 := (Config.freeDWord (d.draw + 2)).setWidth 128
  ((hi ++ lo, d.clock), { d with draw := d.draw + 3 })

/-- The sample of a memory instruction that ends as it issues (R390). -/
def sampleNow (d : Dev) (k : CoreIx) (j : SlotIx) (w : Warp) (op : Nat) (lanes : List Lane) (sectors level : Nat) : Dev :=
  match d.countMem k with
  | (false, d) => d
  | (true, d) =>
    let s := d.sampleFrom w op lanes sectors level
    s.2.traceSample k j w (some s.1)

/-- Counts down the stores of a warp that are done, and writes the samples of those that were sampled (R141, R390). -/
def settle (d : Dev) (k : CoreIx) (j : SlotIx) : Dev :=
  match d.slot k j with
  | none => d
  | some w =>
    let (done, left) := w.stores.partition storeDone
    if done.isEmpty then d
    else
      let d := d.putWarp k j { w with stores := left, st := w.st - done.length }
      done.foldl (fun d p => d.traceSample k j w p.sample) d

/-- Marks a task as past its commit point (R359). -/
def commit (d : Dev) (task : Nat) : Dev := d.modTask task fun t => { t with committed := true }

/-- A warp past its commit point, by its own act. -/
def commitWarp (d : Dev) (k : CoreIx) (j : SlotIx) : Dev :=
  match d.slot k j with
  | some w => d.commit w.task
  | none => d

/-- The owner's stores no longer wait for a line; bytes of its earlier stores still on their way to the line are
superseded by the line's bytes. -/
def releaseLine (d : Dev) (k : CoreIx) (l : L1Line) (pa : Nat) : Dev :=
  match d.slot k l.owner.1 with
  | none => d
  | some w =>
    if w.task ≠ l.owner.2 then d
    else
      let covered (b : FlightByte) : Bool :=
        match b.loc with
        | .phys a => pa ≤ a && a < pa + 128 && l.dirty.getLsbD (a - pa)
        | .bank _ _ => false
      let d := d.putWarp k l.owner.1
        { w with stores := w.stores.map fun p =>
            { p with lines := p.lines.filter (· != l.va), flight := p.flight.filter (!covered ·) } }
      d.settle k l.owner.1

/-- Writes the dirty bytes of a line home under a translation (R370); clean bytes that it holds of a statistics record, of another
instant, leave it (R334). -/
def flushLine (d : Dev) (k : CoreIx) (l : L1Line) (t : Trans) : Dev :=
  let d := (List.finRange 128).foldl (fun d i =>
    if l.dirty.getLsbD i.val then d.writePa t.key (t.pa + i.val) l.data[i.val] else d) d
  let done (m : L1Line) : L1Line := if d.inPool l.ctx l.va then { m.clean with valid := m.dirty } else m.clean
  let d := d.modCore k fun c => { c with l1 := c.l1.map fun m => if m.ctx == l.ctx && m.va == l.va then done m else m }
  (d.commit l.owner.2).releaseLine k l t.pa

/-- Lines in ascending virtual address. -/
def insertLine (l : L1Line) : List L1Line → List L1Line
  | [] => [l]
  | m :: t => if l.va ≤ m.va then l :: m :: t else m :: insertLine l t

/-- The dirty lines of a core that a test selects, in ascending virtual address. -/
def dirtyLines (d : Dev) (k : CoreIx) (sel : L1Line → Bool) : List L1Line :=
  ((d.core k).l1.filter fun l => l.dirty != 0 && sel l).foldl (fun ls l => insertLine l ls) []

/-- The probe of lines of a core (R370): their translations, or the fault of the lowest that fails (R371). -/
def probe (d : Dev) (k : CoreIx) : List L1Line → Except WbFault (List (L1Line × Trans))
  | [] => .ok []
  | l :: t =>
    match (d.via k).translate l.ctx (canon57 l.va) .write with
    | .error c => .error ⟨c, canon57 l.va⟩
    | .ok x => match d.probe k t with
      | .ok xs => .ok ((l, x) :: xs)
      | .error e => .error e

/-- The two-step write-back of the selected lines of a core, in one step (R370). -/
def writeBack (d : Dev) (k : CoreIx) (sel : L1Line → Bool) : Except WbFault Dev :=
  match d.probe k (d.dirtyLines k sel) with
  | .error e => .error e
  | .ok xs => .ok (xs.foldl (fun d x => d.flushLine k x.1 x.2) d)

/-! ### The write step of a release, line by line -/

/-- Writes a line that a warp has probed home, where its task still holds bytes of it dirty (R370). -/
def writeProbed (d : Dev) (k : CoreIx) (w : Warp) (x : Nat × Nat × BitVec 10) : Dev :=
  match (d.core k).l1Find w.ctx x.1 with
  | some l => if l.dirty != 0 && l.owner.2 == w.task then d.flushLine k l ⟨x.2.1, x.2.2, none⟩ else d
  | none => d

/-- A line of a warp's write step whose frame has become protected since its probe: its write is refused (R43, R405, log 106). -/
def lateRefusal (d : Dev) (k : CoreIx) (w : Warp) (sel : Nat → Bool) : Option WbFault :=
  w.flushing.findSome? fun x =>
    if sel x.1 && ((d.core k).l1Find w.ctx x.1).any (fun l => l.dirty != 0 && l.owner.2 == w.task) &&
        paKind x.2.1 == .dram && d.isProtected (x.2.1 / 0x10000) then some ⟨Code.violation, canon57 x.1⟩ else none

/-- Some lines of a warp's write step reach home (R253 step 2, R370). -/
def writeLines (d : Dev) (k : CoreIx) (j : SlotIx) (sel : Nat → Bool) : Dev :=
  match d.slot k j with
  | none => d
  | some w =>
    let (now, later) := w.flushing.partition fun x => sel x.1
    now.foldl (fun d x => d.writeProbed k w x) (d.putWarp k j { w with flushing := later })

/-- A line of a context in a write step of its core is written before a store goes into it (R370). -/
def writeFirst (d : Dev) (k : CoreIx) (c : CtxIx) (line : Nat) : Dev :=
  (List.finRange 64).foldl (fun d j =>
    if (d.slot k j).any fun w => w.ctx == c && w.flushing.any fun x => x.1 == line then d.writeLines k j (· == line) else d) d

/-- The refusal that such a write meets. -/
def firstRefusal (d : Dev) (k : CoreIx) (c : CtxIx) (line : Nat) : Option WbFault :=
  (List.finRange 64).findSome? fun j => (d.slot k j).bind fun w => if w.ctx = c then d.lateRefusal k w (· == line) else none

/-- The write-back of a task's dirty lines on a core (R142, R231). -/
def writeBackTask (d : Dev) (k : CoreIx) (task : Nat) : Except WbFault Dev := d.writeBack k fun l => l.owner.2 == task

/-- The scope-recorded policy of a context (R231). -/
def recorded (d : Dev) (c : CtxIx) : Bool :=
  match d.context c with
  | some x => x.l1pol
  | none => false

/-- A release at CORE scope under scope-recorded lines: the task's lines are recorded CORE (Table 9.6). -/
def recordLines (d : Dev) (k : CoreIx) (task : Nat) : Dev :=
  d.modCore k fun x => { x with
    l1 := x.l1.map fun l => if l.dirty != 0 && l.owner.2 == task then { l with shared := true } else l }

/-- The acquire action of Table 9.6 (R254). -/
def acquire (d : Dev) (k : CoreIx) (c : CtxIx) (s : Scope) : Dev :=
  if d.recorded c && s == .core then d
  else d.modCore k fun x => { x with l1 := x.l1.filterMap fun l => if l.ctx == c then l.dropClean else some l }

/-- Discards the dirty bytes that a test selects, with their lines (R232). -/
def discardDirty (d : Dev) (k : CoreIx) (sel : L1Line → Bool) : Dev :=
  d.modCore k fun c => { c with l1 := c.l1.filter fun l => !(l.dirty != 0 && sel l) }

/-- A store of bytes to one line (R230): the lines it leaves dirty, and the bytes that go home at once. -/
def storeLine (d : Dev) (k : CoreIx) (j : SlotIx) (w : Warp) (va : Nat) (t : Trans) (bs : List (Nat × Byte)) :
    Except WbFault (Dev × Option Nat × List FlightByte) :=
  let line := va57 va / 128 * 128
  let flight := bs.map fun b => { loc := .phys (t.pa / 128 * 128 + b.1), key := t.key, val := b.2 : FlightByte }
  let late := d.firstRefusal k w.ctx line
  let d := d.writeFirst k w.ctx line
  let d' : Except WbFault Dev :=
    match late, (d.core k).l1Find w.ctx line with
    | some e, _ => .error e
    | none, some l =>
      if l.dirty != 0 && l.owner != (j, w.task) then d.writeBack k fun m => m.ctx == l.ctx && m.va == l.va else .ok d
    | none, none => .ok d
  match d' with
  | .error e => .error e
  | .ok d =>
    let put (c : Core) (l : L1Line) : Core :=
      c.l1Put <| bs.foldl (fun l b =>
        { l with
          data := l.data.setIfInBounds b.1 b.2
          valid := l.valid ||| (1#128 <<< b.1)
          dirty := l.dirty ||| (1#128 <<< b.1) }) { l with owner := (j, w.task), shared := false }
    match (d.core k).l1Find w.ctx line with
    | some l => .ok (d.modCore k fun c => put c l, some line, [])
    | none =>
      match (d.core k).l1Take line with
      | some (way, c) => .ok (d.putCore k (put c (.empty w.ctx line way)), some line, [])
      | none => .ok (d, none, flight)

/-- A fill of a 32-byte sector after its bytes were read from home (R229): nothing where a byte of the line is dirty or no
way is free of dirty lines; the line becomes the most recently used. The other bytes that the line holds of a statistics record
are read again with it, so that the line holds them as of one instant (R334). -/
def fillSector (d : Dev) (k : CoreIx) (c : CtxIx) (f : FillSector) : Dev :=
  let line := va57 f.va / 128 * 128
  let pool := d.inPool c f.va
  let put (x : Core) (l : L1Line) : Core :=
    x.l1Put <| (List.range 128).foldl (fun l o =>
      if o / 32 = f.va % 128 / 32 ∨ (pool ∧ l.valid.getLsbD o) then
        { l with
          data := l.data.setIfInBounds o (d.readPa f.key (f.pa / 128 * 128 + o))
          valid := l.valid ||| (1#128 <<< o) }
      else l) l
  match (d.core k).l1Find c line with
  | some l => if l.dirty != 0 then d else d.putCore k (put (d.core k) l)
  | none =>
    match (d.core k).l1Take line with
    | some (way, x) => d.putCore k (put x (.empty c line way))
    | none => d

/-- A sector of a context enters a core's L1 though no load asks for it: a read of it may return what its home held at any instant
since the warp's last acquire (R255, log 8). -/
def fillAhead (d : Dev) (k : CoreIx) (c : CtxIx) (va : Nat) : Dev :=
  match (d.via k).translate c va .read with
  | .error _ => d
  | .ok t => match paKind t.pa with
    | .dram | .param => d.fillSector k c { va := va / 32 * 32, pa := t.pa / 32 * 32, key := t.key }
    | _ => d

/-- Makes a line the most recently used (R230 step 3). -/
def touchLine (d : Dev) (k : CoreIx) (c : CtxIx) (va : Nat) : Dev :=
  match (d.core k).l1Find c va with
  | some l => d.modCore k fun x => x.l1Put l
  | none => d

end Dev

end Sys2Proof.Machine
end

