-- ==== Sys2Proof/Machine/Reads.lean ====
section
/-! DEFINITION. What reads return and when they are performed: the bytes of a plain read (R229, R255), the order of a warp's
accesses to its bytes, to a bank and to a slice (R140, R219, R239, R256, R268), and the reads that are performed before their load
completes (R255, R259, log 8). -/

namespace Sys2Proof.Machine

/-- The L2 slice that is home to a physical address (R233). -/
def sliceOf (pa : Nat) : Nat :=
  bitsN pa 13 7 ^^^ bitsN pa 20 14 ^^^ bitsN pa 27 21 ^^^ bitsN pa 34 28 ^^^ bitsN pa 36 35

namespace Dev

/-! ### The bytes of a plain read -/

/-- The warp's own latest write to a global byte that has not reached home, if there is one (R255 case 1). -/
def ownByte (d : Dev) (k : CoreIx) (j : SlotIx) (w : Warp) (va : Nat) (loc : Loc) : Option Byte :=
  let o : Fin 128 := ⟨va % 128, Nat.mod_lt _ (by decide)⟩
  let inL1 := match (d.core k).l1Find w.ctx va with
    | some l => if l.dirty.getLsbD o.val && l.owner == (j, w.task) then some l.data[o.val] else none
    | none => none
  match inL1 with
  | some b => some b
  | none => w.stores.reverse.findSome? fun p => (p.flight.reverse.find? fun b => b.loc == loc).map (·.val)

/-- A dirty byte of the L1 that a warp of the owner's task may read (R229, R255 case 2). -/
def coreByte (d : Dev) (k : CoreIx) (j : SlotIx) (w : Warp) (va : Nat) : Option Byte :=
  let o : Fin 128 := ⟨va % 128, Nat.mod_lt _ (by decide)⟩
  ((d.core k).l1Find w.ctx va).bind fun l =>
    if l.dirty.getLsbD o.val && l.readable j w.task o then some l.data[o.val] else none

/-- A byte that the warp sees away from its home (R251, R255 cases 1 and 2). -/
def awayByte (d : Dev) (k : CoreIx) (j : SlotIx) (w : Warp) (va : Nat) (loc : Loc) : Option Byte :=
  (d.ownByte k j w va loc).or (d.coreByte k j w va)

/-- A clean byte of the L1 (R229). -/
def cleanByte (d : Dev) (k : CoreIx) (w : Warp) (va : Nat) : Option Byte :=
  let o : Fin 128 := ⟨va % 128, Nat.mod_lt _ (by decide)⟩
  ((d.core k).l1Find w.ctx va).bind fun l =>
    if l.valid.getLsbD o.val && !l.dirty.getLsbD o.val then some l.data[o.val] else none

/-- A byte that a plain read takes without reading its home. -/
def seesHere (d : Dev) (k : CoreIx) (j : SlotIx) (w : Warp) (va : Nat) (loc : Loc) : Bool :=
  (d.awayByte k j w va loc).isSome || (d.cleanByte k w va).isSome

/-- A byte of a plain read (R229, R255): one that the warp sees away from home, else from the L1 where it is valid there and may be
taken, else from home. -/
def plainByte (d : Dev) (k : CoreIx) (j : SlotIx) (w : Warp) (va : Nat) (loc : Loc) (key : BitVec 10) (l1 : Bool := true) : Byte :=
  match d.awayByte k j w va loc with
  | some b => b
  | none => (if l1 then d.cleanByte k w va else none).getD (d.readLoc loc key)

/-- Two lanes of a load read words of one line of statistics records, so that they are read at one instant (R334, R347). -/
def lineMates (d : Dev) (w : Warp) (l m : LaneLoad) : Bool :=
  l.l1 && m.l1 && va57 l.va / 128 == va57 m.va / 128 && d.inPool w.ctx l.va

/-- A lane's bytes are all here. -/
def laneHere (d : Dev) (k : CoreIx) (j : SlotIx) (w : Warp) (l : LaneLoad) : Bool :=
  match l.bytes with
  | .home (.phys pa) _ :: _ => (List.range l.bytes.length).all fun i => d.seesHere k j w (l.va + i) (.phys (pa + i))
  | _ => true

/-- A lane that reads together with others may take clean bytes of the L1: where it reads words of statistics records, only if all of
them are here (R334). -/
def takesL1 (d : Dev) (k : CoreIx) (j : SlotIx) (w : Warp) (ls : List LaneLoad) (l : LaneLoad) : Bool :=
  !d.inPool w.ctx l.va || (l :: ls.filter (d.lineMates w l)).all (d.laneHere k j w)

/-- What a lane of an outstanding load reads now, together with the lanes `ls` of the load. -/
def laneNow (d : Dev) (k : CoreIx) (j : SlotIx) (w : Warp) (ls : List LaneLoad) (l : LaneLoad) : List Byte :=
  match l.bytes with
  | .home (.phys pa) key :: _ =>
    let l1 := d.takesL1 k j w ls l
    (List.range l.bytes.length).map fun i =>
      if l.l1 then d.plainByte k j w (l.va + i) (.phys (pa + i)) key l1 else d.readPa key (pa + i)
  | bs => bs.map fun b => match b with
    | .held x => x
    | .home loc key => d.readLoc loc key

/-- The lane with its bytes as they read now. -/
def laneHeld (d : Dev) (k : CoreIx) (j : SlotIx) (w : Warp) (ls : List LaneLoad) (l : LaneLoad) : LaneLoad :=
  { l with bytes := (d.laneNow k j w ls l).map .held }

/-- The clean bytes of statistics records leave the lines of a core that some lanes have read past (R255, R334). -/
def dropPassed (d : Dev) (k : CoreIx) (j : SlotIx) (w : Warp) (ls : List LaneLoad) : Dev :=
  let lines := ((ls.filter fun l => l.l1 && !d.takesL1 k j w ls l).map fun l => va57 l.va / 128 * 128).eraseDups
  if lines.isEmpty then d
  else d.modCore k fun c => { c with
    l1 := c.l1.filterMap fun l => if l.ctx == w.ctx && lines.contains l.va then l.dropClean else some l }

/-! ### Copies of bytes written past the L1 -/

/-- Whether a line of the L1 may hold the line of a physical address. -/
def lineHolds (d : Dev) (k : CoreIx) (l : L1Line) (pa : Nat) : Bool :=
  match (d.via k).translate l.ctx (canon57 l.va) .read with
  | .ok t => t.pa / 128 == pa / 128
  | .error _ => true

/-- The clean copies of bytes in a core's L1 are changed: a written one takes its value, or it leaves (R268, R341). -/
def changeCopies (d : Dev) (k : CoreIx) (bs : List (Loc × Option Byte)) : Dev :=
  let one (l : L1Line) (x : Loc × Option Byte) : L1Line :=
    match x.1 with
    | .bank _ _ => l
    | .phys pa =>
      let o : Fin 128 := ⟨pa % 128, Nat.mod_lt _ (by decide)⟩
      if !l.valid.getLsbD o.val || l.dirty.getLsbD o.val || !d.lineHolds k l pa then l
      else match x.2 with
        | some b => { l with data := l.data.set o.val b }
        | none => { l with valid := l.valid &&& ~~~(1#128 <<< o.val) }
  if bs.isEmpty || (d.core k).l1.isEmpty then d
  else d.modCore k fun c => { c with l1 := c.l1.map fun l => bs.foldl one l }

/-- The clean copies of bytes leave a core's L1 (R268). -/
def dropCopies (d : Dev) (k : CoreIx) (ls : List Loc) : Dev := d.changeCopies k (ls.map fun l => (l, none))

/-! ### Order of accesses -/

/-- The bank of a location, if it lies in bank space. -/
def bankOf : Loc → Option (CoreIx × Nat)
  | .bank k off => some (k, off / 0x4000)
  | .phys _ => none

/-- The bytes of an atomic operation. -/
def atomBytes (a : AtomLane) : List Loc := (List.range a.bytes).map fun i => locUp a.loc i

/-- The locations that a lane of a load still reads. -/
def laneLocs (l : LaneLoad) : List Loc :=
  l.bytes.filterMap fun b => match b with
    | .home loc _ => some loc
    | .held _ => none

/-- The locations that an outstanding load still reads. -/
def loadLocs (p : PLoad) : List Loc := p.lanes.flatMap laneLocs ++ p.atom.flatMap atomBytes

/-- Those that it reads past the L1. -/
def pastLocs (p : PLoad) : List Loc := (p.lanes.filter (!·.l1)).flatMap laneLocs ++ p.atom.flatMap atomBytes

/-- The locations that an outstanding store has still to write. -/
def storeLocs (p : PStore) : List Loc := p.flight.map (·.loc) ++ p.red.flatMap atomBytes

/-- The banks of a list of locations. -/
def banksOf (ls : List Loc) : List (CoreIx × Nat) := (ls.filterMap bankOf).eraseDups

/-- An access is blocked by an earlier one outstanding to a bank it names: of its warp, or from its core to another core's
bank (R219, R256). -/
def bankBlocked (d : Dev) (k : CoreIx) (j : SlotIx) (seq : Nat) (ls : List Loc) : Bool :=
  let banks := banksOf ls
  !banks.isEmpty &&
    d.warps.any fun x =>
      x.1 == k &&
        (let touches (seq' : Nat) (ls' : List Loc) : Bool :=
          seq' < seq && (banksOf ls').any fun b => banks.contains b && (x.2.1 == j || b.1 != k)
        (x.2.2.loads.any fun p => touches p.seq (loadLocs p)) ||
          (x.2.2.stores.any fun p => touches p.seq (storeLocs p)))

/-- The slices that accesses past the L1 go to. -/
def slicesOf (ls : List Loc) : List Nat :=
  (ls.filterMap fun l => match l with
    | .phys pa => if paKind pa = .dram then some (sliceOf pa) else none
    | .bank _ _ => none).eraseDups

/-- A core's earlier access past the L1 is still on its way to the same slice: messages of one class from one port to another
arrive in the order sent (R239, log 15). -/
def sliceBlocked (d : Dev) (k : CoreIx) (seq : Nat) (ls : List Loc) : Bool :=
  let slices := slicesOf ls
  !slices.isEmpty &&
    d.warps.any fun x =>
      x.1 == k &&
        (let touches (seq' : Nat) (ls' : List Loc) : Bool := seq' < seq && (slicesOf ls').any slices.contains
        (x.2.2.loads.any fun p => touches p.seq (pastLocs p)) ||
          (x.2.2.stores.any fun p => touches p.seq (storeLocs p)))

/-- The ports of a list of locations. -/
def portsOf (ls : List Loc) : List PortIx :=
  (ls.filterMap fun l => match l with
    | .phys pa => portOf pa
    | .bank _ _ => none).eraseDups

/-- The warp's earlier store to a port has not been transmitted: requests to one port leave in issue order (R406). -/
def portBlocked (w : Warp) (seq : Nat) (ls : List Loc) : Bool :=
  let ports := portsOf ls
  !ports.isEmpty && w.stores.any fun p => p.seq < seq && (portsOf (storeLocs p)).any ports.contains

/-- An earlier outstanding ATOM or RED of the warp touches one of these bytes (R268). -/
def atomBlocked (w : Warp) (seq : Nat) (ls : List Loc) : Bool :=
  let touches (as : List AtomLane) : Bool := as.any fun a => (atomBytes a).any ls.contains
  (w.loads.any fun p => p.seq < seq && touches p.atom) || w.stores.any fun p => p.seq < seq && touches p.red

/-- A byte is still to be written, or performed on, by an earlier outstanding access of the warp (R140, R268). -/
def byteBlocked (w : Warp) (seq : Nat) (ls : List Loc) : Bool :=
  (w.stores.any fun p => p.seq < seq && (storeLocs p).any ls.contains) || atomBlocked w seq ls

/-- An earlier access of the warp to the bytes of a lane comes first: one that its read does not see away from home (R140,
R255, R268). -/
def laneBlocked (w : Warp) (p : PLoad) (l : LaneLoad) : Bool :=
  if l.l1 then atomBlocked w p.seq (laneLocs l) else byteBlocked w p.seq (laneLocs l)

/-- What holds back the reads of some lanes of a load: an access to their bytes, their bank, their slice or their port that
comes first, or an earlier plain read of the warp (R140, R219, R239, R255, R256, R268, R406). -/
def readBlocked (d : Dev) (k : CoreIx) (j : SlotIx) (w : Warp) (p : PLoad) (lanes : List LaneLoad) : Bool :=
  let ls := lanes.flatMap laneLocs
  d.bankBlocked k j p.seq ls || lanes.any (laneBlocked w p) ||
    d.sliceBlocked k p.seq ((lanes.filter (!·.l1)).flatMap laneLocs) || portBlocked w p.seq ls ||
    (p.plain && w.loads.any fun q => q.plain && q.seq < p.seq && (loadLocs q).any ls.contains)

/-! ### Reads before completion -/

/-- What holds back operations of an ATOM: an access to their bytes, their bank, their slice or their port that comes first
(R140, R219, R239, R256, R268, R406). -/
def atomHeld (d : Dev) (k : CoreIx) (j : SlotIx) (w : Warp) (p : PLoad) (as : List AtomLane) : Bool :=
  let ls := as.flatMap atomBytes
  d.bankBlocked k j p.seq ls || d.sliceBlocked k p.seq ls || byteBlocked w p.seq ls || portBlocked w p.seq ls

/-- Whether an outstanding load may be performed as a whole. -/
def loadReady (d : Dev) (k : CoreIx) (j : SlotIx) (w : Warp) (p : PLoad) : Bool :=
  !d.readBlocked k j w p p.lanes && !d.atomHeld k j w p p.atom

/-- Pushes the posted writes of the ports of some locations home, before a read behind them (R406). -/
def pushPorts (d : Dev) (ls : List Loc) : Dev := (portsOf ls).foldl flushPort d

/-- The lanes of a load that are read where those of a test are: with them those that share a line of statistics records, unless
an earlier access comes first (R334). -/
def readWith (d : Dev) (w : Warp) (p : PLoad) (hit : LaneLoad → Bool) (l : LaneLoad) : Bool :=
  hit l || (!laneBlocked w p l && p.lanes.any fun m => hit m && d.lineMates w l m)

/-- The loads of a warp, the latest first, with the lanes that touch some bytes read now; an earlier plain read of the bytes
that such a lane reads comes with it (R140, R255). -/
def captureFrom (d : Dev) (k : CoreIx) (j : SlotIx) (w : Warp) : List PLoad → List Loc → List PLoad
  | [], _ => []
  | p :: t, ls =>
    let hit (l : LaneLoad) : Bool := (laneLocs l).any ls.contains
    let now := p.lanes.filter (d.readWith w p hit)
    { p with lanes := p.lanes.map fun l => if d.readWith w p hit l then d.laneHeld k j w now l else l } ::
      d.captureFrom k j w t (if p.plain then ls ++ (p.lanes.filter hit).flatMap laneLocs else ls)

/-- The warp's earlier loads read the lanes that touch these bytes now, before a later access of the warp writes them or has
their values (R140, R255). -/
def capture (d : Dev) (k : CoreIx) (j : SlotIx) (ls : List Loc) : Dev :=
  match d.slot k j with
  | none => d
  | some w =>
    if !(w.loads.any fun p => (loadLocs p).any ls.contains) then d
    else
      let d := d.pushPorts ls
      (d.modWarp k j fun w => { w with loads := (d.captureFrom k j w w.loads.reverse ls).reverse }).dropPassed k j w
        (w.loads.flatMap (·.lanes))

/-- A lane that `capture` would read waits for an earlier access of the warp to its bytes (R140, R268). -/
def captureBlocked (w : Warp) : List PLoad → List Loc → Bool
  | [], _ => false
  | p :: t, ls =>
    let hit := p.lanes.filter fun l => (laneLocs l).any ls.contains
    let locs := hit.flatMap laneLocs
    hit.any (laneBlocked w p) || captureBlocked w t (if p.plain then ls ++ locs else ls)

/-- An access that writes these bytes waits: an outstanding ATOM or RED of the warp touches them, or a load that has to read
first is held back (R140, R268). -/
def writeHeld (w : Warp) (ls : List Loc) : Bool :=
  (w.loads.any fun p => (p.atom.flatMap atomBytes).any ls.contains) ||
    (w.stores.any fun p => (p.red.flatMap atomBytes).any ls.contains) || captureBlocked w w.loads.reverse ls

/-- A lane of an outstanding load is read now, where nothing holds it back, and with it those that share a line of statistics
records (R255, R259, R334, log 8). -/
def readLane (d : Dev) (k : CoreIx) (j : SlotIx) (i n : Nat) : Dev :=
  match d.slot k j with
  | none => d
  | some w =>
    match w.loads[i]? with
    | none => d
    | some p =>
      match p.lanes[n]? with
      | none => d
      | some l =>
        let now := p.lanes.filter fun m => m == l || d.lineMates w l m
        if d.readBlocked k j w p now then d
        else
          let d := d.pushPorts (now.flatMap laneLocs)
          (d.modWarp k j fun w => { w with
            loads := modifyAt (fun p => { p with lanes := p.lanes.map fun m => if now.contains m then d.laneHeld k j w now m else m })
              i w.loads }).dropPassed k j w now

end Dev

end Sys2Proof.Machine
end

