-- ==== Sys2Proof/Machine/Scratch.lean ====
section
/-! DEFINITION. Scratchpad: allocations in bank space (R218), windows (R137, R219), and regions of the region map unit (R225 to
R227). -/

namespace Sys2Proof.Machine

namespace Core

/-- A granule of bank space is free for an allocation (R218). -/
def granuleFree (c : Core) (g : Nat) : Bool :=
  (if h : g / 64 < 16 then c.modes[g / 64] == .scratchpad else false) &&
    !(c.allocs.any fun a => a.start / 256 ≤ g && g < (a.start + a.bytes) / 256)

/-- The places where an allocation fits (R218). -/
def fits (c : Core) (bytes : Nat) : List Nat :=
  let n := bytes / 256
  let step := if bytes % 0x4000 = 0 then 64 else 1
  ((List.range 1024).filter fun g =>
    g % step == 0 && g + n ≤ 1024 && (List.range n).all fun i => c.granuleFree (g + i)).map (· * 256)

/-- A place where an allocation fits (R218); which one is a free choice (log 31). -/
def carve (c : Core) (bytes pick : Nat) : Option Nat :=
  let ps := c.fits bytes
  ps[pick % ps.length]?

/-- Makes an allocation; its bytes read as zero (R218). -/
def allocate (c : Core) (a : Alloc) : Core :=
  { c with allocs := c.allocs ++ [a], sram := Sparse.dropRange a.start (a.start + a.bytes) c.sram }

/-- The banks of a circular buffer. -/
def bufBanks (b : Buffer) : List Nat :=
  (List.range b.banks).map fun i => b.start / 0x4000 + i

/-- Removes a buffer; its banks return to scratchpad mode (R222, R224). -/
def removeBuf (c : Core) (id : Nat) : Core :=
  match c.bufs.find? fun b => b.id == id with
  | none => c
  | some b =>
    { c with
      bufs := c.bufs.filter fun x => x.id != id
      modes := (bufBanks b).foldl (fun m i => m.setIfInBounds i .scratchpad) c.modes }

/-- Releases an allocation with its buffers and regions, without write-back (R167, R224, R227). -/
def releaseAlloc (c : Core) (id : Nat) : Core :=
  let c := (c.bufs.filter fun b => b.alloc == id).foldl (fun c b => c.removeBuf b.id) c
  { c with
    allocs := c.allocs.filter fun a => a.id != id
    regions := c.regions.filter fun r => r.alloc != id }

end Core

/-- Who holds the allocation of a warp's window (R219). -/
def Warp.owner (w : Warp) : Owner :=
  match w.band with
  | some b => .band b
  | none => .task w.task

namespace Dev

/-- The allocation of an owner on a core. -/
def allocOf (d : Dev) (k : CoreIx) (o : Owner) : Option Alloc := (d.core k).allocs.find? fun a => a.owner == o

/-- Releases the allocations of an owner on every core of a cluster (R167, R174). -/
def releaseOwner (d : Dev) (cl : ClusterIx) (o : Owner) : Dev :=
  d.mapCores fun k c =>
    if clusterOf k = cl then (c.allocs.filter fun a => a.owner == o).foldl (fun c a => c.releaseAlloc a.id) c else c

/-- The core that a scratchpad address names (R137). -/
def coreField (k : CoreIx) (addr : Nat) : Option CoreIx :=
  let f := bitsN addr 23 18
  if f = 63 then some k
  else if h : f < 48 then some (coreOf (clusterOf k) ⟨f, h⟩)
  else none

/-- The allocation and the offset in it that the `n` bytes of a scratchpad address name for a warp (R137, R219). -/
def scratchRef (d : Dev) (k : CoreIx) (w : Warp) (addr : Int) (n : Nat) : Option LocalRef :=
  if addr < 0 ∨ 2 ^ 24 ≤ addr then none
  else
    let a := addr.toNat
    match coreField k a with
    | none => none
    | some c =>
      match d.allocOf c w.owner with
      | none => none
      | some x =>
        let o := a % 2 ^ 18
        if o + n ≤ x.bytes then some { core := c, alloc := x.id, off := o, addr := a } else none

/-- The byte of bank space of a resolved place, while its allocation lives. -/
def refLoc (d : Dev) (r : LocalRef) : Option Loc :=
  ((d.core r.core).allocs.find? fun a => a.id == r.alloc).map fun a => .bank r.core (a.start + r.off)

/-! ### Regions -/

/-- The 256 bytes of a granule as a fill reads them (R226, R255, log 32): what the warp that touches it sees away from home, and the
home's bytes; where another agent touches it, the home's. -/
def fillBytes (d : Dev) (by_ : Option (CoreIx × SlotIx)) (va : Nat) (t : Trans) : List Byte :=
  match by_.bind fun x => (d.slot x.1 x.2).map fun w => (x, w) with
  | none => d.readBytes t.key t.pa 256
  | some (x, w) => (List.range 256).map fun i => d.plainByte x.1 x.2 w (va + i) (.phys (t.pa + i)) t.key false

/-- The device before a fill reads a granule: the warp's earlier loads of its bytes read first, clean copies older than the
home's bytes leave its core's L1, and the posted writes of its port reach home (R255, R406). -/
def beforeFill (d : Dev) (by_ : Option (CoreIx × SlotIx)) (t : Trans) : Dev :=
  let ls := (List.range 256).map fun i => Loc.phys (t.pa + i)
  (match by_ with
    | some x => (d.capture x.1 x.2 ls).dropCopies x.1 ls
    | none => d).pushPorts [.phys t.pa]

/-- A fill for a warp waits for its outstanding ATOM or RED on the granule's bytes, and for a load of them that such an
operation holds back (R268). -/
def fillWaits (d : Dev) (by_ : Option (CoreIx × SlotIx)) (t : Trans) : Bool :=
  let ls := (List.range 256).map fun i => Loc.phys (t.pa + i)
  (by_.bind fun x => d.slot x.1 x.2).any fun w => atomBlocked w d.seq ls || captureBlocked w w.loads.reverse ls

/-- Fills the absent granules of the regions under `n` bytes of bank space (R226, R407): the device after the fills, or the
fault code of the first that fails. -/
def touchRegion (d : Dev) (by_ : Option (CoreIx × SlotIx)) (k : CoreIx) (off n : Nat) : Except Nat Dev :=
  let granules := (List.range ((off % 256 + n + 255) / 256)).map fun i => off / 256 * 256 + 256 * i
  granules.foldlM (fun d g =>
    match regionAt (d.core k) g with
    | none => .ok d
    | some (i, r, o) =>
      match r.granules[o / 256]? with
      | some none =>
        match (d.via k).translate r.ctx (r.va + o) .read with
        | .error c => .error c
        | .ok t =>
          if (portOf t.pa).any fun p => !(d.port p).up then .error Code.link
          else if d.fillWaits by_ t then .error Code.atomic
          else
            let d := d.beforeFill by_ t
            let bs := d.fillBytes by_ (r.va + o) t
            .ok (d.modCore k fun c =>
              { c with
                sram := Sparse.setList (0 : Byte) g bs c.sram
                regions := modifyAt (fun r => { r with granules := modifyAt (fun _ => some 0) (o / 256) r.granules }) i
                  c.regions })
      | _ => .ok d) d

/-- The task of an owner in a cluster (R165). -/
def ownerTask (d : Dev) (cl : ClusterIx) (o : Owner) : Option Nat :=
  match o with
  | .task t => some t
  | .band b | .reserved b => ((d.cluster cl).bands.find? fun x => x.id == b).map (·.task)

/-- The dirty granules of a region: their number, address, bank offset and mask. -/
def dirtyGranules (c : Core) (r : Region) : List (Nat × Nat × BitVec 256) :=
  let start := match c.allocs.find? fun a => a.id == r.alloc with
    | some a => a.start + r.woff
    | none => 0
  r.granules.zipIdx.filterMap fun g => match g.1 with
    | some m => if m = 0 then none else some (r.va + 256 * g.2, start + 256 * g.2, m)
    | none => none

/-- The dirty bytes of a granule go to their home, those of a window behind the earlier stores of its port (R227, R406). -/
def sendGranule (d : Dev) (k : CoreIx) (j : SlotIx) (c : CtxIx) (t : Trans) (at_ : Nat) (m : BitVec 256) : Dev :=
  let bs := (List.range 256).filterMap fun i =>
    if m.getLsbD i then some (t.pa + i, Sparse.get (0 : Byte) (d.core k).sram (at_ + i)) else none
  match portOf t.pa with
  | none => bs.foldl (fun d b => d.writePa t.key b.1 b.2) d
  | some p =>
    (d.modPort p fun x => { x with posted := x.posted ++ [{ by_ := some (k, j), ctx := c, seq := d.seq, bytes := bs }] }).modWarp k j fun w =>
      { w with ports := (w.ports ++ [p]).eraseDups }

/-- The probe of a region's granule for writing, on a port that is up (R370, R407). -/
def probeGranule (d : Dev) (k : CoreIx) (c : CtxIx) (va : Nat) : Except Nat Trans :=
  match (d.via k).translate c va .write with
  | .error e => .error e
  | .ok t => if (portOf t.pa).any fun p => !(d.port p).up then .error Code.link else .ok t

/-- The two-step write-back of the regions of a core that a test selects, for the warp of a slot (R227, R370); a failure names the
lowest dirty line that fails (R371). -/
def writeBackRegions (d : Dev) (k : CoreIx) (j : SlotIx) (sel : Region → Bool) : Except WbFault Dev :=
  let rs := (d.core k).regions.filter sel
  let gs := rs.flatMap fun r => (dirtyGranules (d.core k) r).map fun g => (r.ctx, g)
  match mapAll? (fun g => match d.probeGranule k g.1 g.2.1 with
      | .ok t => some (g, t)
      | .error _ => none) gs with
  | some xs =>
    let d := xs.foldl (fun d x => d.sendGranule k j x.1.1 x.2 x.1.2.2.1 x.1.2.2.2) d
    let owners := if gs.isEmpty then [] else rs.map (·.owner)
    let d := owners.foldl (fun d o => match d.ownerTask (clusterOf k) o with
      | some t => d.commit t
      | none => d) d
    .ok (d.modCore k fun c => { c with
      regions := c.regions.map fun r =>
        if sel r then { r with granules := r.granules.map fun g => g.map fun _ => 0 } else r })
  | none =>
    let bad := gs.filterMap fun g => match d.probeGranule k g.1 g.2.1 with
      | .ok _ => none
      | .error c => some (⟨c, if g.2.2.2.setWidth 128 = 0#128 then g.2.1 + 128 else g.2.1⟩ : WbFault)
    match bad with
    | [] => .ok d
    | b :: bs => .error (bs.foldl (fun m x => if x.va < m.va then x else m) b)

end Dev

end Sys2Proof.Machine
end

