-- ==== Sys2Proof/Machine/Warps.lean ====
section
/-! DEFINITION. The scheduler's pool (R177), decrements on their way, the reconvergence stack and path ends (R121 to R123), the end of a warp and its slot (R127), bands and the
end of a generation (R165 to R167, R191 to R194). -/

namespace Sys2Proof.Machine

namespace Dev

/-! ### The scheduler's pool -/

/-- Entries of a queue that are taken (log 33). -/
def queueCount (c : Cluster) (q : Fin 5) : Nat := if q.val = 4 then c.faultQ.length else c.counts[q.val]

/-- Free entries of the pool (R177). -/
def poolFree (c : Cluster) : Nat := 4096 - (List.finRange 5).foldl (fun n q => n + queueCount c q) 0

/-- The pool grants a queue one entry more than `extra` others granted just before (R177). -/
def grants (c : Cluster) (q : Fin 5) (extra : Nat) : Bool :=
  let n := queueCount c q + extra
  let owed := (List.finRange 5).foldl (fun s j => if j = q then s else s + (c.minq[j.val].toNat - queueCount c j)) 0
  n < c.minq[q.val].toNat || (n < c.capq[q.val].toNat && owed < poolFree c - extra)

/-- The pool grants `n` entries of a queue. -/
def grantsAll (c : Cluster) (q : Fin 5) (n : Nat) : Bool := (List.range n).all fun i => grants c q i

/-- A message takes an entry of a queue, until firmware consumes it. -/
def takeEntries (d : Dev) (cl : ClusterIx) (q : Fin 5) (n : Nat) : Dev :=
  d.modCluster cl fun c => { c with counts := c.counts.set q.val (c.counts[q.val] + n) }

/-- A record enters the fault queue, or its sender holds it (R177). -/
def putFault (c : Cluster) (r : FnIx × Vector Word 256) : Cluster :=
  if c.faultHeld.isEmpty && grants c 4 0 then { c with faultQ := c.faultQ ++ [r] } else { c with faultHeld := c.faultHeld ++ [r] }

/-- Sends decrements towards a counter, those of a DEPDEC under the warp's name; DEPENDENCE_DECREMENT delivers them. -/
def sendDecs (d : Dev) (cl : ClusterIx) (i : BitVec 12) (err : Bool) (n : Nat) (by_ : Option Nat := none) : Dev :=
  if n = 0 then d
  else d.modCluster cl fun c => { c with decs := c.decs ++ [{ index := i, err := err, times := n, by_ := by_ }] }

end Dev

namespace Warp

/-- The PC of the topmost join entry (R122). -/
def jpc (w : Warp) : Option DWord := (w.stack.find? fun e => !e.pending).map (·.pc)

/-- The next entry with a lane that has not exited, and the stack under it (R122). -/
def popPath (x : Mask) : List StackEntry → Option (StackEntry × List StackEntry)
  | [] => none
  | e :: t => if e.mask &&& ~~~x = 0 then popPath x t else some (e, t)

/-- The procedure of a path end (R122). -/
def pathEnd (w : Warp) : Warp :=
  match popPath w.x w.stack with
  | some (e, t) => { w with m := e.mask &&& ~~~w.x, pc := e.pc, stack := t }
  | none => { w with m := 0, stack := [] }

/-- Path ends while M is zero or the PC equals jpc (R122). -/
def settlePath : Nat → Warp → Warp
  | 0, w => w
  | n + 1, w =>
    if w.m = 0 then (if w.stack = [] then w else settlePath n w.pathEnd)
    else if w.jpc = some w.pc then settlePath n w.pathEnd
    else w

/-- The warp at a program counter, after the path ends that follow there (R122). -/
def toPc (w : Warp) (pc : DWord) : Warp := settlePath 32 { w with pc := pc }

/-- The warp has no lane left to run (R122). -/
def isOver (w : Warp) : Bool := w.m == 0 && w.stack.isEmpty

/-- The instruction is done: the next program counter, with nothing of it left over (R33, R120). -/
def finish (w : Warp) : Warp := { w with wait := none, skip := 0, pass := false }.toPc (Dev.nextPc w.pc)

end Warp

namespace Dev

/-- A warp's slot becomes free when the warp has ended and its counters are zero (R127), once the scheduler's queue grants the
message of its end an entry (R177). -/
def reap (d : Dev) (k : CoreIx) (j : SlotIx) : Dev :=
  match d.slot k j with
  | some w =>
    if w.status = .ended ∧ w.ld = 0 ∧ w.st = 0 ∧ w.cp = 0 ∧ w.tl = 0 ∧ grants (d.cluster (clusterOf k)) 3 0 then
      ((d.takeEntries (clusterOf k) 3 1).putSlot k j none).modTask w.task fun t => { t with done := t.done + 1 }
    else d
  | none => d

/-! ### Bands -/

def band? (d : Dev) (cl : ClusterIx) (id : BitVec 8) : Option Band := (d.cluster cl).bands.find? fun b => b.id == id

def modBand (d : Dev) (cl : ClusterIx) (id : BitVec 8) (f : Band → Band) : Dev :=
  d.modCluster cl fun c => { c with bands := c.bands.map fun b => if b.id == id then f b else b }

/-- The band scope (R191). -/
def bandScope (b : Band) : Scope := if b.gang then .cluster else .core

/-- The band of a warp. -/
def bandOf (d : Dev) (k : CoreIx) (w : Warp) : Option Band := w.band.bind (d.band? (clusterOf k))

/-- The vote of a generation: ALL and ANY over the lanes of every warp that arrived by BARV (R194). -/
def voteOf (b : Band) : Bool × Bool :=
  b.arrived.foldl (fun v a => match a.2 with
    | .vote _ _ p bits => (v.1 && p &&& ~~~bits == 0, v.2 || p &&& bits != 0)
    | _ => v) (true, false)

/-- A member that waited at the generation's end acquires at band scope and its instruction is done (R191, R194). -/
def endWait (d : Dev) (b : Band) (a : Member × Arrival) : Dev :=
  let go (d : Dev) (f : Warp → Warp) : Dev :=
    (d.acquire a.1.core b.ctx (bandScope b)).modWarp a.1.core a.1.slot fun w => (f w).finish
  match a.2 with
  | .bar => go d id
  | .vote any pd p _ =>
    let v := voteOf b
    go d fun w => w.setPred pd p (if (if any then v.2 else v.1) then Mask.all else 0)
  | _ => d

/-- A pending join is added: it acquires, its wd receives the identifier, and its JOIN is done (R192). -/
def endJoin (d : Dev) (b : Band) (x : Member × Fin 32) : Dev :=
  let d := d.modCore x.1.core fun c =>
    { c with allocs := c.allocs.map fun a => if a.owner == .reserved b.id then { a with owner := .band b.id } else a }
  (d.acquire x.1.core b.ctx (bandScope b)).modWarp x.1.core x.1.slot fun w =>
    ({ w with band := some b.id }.setW x.2 (b.id.setWidth 32) .i32).finish

/-- A band is dissolved: its identifier is free and its allocations are released (R167). -/
def dissolve (d : Dev) (cl : ClusterIx) (id : BitVec 8) : Dev :=
  ((d.modCluster cl fun c => { c with bands := c.bands.filter fun b => b.id != id }).releaseOwner cl (.band id)).releaseOwner
    cl (.reserved id)

/-- The end of a generation, where every member has arrived (R167). -/
def endGeneration (d : Dev) (cl : ClusterIx) (id : BitVec 8) : Dev :=
  match d.band? cl id with
  | none => d
  | some b =>
    if !b.coming.isEmpty || !(b.members.all fun m => b.arrived.any fun a => a.1 == m) then d
    else
      let leaves := b.arrived.filterMap fun a => match a.2 with
        | .leave | .gone => some a.1
        | _ => none
      let members := (b.members.filter fun m => !leaves.contains m) ++ b.joins.map (·.1)
      let d := d.modBand cl id fun b => { b with members := members, arrived := [], joins := [], generation := b.generation + 1 }
      let d := b.arrived.foldl (fun d a => d.endWait b a) d
      let d := b.joins.foldl (fun d x => d.endJoin b x) d
      if members.isEmpty then d.dissolve cl id else d

/-- A member arrives at its band's generation, which ends if it was the last (R167). -/
def arrive (d : Dev) (k : CoreIx) (j : SlotIx) (id : BitVec 8) (a : Arrival) : Dev :=
  let me : Member := ⟨k, j, ((d.slot k j).map (·.uid)).getD 0⟩
  (d.modBand (clusterOf k) id fun b => { b with arrived := b.arrived ++ [(me, a)] }).endGeneration (clusterOf k) id

/-- A warp that has ended leaves its band (R167), its pending join is dropped, and its slot becomes free in time (R127). -/
def warpOver (d : Dev) (k : CoreIx) (j : SlotIx) : Dev :=
  match d.slot k j with
  | none => d
  | some w =>
    let d := { d with monitors := d.monitors.filter fun m => !(m.core == k && m.slot == j) }.putWarp k j { w with
      status := .ended, wait := none, monitor := none, hazards := [] }
    let d := d.modCluster (clusterOf k) fun c =>
      { c with bands := c.bands.map fun b => { b with joins := b.joins.filter fun x => x.1 != ⟨k, j, w.uid⟩ } }
    let d := match w.band with
      | some b => d.arrive k j b .gone
      | none => d
    d.reap k j

end Dev

end Sys2Proof.Machine
end

