-- ==== Sys2Proof/Machine/Tasks.lean ====
section
/-! DEFINITION. Ending work: page requests (R248), class-A aborts (R359 to R361), the end of a task and of a context (R372),
kills (R367), and fault records (R362 to R364). -/

namespace Sys2Proof.Machine

/-- The task of a matrix-queue entry. -/
def MatCmd.by_ : MatCmd → Issuer
  | .op _ b _ _ _ _ _ _ => b
  | .tbld _ b _ _ => b

/-- The name of a matrix-queue entry. -/
def MatCmd.id : MatCmd → Nat
  | .op i _ _ _ _ _ _ _ => i
  | .tbld i _ _ _ => i

/-- First tile and tiles of an operation (Table 13.1). -/
def mpbTiles (mpb : BitVec 1024) : Nat × Nat := (fieldOf mpb 373 367, fieldOf mpb 362 360 + 1)

namespace Core

/-- The operations of a core's matrix engine that have not completed. -/
def pendingOps (c : Core) : List Nat := (c.matQ ++ c.running.toList).map MatCmd.id

/-- The table sets that the running operation has taken or staged (R323, R324). -/
def ownSets (c : Core) (m : MatCmd) : Nat :=
  match m with
  | .op _ _ mpb _ _ _ _ t => if t.isSome then min c.staging.length ((fieldOf mpb 366 363 + 1) * (if fieldOf mpb 355 352 = 2 then 2 else 4)) else c.started
  | .tbld _ _ _ _ => 0

/-- The running operation is over: its table sets go, and what it had read. -/
def endOp (c : Core) (m : MatCmd) : Core :=
  { c with
    running := none, opWait := none, started := 0, staging := c.staging.drop (c.ownSets m)
    early := c.early.filter fun b => b.id != m.id }

/-- What entries that have left the matrix queue had read goes with them. -/
def settleEarly (c : Core) : Core := { c with early := c.early.filter fun b => c.pendingOps.contains b.id }

/-- A set pulled ahead for a queued operation goes with it (R324). -/
def dropAhead (c : Core) (sel : Issuer → Bool) : Core :=
  match c.matQ.find? fun m => match m with
    | .op _ _ _ _ _ _ _ _ => true
    | .tbld _ _ _ _ => false with
  | some m => if sel m.by_ then { c with staging := c.staging.take ((c.running.map c.ownSets).getD 0) } else c
  | none => c

/-- MZERO of one tile: every element +0, no DREC (R328). -/
def zeroTile (c : Core) (t : Nat) : Core :=
  { c with tiles := Sparse.dropRange (t * 2048) ((t + 1) * 2048) c.tiles, drec := Sparse.erase t c.drec }

/-- MZERO acts on the tiles whose earlier operations are over (R309). -/
def settleZeros (c : Core) : Core :=
  let pending := c.pendingOps
  let (later, now) := c.zeros.partition fun z => z.after.any pending.contains
  now.foldl (fun c z => (List.range z.count).foldl (fun c i => c.zeroTile (z.first + i)) c) { c with zeros := later }

end Core

namespace Dev

/-! ### Page requests -/

/-- Whether a page of a context is resident, as its PTE stands (R248). -/
def pageResident (d : Dev) (x : Context) (va : Nat) : Bool :=
  match d.walkPte x va with
  | some e => pteRes e
  | none => false

/-- The size of the block to request: doubled while enough of the doubled block is resident (R248). -/
def blockSize (res : Nat → Nat → Nat) (page t k : Nat) : Nat → Nat → Nat
  | 0, size => size
  | n + 1, size =>
    if size < 2 ^ k then
      let base := page / (2 * size) * (2 * size)
      if t * (2 * size) < res base (2 * size) * 256 then blockSize res page t k n (2 * size) else size
    else size

/-- The pages that the neighbourhood prefetcher requests with a faulting page (R248). -/
def blockOf (d : Dev) (x : Context) (va : Nat) : List Nat :=
  let span := va57 va / 2 ^ 24 * 2 ^ 24
  let at_ (i : Nat) : Nat := span + i * 0x10000
  let res (base n : Nat) : Nat := ((List.range n).filter fun i => d.pageResident x (at_ (base + i))).length
  let page := bitsN va 23 16
  let size := blockSize res page x.nbthresh x.nbblock 9 1
  ((List.range size).map fun i => at_ (page / size * size + i)).filter fun a => !d.pageResident x a

/-- The page of a virtual address, as requests name it. -/
def pageOf (va : Nat) : Nat := va57 va / 0x10000 * 0x10000

/-- A page has been requested and has not become resident since (R248). -/
def requested (d : Dev) (c : CtxIx) (page : Nat) : Bool := d.requests.any fun r => r.ctx == c && r.va == page

/-- Requests residency of a page (R248). -/
def request (d : Dev) (c : CtxIx) (va : Nat) : Dev :=
  match d.context c with
  | none => d
  | some x =>
    let page := pageOf va
    if d.requested c page then d
    else { d with requests := d.requests ++ [{ ctx := c, va := page, pages := d.blockOf x va }] }

/-! ### Commands of a task -/

/-- Drops every queued command and every operation that a test selects by its issuer, and the accepted commands too unless they
are to go on, leaving the bytes of a stopped operation's tiles
and of a stopped TBLD's entry free (R315, R360, R372). -/
def dropWork (d : Dev) (sel : Issuer → Bool) (accepted : Bool := true) : Dev :=
  let free (d : Dev) (k : CoreIx) (m : MatCmd) (running : Bool) : Dev :=
    match m with
    | .op _ _ mpb _ _ _ _ _ =>
      if !running then d
      else
        let (t, n) := mpbTiles mpb
        let ws := (List.range (n * 2048)).map fun i => Config.freeWord (d.draw + i)
        { d.modCore k fun c => { c with tiles := Sparse.setList 0x40000000 (t * 2048) ws c.tiles } with
          draw := d.draw + n * 2048 }
    | .tbld _ _ _ e =>
      let bs := (List.range 1024).map fun i => Config.freeByte (d.draw + i)
      { d.modCore k fun c => { c with tables := Sparse.setList 0 (e.val * 1024) bs c.tables } with draw := d.draw + 1024 }
  let d := d.cores.foldl (fun d e =>
    if h : e.1 < 384 then
      let k : CoreIx := ⟨e.1, h⟩
      let d := match e.2.running with
        | some m => if sel m.by_ then
            (free d k m true).modCore k fun c => c.endOp m
          else d
        | none => d
      let d := (e.2.matQ.filter fun m => sel m.by_).foldl (fun d m => free d k m false) d
      d.modCore k fun c => Core.settleZeros (Core.settleEarly { (c.dropAhead sel) with
        matQ := c.matQ.filter (fun m => !sel m.by_), copyQ := c.copyQ.filter (fun x => !sel x.by_) })
    else d) d
  if accepted then d.mapClusters fun c => { c with engine := c.engine.filter fun x => !sel x.by_ } else d

/-- Removes every warp that a test selects, and disarms its monitor (R360). -/
def dropWarps (d : Dev) (sel : Warp → Bool) : Dev :=
  let d := d.mapWarps fun _ _ w => if sel w then none else some w
  { d with monitors := d.monitors.filter fun m => (d.slot m.core m.slot).isSome }

/-- Withdraws the bind records of a task that have not been dispatched. -/
def dropBinds (d : Dev) (task : Nat) : Dev :=
  let other (cl : ClusterIx) (r : BitVec 128) : Bool :=
    !(d.tasks.any fun t => t.id == task && t.home == cl && t.handle.toNat == fieldOf r 127 112)
  let d' := d.mapCores fun k c => { c with bindQ := c.bindQ.filter (other (clusterOf k)) }
  (List.finRange 8).foldl (fun d cl => d.modCluster cl fun c => { c with binds := c.binds.filter fun r => other cl r.2 }) d'

/-- Frees the band identifiers of a task and releases its scratchpad allocations, without write-back (R360). -/
def dropScratch (d : Dev) (task : Nat) : Dev :=
  let d := (List.finRange 8).foldl (fun d cl =>
    let ids := ((d.cluster cl).bands.filter fun b => b.task == task).map (·.id)
    (ids.foldl (fun d i => d.dissolve cl i) d).releaseOwner cl (.task task)) d
  d.dropBinds task

/-! ### Records -/

/-- The words of a record header (Table 16.4). -/
def recordHeader (d : Dev) (k : CoreIx) (j : SlotIx) (w : Warp) (f : FaultInfo) (cls : Nat) (nested : Bool) :
    List Word :=
  let place := d.codePlace w.ctx w.pc.toNat
  let t := d.task? w.task
  let lanes : Mask := f.lanes.foldl (fun m c => m ||| (1#32 <<< c.lane.val)) 0
  let flags := (if f.wb.isSome then 1 else 0) + (if nested then 2 else 0) + (if w.haltPend then 4 else 0)
  let handle := match t with
    | some t => t.handle.toNat
    | none => 0
  let ser := match t with
    | some t => t.taskser
    | none => 0
  let wb := f.wb.getD 0
  [place.1, place.2, w.m, w.x, lanes,
    BitVec.ofNat 32 (f.code + cls * 2 ^ 8 + w.stack.length * 2 ^ 16 + flags * 2 ^ 24),
    BitVec.ofNat 32 (j.val + coreInCluster k * 2 ^ 8 + (clusterOf k).val * 2 ^ 16),
    BitVec.ofNat 32 (handle + w.index * 2 ^ 16), ser, f.detail, loWord wb, hiWord wb, 0, 0, 0, 0]

/-- A lane entry (Table 16.5). -/
def laneEntry (f : FaultInfo) (l : Lane) : List Word :=
  match f.lanes.find? fun c => c.lane == l with
  | some c => [loWord c.addr, hiWord c.addr, BitVec.ofNat 32 (c.cause + c.ldetail.toNat * 2 ^ 8), 0]
  | none => [0, 0, 0, 0]

/-- A stack entry (Table 5.1). -/
def stackWords (e : StackEntry) : List Word :=
  [loWord e.pc, (hiWord e.pc &&& 0x01FFFFFF) ||| (if e.pending then 0x02000000 else 0), 0, e.mask]

/-- Four words per stack entry, the bottom first, zeros above the depth (Table 16.3). -/
def stackImage (s : List StackEntry) : List Word :=
  let ws := s.reverse.flatMap stackWords
  ws ++ List.replicate (64 - ws.length) 0

/-- A fault record (Table 16.3). -/
def record (d : Dev) (k : CoreIx) (j : SlotIx) (w : Warp) (f : FaultInfo) (cls : Nat) (nested : Bool) :
    Vector Word 256 :=
  let ws := d.recordHeader k j w f cls nested ++ (List.finRange 32).flatMap (laneEntry f) ++ stackImage w.stack
  Vector.ofFn fun i => (ws[i.val]?).getD 0

/-- Sends a record to the cluster's fault queue (R360, R368). -/
def sendRecord (d : Dev) (cl : ClusterIx) (c : CtxIx) (r : Vector Word 256) : Dev :=
  d.modCluster cl fun x => putFault x (d.partOf c, r)

/-! ### Ends -/

/-- The abort of a task under a class-A fault (R360, R361). -/
def abort (d : Dev) (task : Nat) (va : Nat) : Dev :=
  let d := d.dropWarps fun w => w.task == task
  let d := d.cores.foldl (fun d e => if h : e.1 < 384 then d.discardDirty ⟨e.1, h⟩ fun l => l.owner.2 == task else d) d
  let d := (d.dropWork fun b => b.task == task).dropScratch task
  d.modTask task fun t =>
    { t with state := .aborted, aborts := t.aborts + 1, placed := 0, done := 0, waitVa := pageOf va }

/-- A warp is killed: its dirty bytes are discarded, it leaves its band, its task will complete with KILLED (R367). -/
def kill (d : Dev) (k : CoreIx) (j : SlotIx) : Dev :=
  match d.slot k j with
  | none => d
  | some w =>
    let d := d.discardDirty k fun l => l.owner == (j, w.task)
    let d := d.putWarp k j { w with
      stores := w.stores.map fun p => { p with lines := [] }, m := 0, stack := [], record := none, nested := none,
      inHandler := false }
    let d := (d.settle k j).modTask w.task fun t => { t with killed := true }
    d.warpOver k j

/-- A task's copies that no engine has accepted end: their counters take error decrements (R291, R372, log 108). -/
def endQueued (d : Dev) (task : Nat) : Dev :=
  let gone := (d.cores.flatMap fun e => e.2.copyQ).filter fun c => c.by_.task == task
  let d := gone.foldl (fun d c => match c.dep with
    | some (cl, n) => d.sendDecs cl n true 1
    | none => d) d
  d.dropWork (fun b => b.task == task) false

/-- The accepted commands that CPCNT of a warp still counts. -/
def acceptedBy (d : Dev) (k : CoreIx) (j : SlotIx) (task : Nat) : Nat :=
  (d.clusters.toList.flatMap fun c => c.engine.filter fun y =>
    y.by_.core == k && y.by_.slot == j && y.by_.task == task && y.tile.isNone && y.packet.isNone).length

/-- A task ends FAULTED: its warps stop, its accesses through a port that is down are over and its queued commands end; an
accepted command ends as the links that it uses let it (R304, R372, log 108). -/
def endTask (d : Dev) (task : Nat) : Dev :=
  let d := d.modTask task fun t => { t with faulted := true, placed := t.warpCount }
  let d := d.endQueued task
  let d := (d.dropBinds task).mapClusters fun c =>
    { c with bands := c.bands.map fun b => if b.task == task then { b with coming := [] } else b }
  let unplaced := match d.task? task with
    | some t => t.warpCount - (d.warps.filter fun x => x.2.2.task == task).length
    | none => 0
  let d := d.modTask task fun t => { t with done := unplaced }
  let d := (d.warps.filter fun x => x.2.2.task == task).foldl (fun d x =>
    let d := match d.writeBackTask x.1 task with
      | .ok d => d
      | .error _ => d.discardDirty x.1 fun l => l.owner.2 == task
    let d := d.modWarp x.1 x.2.1 fun w =>
      let (gone, left) := w.loads.partition fun p => !p.win.isEmpty
      { w with
        loads := left, ld := w.ld - gone.length, cp := d.acceptedBy x.1 x.2.1 task, tl := 0
        stores := w.stores.map fun p => { p with
          lines := [], win := []
          flight := p.flight.filter fun b => match b.loc with
            | .phys pa => !isWindow pa
            | .bank _ _ => true }
        m := 0, stack := [], record := none, nested := none, inHandler := false }
    (d.settle x.1 x.2.1).warpOver x.1 x.2.1) d
  (List.finRange 8).foldl (fun d cl =>
    ((d.cluster cl).bands.filter fun b => b.task == task && b.members.isEmpty).foldl (fun d b => d.dissolve cl b.id) d) d

/-- A context ends: every warp and command of it stops at once; its memory stays mapped (R372). -/
def endContext (d : Dev) (c : CtxIx) : Dev :=
  let gone := d.tasks.filter fun t => t.ctx == c
  let d := d.dropWarps fun w => w.ctx == c
  let d := d.dropWork fun b => b.ctx == c
  let d := gone.foldl (fun d t => d.dropScratch t.id) d
  let d := { d with
    tasks := d.tasks.filter fun t => t.ctx != c
    submissions := d.submissions.filter fun x => x.ctx != c
    requests := d.requests.filter fun r => r.ctx != c
    saved := d.saved.filter fun x => x.ctx != c
    tsrs := d.tsrs.filter fun x => x.ctx != c }
  let d := d.mapClusters fun cl => { cl with
    deps := cl.deps.map fun e => (e.1, { e.2 with waiters := e.2.waiters.filter fun t => !(gone.any fun g => g.id == t) })
    preempting := cl.preempting.filter fun p => p.1 != c
    packetsIn := cl.packetsIn.filter fun p => !(gone.any fun g => g.id == p.task)
    binds := cl.binds.filter fun r => fieldOf r.2 107 96 != c.toNat
    engine := cl.engine.filter fun x => x.by_.ctx != c }
  let d := d.mapCores fun _ x => { x with
    l1 := x.l1.filter fun l => l.ctx != c
    bindQ := x.bindQ.filter fun r => fieldOf r 107 96 != c.toNat }
  d.modContext c fun x => { x with ended := true }

end Dev

end Sys2Proof.Machine
end

