-- ==== Sys2Proof/Machine/Ops.lean ====
section
/-! DEFINITION. What every instruction of a warp shares: the registers it uses, what its reads see (R38), when it may issue
(R155), the end of an instruction (R33, R122), taking a fault (R357 to R372), the handler's return (R367), and `issue`,
through which every meaning of a warp instruction runs. -/

namespace Sys2Proof.Machine

/-! ### Registers of an instruction -/

/-- Registers that a byte names, by the class of its field: v registers 0 to 63, w registers 64 to 95, predicates 96 to
102, the carry flags 103 (%carry) and the limb-chain binding 104 (%limbs). -/
def byteRegs (k : Cls) (x : BitVec 8) : List Nat :=
  let n := x.toNat
  let span (c : Nat) : List Nat :=
    if n < 0x60 then (List.range c).map (n + ·) else if n = 0x66 then [104] else if n = 0x67 then [103] else []
  match k with
  | .unused => []
  | .d | .s | .q | .v | .w => span 1
  | .de | .e => span 2
  | .dm c => span c
  | .s4 => span 4
  | .p => if 0x70 ≤ n && n < 0x77 then [96 + (n - 0x70)] else []

/-- The carry flags (103) and the binding (104) that a limb-chain instruction writes, and those that it reads (R199 to R208). -/
def chainRegs : Instr → List Nat × List Nat
  | .bind .. => ([103, 104], [])
  | .unbind .. => ([104], [])
  | .chadd _ _ _ _ ci | .chsub _ _ _ _ ci | .chmad _ _ _ _ _ _ ci => ([103], if ci then [103] else [])
  | .chneg .. | .chshl .. | .chshr .. => ([103], [])
  | .chmvc .. => ([], [103])
  | _ => ([], [])

/-- The registers that an instruction writes and those that it uses at all; BIND and UNBIND use their whole range. -/
def instrRegs (i : Instr) : List Nat × List Nat :=
  match i.toRaw with
  | none => ([], [])
  | some r =>
    match r.row with
    | none => ([], [])
    | some k =>
      let guard := if r.gp = 7 then [] else [96 + r.gp.toNat]
      let range := match i with
        | .bind _ _ f n | .unbind _ f n => (List.range n.toNat).map (f.val + ·)
        | _ => []
      let also := match i with
        | .qnt _ _ ws _ _ _ => [64 + ws.val]
        | _ => []
      let dst := byteRegs k.dst r.dst ++ also ++ range ++ (chainRegs i).1
      (dst, dst ++ byteRegs k.a r.a ++ byteRegs k.b r.b ++ byteRegs k.c r.c ++ guard ++ (chainRegs i).2)

/-- The registers that a destination names, from its first one up. -/
def dstRegs (d : Dst) (n : Nat) : List Nat :=
  match d with
  | .v r => (List.range n).map (r.val + ·)
  | .w r => (List.range n).map (64 + r.val + ·)
  | .none => []

/-- The registers that an outstanding load will write. -/
def loadRegs (p : PLoad) : List Nat :=
  dstRegs p.dst p.regs ++ (match p.also with
    | some x => [64 + x.1.val]
    | none => [])

/-- The row of Table 6.1 that gives an operation its class latency: 0 Simple, 1 Multiply, 2 Log-add, 3 Function, 6 Lane
exchange, 7 Limb chain, 8 Memory and engine issue. -/
def latencyRow (op : Nat) : Nat :=
  if [0x12, 0x13, 0x14, 0x3D].contains op then 1
  else if [0x30, 0x31, 0x34, 0x36, 0x44, 0x45, 0x50].contains op then 2
  else if 0x40 ≤ op ∧ op ≤ 0x43 then 3
  else if 0x60 ≤ op ∧ op ≤ 0x64 then 6
  else if 0x70 ≤ op ∧ op ≤ 0x7B ∧ op ≠ 0x79 ∧ op ≠ 0x7A then 7
  else if op < 0x58 ∨ 0xE0 ≤ op then 0
  else 8

/-- An integer instruction at 64 bits. -/
def isWide (r : Raw) : Bool := 0x10 ≤ r.op.toNat && r.op.toNat ≤ 0x2C && r.w

/-- What W = 1 adds to the class latency of an integer instruction (Table 6.1, log 13). -/
def wideLatency : Nat := if majorStepping = 1 then 2 else (Config.latency 4).toNat

/-- The latency of an instruction of fixed latency (Table 6.1, log 13); none for memory and engine issue. -/
def latencyOf (i : Instr) : Option Nat :=
  i.toRaw.bind fun r => (rowLatency (latencyRow r.op.toNat)).map fun n => if isWide r then n + wideLatency else n

/-- The row of Table 6.1 that gives an instruction its busy cycles. -/
def busyRow (r : Raw) : Nat :=
  let op := r.op.toNat
  if 0x60 ≤ op ∧ op ≤ 0x64 then 6
  else if 0x70 ≤ op ∧ op ≤ 0x7B then 7
  else if 0x40 ≤ r.dst.toNat ∧ r.dst.toNat < 0x60 then 5
  else if isWide r then 4
  else latencyRow op

/-- The beats of an instruction that have an active lane (R153). -/
def activeBeats (m : Mask) : Nat := ((List.range 4).filter fun b => m &&& BitVec.ofNat 32 (0xFF * 2 ^ (8 * b)) != 0).length

/-- The cycles for which an instruction keeps its pipe (Table 6.1, log 13, log 103). -/
def busyCycles (i : Instr) (m : Mask) : Nat :=
  match i.toRaw with
  | none => 0
  | some r =>
    let beats := activeBeats m
    if majorStepping ≠ 1 then Config.busyCycles (busyRow r) beats
    else match busyRow r with
      | 5 => 1
      | 6 | 7 => 4
      | 3 | 4 => 2 * beats
      | _ => beats

/-! ### What a meaning sees and answers -/

/-- Where and when an instruction issues: the die, the warp's place, the warp, what its reads see, its control fields. -/
structure Site where
  d : Dev
  k : CoreIx
  j : SlotIx
  w : Warp
  v : View
  c : Ctl

/-- What the meaning of a warp instruction answers. -/
inductive Act where
  /-- Complete: the warp goes on at the next program counter. -/
  | done (d : Dev)
  /-- Complete: the warp stands already where it goes on. -/
  | goto (d : Dev)
  /-- Complete, or waiting as the meaning has set it: the warp stands where the meaning has put it. -/
  | placed (d : Dev)
  /-- Issued: another step completes it. -/
  | wait (d : Dev) (why : Wait)
  /-- Held at the instruction, which issues again (R176). -/
  | hold (d : Dev) (why : Wait)
  /-- A fault: no effect in any lane (R357). -/
  | fault (d : Dev) (f : FaultInfo)

namespace Site

/-- The participating lanes (R183). -/
def p (x : Site) : Mask := x.v.p
/-- The cluster. -/
def cl (x : Site) : ClusterIx := clusterOf x.k
/-- The warp that issues, as its commands name it. -/
def issuer (x : Site) : Issuer := { core := x.k, slot := x.j, ctx := x.w.ctx, task := x.w.task }
/-- FORMAT unless a check of tags holds (R20). -/
def format (x : Site) : Act := .fault x.d (.format x.w.m)
/-- The warp's own registers after an instruction that writes nothing else. -/
def put (x : Site) (w : Warp) : Dev := x.d.putWarp x.k x.j w
/-- The fault of a failed write-back, after earlier effects: every participating lane carries it (R364, R371). -/
def wbFaultAt (x : Site) (d : Dev) (e : WbFault) : Act :=
  .fault d { FaultInfo.warpWide e.code x.p (BitVec.ofNat 64 e.va) with wb := some (BitVec.ofNat 64 e.va) }
/-- The fault of a failed write-back. -/
def wbFault (x : Site) (e : WbFault) : Act := x.wbFaultAt x.d e
/-- An answer that fails for want of a page walk alone holds the warp until the walk has ended (R246), and one for want of an
atomic operation of the warp until that is performed (R268). -/
def orWalk (x : Site) (a : Act) : Act :=
  match a with
  | .fault _ f =>
    if f.walks.isEmpty then (if f.afterAtomic then .hold x.d .atomic else a)
    else .hold (f.walks.foldl (fun d va => d.noteWalk x.w.ctx va.toNat) x.d) .walk
  | _ => a
/-- An instruction on registers alone. -/
def regs (x : Site) (r : RegAct) : Act :=
  match r with
  | .ok w => .done (x.put w)
  | .bad f => .fault x.d f

end Site

namespace Dev

/-! ### Modes of issue -/

/-- The warp's page runs in interlocked mode (R39, R417); so does code outside every executable page. -/
def interlocked (d : Dev) (w : Warp) : Bool :=
  d.forceInterlocked || (match d.execAt w.ctx w.pc.toNat with
    | some p => p.interlocked
    | none => true)

/-- A result of fixed latency for which an instruction waits: in interlocked mode of a register that it uses, in hinted mode of
one attached to a slot, where it uses the register or names the slot (R37, R39). -/
def waitsOn (interlocked : Bool) (used : List Nat) (c : Ctl) (h : Hazard) : Bool :=
  if interlocked then used.contains h.reg else h.sb != 0 && (h.sb == c.sb || used.contains h.reg)

/-- An instruction waits for registers or scoreboard slots: in interlocked mode for a result under way or a load that will
write a register it uses, in hinted mode for a busy slot that it names or that is attached to a register it uses (R37, R39,
R154). -/
def depends (d : Dev) (w : Warp) (i : Instr) (c : Ctl) : Bool :=
  let used := (instrRegs i).2
  (if d.interlocked w then w.loads.any fun l => (loadRegs l).any used.contains
    else w.loads.any fun l => l.sb != 0 && (l.sb == c.sb || (loadRegs l).any used.contains)) ||
  w.hazards.any fun h => d.clock < h.due && waitsOn (d.interlocked w) used c h

/-- The first cycle at which no result of fixed latency and no STALL holds the instruction back (R37, R39). -/
def dueAt (d : Dev) (w : Warp) (i : Instr) (c : Ctl) : Nat :=
  (w.hazards.filter (waitsOn (d.interlocked w) (instrRegs i).2 c)).foldl (fun n h => max n h.due) w.nextIssue

/-- The warp has come to its instruction already and is held there. -/
def heldAt : Option Wait → Bool
  | none | some .fill | some .depend => false
  | _ => true

/-- An instruction at which the warp stops before it issues: a safe point with a breakpoint, a halt, a step or a
pre-emption due (R373, R382, R385). -/
def stopsHere (d : Dev) (w : Warp) (c : Ctl) : Bool :=
  c.stop && !w.pass && !heldAt w.wait &&
    (w.haltPend || w.stepPend || w.preempt || match d.execAt w.ctx w.pc.toNat, d.context w.ctx with
      | some p, some x => x.bps.any fun b =>
          b.extractLsb' 32 32 == p.codeId && b.getLsbD 20 && fieldOf b 31 21 == 0 &&
            fieldOf b 19 0 == d.ordinalAt w.ctx w.pc.toNat
      | _, _ => false)

/-- The warp is held at its instruction, which does not issue while it is (R129, R155, R176). -/
def heldBack : Option Wait → Bool
  | some (.waitc ..) | some .counter | some .queue | some .commands | some (.cbacq ..) | some (.release _) | some .atomic
  | some .walk => true
  | _ => false

/-- A step of another agent completes the instruction that the warp waits in. -/
def awaits : Option Wait → Bool
  | some .barrier | some .joining | some (.sleep _ _) | some (.waitmon _ _) | some (.publish _ _) | some .resident => true
  | _ => false

/-- The warp may issue this instruction now (R155). -/
def canIssue (d : Dev) (w : Warp) (i : Instr) (c : Ctl) : Bool :=
  w.status == .running && !w.hold && !awaits w.wait && w.nextIssue ≤ d.clock && !d.stopsHere w c && !d.depends w i c

/-- A slot's pipe accepts an instruction (R154). -/
def pipeOpen (d : Dev) (k : CoreIx) (j : SlotIx) : Bool := (d.core k).busy[j.val % 8] ≤ d.clock

/-! ### What reads see -/

/-- The words that outstanding loads without a slot bring to w registers, once all their bytes are held (R38). -/
def lateLoads (w : Warp) : List (Nat × Word) :=
  (w.loads.filter fun p => p.sb == 0 && p.atom.isEmpty && (p.lanes.flatMap laneLocs).isEmpty).flatMap fun p =>
    (match p.dst, p.lanes with
      | .w r, l :: _ =>
        let n := leNat (l.bytes.map fun b => match b with
          | .held x => x
          | .home _ _ => 0)
        (List.range p.regs).map fun i => (64 + (wUp r i).val, BitVec.ofNat 32 (n / 2 ^ (32 * i)))
      | _, _ => []) ++ (match p.also with
      | some x => [(64 + x.1.val, x.2)]
      | none => [])

/-- The registers as a read in hinted mode sees them while earlier results are under way: each lane the old bits or the new, a w
register and %limbs in each lane that reads it (R38, log 13, log 103). -/
def hazardView (d : Dev) (used : List Nat) (w : Warp) : Warp × List (Nat × Mask × Word) × Dev :=
  let hs := w.hazards.filter fun h => d.clock < h.due && used.contains h.reg
  let ls := (lateLoads w).filter fun x => used.contains x.1
  let r := hs.zipIdx.foldl (fun r x =>
    let h := x.1
    let n := d.draw + 33 * x.2
    if hv : h.reg < 64 then
      { r with
        v := r.v.set h.reg (Vector.ofFn fun l => if Config.freeBit (n + l.val) then h.old[l.val] else r.v[h.reg][l.val])
        vt := if Config.freeBit (n + 32) then r.vt.set h.reg h.tag else r.vt }
    else if hw : h.reg - 64 < 32 then
      { r with wt := if Config.freeBit (n + 32) then r.wt.set (h.reg - 64) h.tag else r.wt }
    else if hp : h.reg - 96 < 7 then
      { r with p := r.p.set (h.reg - 96) (maskOf fun l =>
          if Config.freeBit (n + l.val) then h.old[l.val] &&& 1 == 1 else r.p[h.reg - 96].getLsbD l.val) }
    else if h.reg = 103 then
      { r with carry := maskOf fun l =>
          if Config.freeBit (n + l.val) then h.old[l.val] &&& 1 == 1 else r.carry.getLsbD l.val }
    else r) w
  let late (x : (Nat × Word) × Nat) : Nat × Mask × Word := (x.1.1, maskOf fun l => Config.freeBit (d.draw + 33 * x.2 + l.val), x.1.2)
  let old := (hs.map fun h => (h.reg, h.old[0])).zipIdx.filter fun x => (64 ≤ x.1.1 && x.1.1 < 96) || x.1.1 == 104
  (r, old.map late ++ (ls.zipIdx hs.length).map late, { d with draw := d.draw + 33 * (hs.length + ls.length) })

/-- The limb-chain binding as %limbs reads it (R199). -/
def limbsWord (w : Warp) : Word :=
  match w.chain with
  | none => 0
  | some b => BitVec.ofNat 32 (b.first.val + b.count * 2 ^ 6 + b.seg.val * 2 ^ 13 + 2 ^ 16)

/-- The register as a hazard keeps it. -/
def regBefore (w : Warp) (reg : Nat) : Vector Word 32 × Tag :=
  let bits (m : Mask) : Vector Word 32 := Vector.ofFn fun l => if m.getLsbD l.val then 1 else 0
  if h : reg < 64 then (w.v[reg], w.vt[reg])
  else if h : reg - 64 < 32 then (Vector.replicate 32 w.w[reg - 64], w.wt[reg - 64])
  else if h : reg - 96 < 7 then (bits w.p[reg - 96], .i32)
  else if reg = 103 then (bits w.carry, .i32)
  else (Vector.replicate 32 (limbsWord w), .undef)

/-- The results that are not written yet, newest first, each with its slot in hinted mode (R37, R38, R154, log 103). -/
def hazardsAfter (d : Dev) (old : Warp) (i : Instr) (c : Ctl) (hinted : Bool) : List Hazard :=
  let live := old.hazards.filter fun h => d.clock < h.due
  match latencyOf i with
  | some n =>
    ((instrRegs i).1.map fun reg =>
      let b := regBefore old reg
      { reg := reg, old := b.1, tag := b.2, due := d.clock + n, sb := if hinted then c.sb else 0 : Hazard }) ++ live
  | none => live

/-- The specials (Table 1.1). -/
def specials (d : Dev) (k : CoreIx) (w : Warp) : Vector Word 16 :=
  let band := d.bandOf k w
  let task := d.task? w.task
  #v[0, BitVec.ofNat 32 w.index, BitVec.ofNat 32 (coreInCluster k), BitVec.ofNat 32 (clusterOf k).val,
    match w.band with
    | some b => b.setWidth 32
    | none => 0xFFFFFFFF,
    match band with
    | some b => BitVec.ofNat 32 (b.members.length + b.coming.length)
    | none => 0,
    limbsWord w, 0, BitVec.ofNat 32 d.clock, BitVec.ofNat 32 d.ptpNs,
    match task with
    | some t => t.taskser
    | none => 0,
    match d.context w.ctx with
    | some x => x.srseed
    | none => 0,
    BitVec.ofNat 32 w.ld, BitVec.ofNat 32 w.st, BitVec.ofNat 32 w.cp, BitVec.ofNat 32 w.tl]

/-! ### The end of an instruction -/

/-- The fetch check of a sequential run, for the lanes that go on (R33, R44): the code, if the next page cannot be
fetched. -/
def seqFault (d : Dev) (k : CoreIx) (w : Warp) : Option Nat :=
  let next := nextPc w.pc
  if next.toNat / 0x10000 = w.pc.toNat / 0x10000 then none else (d.via k).fetchFault w.ctx next.toNat

/-- A fault of a fetch, in the lanes that it concerns (R44, R358). -/
def fetchInfo (code : Nat) (m : Mask) (pc : DWord) : FaultInfo := .warpWide code m pc

/-- The lines of an instruction cache after a warp has issued from one: it is the most recently used (R132). -/
def useLine (ls : List ILine) (c : CtxIx) (va : Nat) : List ILine :=
  match ls.find? fun l => l.ctx == c && l.va == va57 va / 256 * 256 with
  | some l => { l with used := true } :: ls.filter (· != l)
  | none => ls

/-- An instruction issues: hints, the pipe's busy cycles, the use of its line and counts (R37, R131, R132, R154, R156,
R393). -/
def issueMark (d : Dev) (k : CoreIx) (j : SlotIx) (w : Warp) (i : Instr) (c : Ctl) (p : Mask) : Dev :=
  let hinted := !d.interlocked w
  let next := if hinted then d.clock + c.stall.val else d.clock
  let yielded := (hinted && c.yield) || (match i with
    | .yield _ => p != 0
    | _ => false)
  let d' := d.modWarp k j fun x => { x with
    age := 0, issuedAt := some d.clock, nextIssue := next, readyAt := none, yielded := yielded, walked := [], flushing := []
    hazards := d.hazardsAfter w i c hinted }
  let d' := d'.modCore k fun x => { x with
    busy := x.busy.set (j.val % 8) (d.clock + busyCycles i w.m), icache := useLine x.icache w.ctx w.pc.toNat }
  (d'.count w.ctx 3 1).count w.ctx 4 (popCount p)

/-- The record of a safe point at its issue (Table 17.3, R388). -/
def safePointRecord (d : Dev) (w : Warp) (e : ExecPage) : BitVec 128 :=
  BitVec.ofNat 128 (e.codeId.toNat + d.ordinalAt w.ctx w.pc.toNat * 2 ^ 32 + w.m.toNat * 2 ^ 64)

/-- An instruction issues, and a safe point is recorded (R388). -/
def issued (d : Dev) (k : CoreIx) (j : SlotIx) (w : Warp) (i : Instr) (c : Ctl) (p : Mask) : Dev :=
  let d' := d.issueMark k j w i c p
  if c.stop then
    match d.execAt w.ctx w.pc.toNat with
    | some e => d'.traceWarp k j w [(1, d.safePointRecord w e)]
    | none => d'
  else d'

/-! ### Taking a fault -/

/-- The saved place of a handler (R365): PC of HENTRY, where its object is loaded and privileged. -/
def handlerPc (x : Context) : Option DWord :=
  (x.objs.find? fun o => o.id == x.hentryObj && o.cls == 1).map fun o =>
    BitVec.ofNat 64 (canon57 (va57 (o.base + x.hentryOff)))

/-- HMASK selects a code (R365). -/
def handlerTakes (x : Context) (code : Nat) : Bool :=
  if code < 0x10 then x.hmask.testBit 15 else code - 0x10 < 15 && x.hmask.testBit (code - 0x10)

/-- The record with words 208 to 220 filled (R365 step 1). -/
def saveIntoRecord (w : Warp) (r : Vector Word 256) : Vector Word 256 :=
  let r := (List.finRange 4).foldl (fun (r : Vector Word 256) i => r.setIfInBounds (208 + i.val) (w.wAt (wUp 28 i.val))) r
  let r := (List.finRange 7).foldl (fun (r : Vector Word 256) i => r.setIfInBounds (212 + i.val) w.p[i.val]) r
  let tags := (List.range 4).foldl (fun n i => n + (w.wTag (wUp 28 i)).code * 2 ^ (4 * i)) 0
  (r.setIfInBounds 219 (BitVec.ofNat 32 tags)).setIfInBounds 220 w.mode

/-- A warp's own spill area (R365 step 3). -/
def spillArea (x : Context) (k : CoreIx) (j : SlotIx) : DWord :=
  BitVec.ofNat 64 (x.hspill + 4096 * ((clusterOf k).val * 3072 + coreInCluster k * 64 + j.val))

/-- Entry of the handler (R365 steps 2 and 3, R385). -/
def enterHandler (w : Warp) (r : Vector Word 256) (pc spill : DWord) : Warp :=
  let w1 : Warp := { w with
    record := some (saveIntoRecord w r), inHandler := true, parkPc := w.pc, pc := pc, m := ~~~w.x, stack := [], mode := 0,
    wait := none, skip := 0, pass := false, status := .running
    stepPend := false, stepAfter := w.stepAfter || w.stepPend }
  (w1.setW 30 (loWord spill) .i64).setW 31 (hiWord spill) .i64

/-- The pages whose absence a fault names. -/
def missingPages (f : FaultInfo) : List Nat :=
  match f.wb with
  | some a => [a.toNat]
  | none => (f.lanes.filterMap fun (c : LaneCause) => if codeRank c.cause = 0 then some c.addr.toNat else none).eraseDups

/-- Requests residency of every page whose absence a fault names (R248). -/
def requestAll (d : Dev) (c : CtxIx) (f : FaultInfo) : Dev := (missingPages f).foldl (fun d a => d.request c a) d

/-- The FAULT trace record (Table 17.3). -/
def traceFault (d : Dev) (k : CoreIx) (j : SlotIx) (w : Warp) (code cls : Nat) : Dev :=
  let place := d.codePlace w.ctx w.pc.toNat
  d.traceWarp k j w [(4, BitVec.ofNat 128
    (code + cls * 2 ^ 8 + place.1.toNat * 2 ^ 16 + place.2.toNat * 2 ^ 48))]

/-- A class-B fault (R362, R365, R368, R369): the warp parks, its record is formed, and the handler, Rhizome or the host
takes it. -/
def park (d : Dev) (k : CoreIx) (j : SlotIx) (w : Warp) (f : FaultInfo) : Dev :=
  let d := d.count w.ctx 13 1
  let rhizome (x : Context) : Bool := f.code < 0x10 && !x.hmask.testBit 15
  if w.inHandler then
    let r := d.record k j w f 1 true
    let w' := { w with nested := some r, status := .parked, wait := none, skip := 0, pass := false }
    match d.context w.ctx with
    | some x => if rhizome x then (d.putWarp k j { w' with wait := some .resident }).requestAll w.ctx f
        else (d.putWarp k j w').sendRecord (clusterOf k) w.ctx r
    | none => (d.putWarp k j w').sendRecord (clusterOf k) w.ctx r
  else
    let r := d.record k j w f 1 false
    let w' := { w with record := some r, parkPc := w.pc, status := .parked, wait := none, skip := 0, pass := false }
    match d.context w.ctx with
    | none => (d.putWarp k j w').sendRecord (clusterOf k) w.ctx r
    | some x =>
      if rhizome x then (d.putWarp k j { w' with wait := some .resident }).requestAll w.ctx f
      else match handlerPc x with
        | some pc => if handlerTakes x f.code then d.putWarp k j (enterHandler w r pc (spillArea x k j))
            else (d.putWarp k j w').sendRecord (clusterOf k) w.ctx r
        | none => (d.putWarp k j w').sendRecord (clusterOf k) w.ctx r

/-- Taking a fault of an instruction (R357): the class decides whether the task is aborted (R360), the warp parks (R362),
or the task or the context ends (R372). -/
def takeFault (d : Dev) (k : CoreIx) (j : SlotIx) (w : Warp) (f : FaultInfo) : Dev :=
  let abortable := !w.inHandler && (match d.task? w.task with
    | some t => t.idem && !t.committed && t.aborts < 8
    | none => false)
  let f := f.settle abortable
  if codeRank f.code = 2 then
    let d := (d.traceFault k j w f.code 2).sendRecord (clusterOf k) w.ctx (d.record k j w f 2 false)
    if f.code = Code.link then d.endTask w.task else d.endContext w.ctx
  else if codeRank f.code = 0 ∧ abortable then
    let d := ((d.traceFault k j w f.code 0).sendRecord (clusterOf k) w.ctx (d.record k j w f 0 false)).count w.ctx 12 1
    ((d.requestAll w.ctx f).abort w.task ((missingPages f).headD 0))
  else (d.traceFault k j w f.code 1).park k j w f

/-! ### Resumption -/

/-- The faulting instruction of a record is complete (R126). -/
def recordComplete (r : Vector Word 256) : Bool :=
  let code := (r[5] &&& 0xFF).toNat
  code == Code.trap || code == Code.brk

/-- RESUME and SKIP of a parked warp by the host or Rhizome: a nested fault goes on at the handler's instruction, another at
the recorded one (R367 to R369). -/
def resumeParked (w : Warp) (skip : Mask) : Warp :=
  let go (w : Warp) (r : Vector Word 256) : Warp :=
    if recordComplete r then w.finish else { w with wait := none, skip := skip }
  match w.nested with
  | some r => go { w with nested := none, status := .running } r
  | none => match w.record with
    | some r => go { w with record := none, status := .running } r
    | none => w

/-- A stack entry from its words (Table 5.1). -/
def stackEntryOf (w0 w1 w3 : Word) : StackEntry :=
  { mask := w3
    pending := w1.getLsbD 25
    pc := BitVec.ofNat 64 (canon57 ((w1.toNat % 2 ^ 25) * 2 ^ 32 + w0.toNat)) }

/-- What RTE restores from the record (R367). -/
def restoreRecord (w : Warp) (r : Vector Word 256) : Warp :=
  let at_ (n : Nat) : Word := (r[n]?).getD 0
  let depth := (at_ 5).toNat / 2 ^ 16 % 2 ^ 8
  let w := { w with
    m := at_ 2, x := at_ 3
    stack := ((List.range depth).map fun e =>
      stackEntryOf (at_ (144 + 4 * e)) (at_ (145 + 4 * e)) (at_ (147 + 4 * e))).reverse
    p := Vector.ofFn fun i => at_ (212 + i.val)
    mode := modeStored (at_ 220), stepPend := w.stepPend || w.stepAfter, stepAfter := false }
  (List.range 4).foldl (fun w i =>
    w.setW (wUp 28 i) (at_ (208 + i)) ((Tag.ofCode ((at_ 219).toNat / 2 ^ (4 * i) % 16)).getD .undef)) w

/-! ### Participation -/

/-- The participating lanes: active, guarded and not skipped (R26, R183, R367). -/
def participants (w : Warp) (c : Ctl) : Mask := w.m &&& w.guardMask c &&& ~~~w.skip

/-- The end of an instruction that does not transfer control. -/
def stepPast (d : Dev) (k : CoreIx) (j : SlotIx) : Dev := d.modWarp k j Warp.finish

/-- A warp that has no lane left ends (R122, R127). -/
def closeWarp (d : Dev) (k : CoreIx) (j : SlotIx) : Dev :=
  match d.slot k j with
  | some w => if w.isOver && w.status == .running then d.warpOver k j else d
  | none => d

/-- EXIT is held only where no lane goes on to the next instruction (R125, R142). -/
def leavesPath : Instr → Bool
  | .exit _ => true
  | _ => false

/-- What comes of an answer, for the warp as it stood at issue. -/
def settleAct (d0 : Dev) (k : CoreIx) (j : SlotIx) (w : Warp) (i : Instr) (c : Ctl) (p : Mask) (a : Act) : Dev :=
  let fail (d : Dev) (f : FaultInfo) : Dev :=
    let d := d.issued k j w i c p
    d.takeFault k j ((d.slot k j).getD w) f
  let seq (next : Dev) : Dev := match d0.seqFault k w with
    | some code => fail d0 (fetchInfo code w.m (nextPc w.pc))
    | none => next
  match a with
  | .done d => seq (((d.issued k j w i c p).stepPast k j).closeWarp k j)
  | .goto d => (d.issued k j w i c p).closeWarp k j
  | .placed d => seq ((d.issued k j w i c p).closeWarp k j)
  | .wait d why => seq ((d.issued k j w i c p).modWarp k j fun x => { x with wait := some why })
  | .hold d why =>
    let held := d.modWarp k j fun x => { x with wait := some why }
    if leavesPath i then held else seq held
  | .fault d f => fail d f

end Dev

/-- What an instruction's reads see of the warp's registers (R38, R39). -/
def Dev.sees (d : Dev) (w : Warp) (i : Instr) : Warp × List (Nat × Mask × Word) × Dev :=
  if d.interlocked w then (w, [], d) else d.hazardView (instrRegs i).2 w

/-- Where and with what an instruction of a warp issues. -/
def Dev.siteAt (d : Dev) (k : CoreIx) (j : SlotIx) (w : Warp) (i : Instr) (c : Ctl) (imm : Word) : Site :=
  let seen := d.sees w i
  { d := seen.2.2, k := k, j := j, w := w, c := c
    v := { r := seen.1, late := seen.2.1, sp := seen.2.2.specials k w, imm := imm, p := Dev.participants seen.1 c } }

/-- The OP of a memory instruction (Tables 5.4 and 10.4, R209). -/
def memoryOp (i : Instr) : Option Nat :=
  (i.toRaw.map fun r => r.op.toNat).filter fun n => (0x80 ≤ n && n ≤ 0x86) || n == 0x8A || n == 0x79 || n == 0x7A

/-- What a memory instruction without a participating lane does: it is counted, and its sample names no lane (R390, log 91). -/
def Site.idle (x : Site) (i : Instr) : Dev :=
  match memoryOp i with
  | none => x.d
  | some op => { x.d with draw := x.d.draw + 1 }.sampleNow x.k x.j x.w op [] 0 (Config.freeNat x.d.draw % 5)

/-- What the meaning of an instruction answers where it issues: no effect but its issue where no lane takes part (R26, R120). -/
def Site.act (x : Site) (i : Instr) (f : Site → Act) : Act := if x.p = 0 then .done (x.idle i) else x.orWalk (f x)

/-- An instruction of the warp in the current slot: it issues for the lanes of M, acts in those where its guard holds, and
has no effect but its issue where there is none (R26, R120). -/
def issue (i : Instr) (c : Ctl) (imm : Word) (f : Site → Act) (s : State) : Host.Outcome State Fault Refusal :=
  if !s.board.on then .fault .moduleOff
  else match s.dev.slot s.dev.curCore s.dev.curSlot with
    | none => .refused .noWarp
    | some w =>
      if !s.dev.canIssue w i c || !s.dev.pipeOpen s.dev.curCore s.dev.curSlot then .next s
      else
        let x := s.dev.siteAt s.dev.curCore s.dev.curSlot w i c imm
        .next { s with dev := x.d.settleAct x.k x.j w i c x.p (x.act i f) }

/-- A step of another agent: nothing where it has no work (log 2). -/
def agent (f : Dev → Dev) (s : State) : Host.Outcome State Fault Refusal :=
  if !s.board.on then .fault .moduleOff else .next { s with dev := f s.dev }

/-- A write of the host to a register page: none arrives while port 0 is down (R407). -/
def hostStep (f : Dev → Dev) (s : State) : Host.Outcome State Fault Refusal :=
  if !s.board.answers then .fault .moduleOff else .next { s with dev := if (s.dev.port 0).up then f s.dev else s.dev }

end Sys2Proof.Machine
end

