-- ==== Sys2Proof/Machine/IntOps.lean ====
section
/-! DEFINITION. The integer group (Tables 3.5, 4.1 and 4.2, R95 to R102). -/

namespace Sys2Proof.Machine

/-! ### Shared forms -/

/-- The width of a field marked * in bits (R95). -/
def starBits (wide : Bool) : Nat := if wide then 64 else 32

/-- Clamping under SAT and narrowing (R96). -/
def narrow (wide uns sat : Bool) (x : Int) : Nat :=
  let n := starBits wide
  let lo : Int := if uns then 0 else -(2 ^ (n - 1) : Nat)
  let hi : Int := if uns then (2 ^ n : Nat) - 1 else (2 ^ (n - 1) : Nat) - 1
  wrapN n (if sat then min (max x lo) hi else x)

/-- The number whose bit `i` below `n` is `f i`. -/
def ofBits (n : Nat) (f : Nat → Bool) : Nat := (List.range n).foldl (fun x i => if f i then x + 2 ^ i else x) 0

/-- Bit `i` of a three-input truth table (R97, R99). -/
def tableBit (table : BitVec 8) (a b c : Bool) : Bool :=
  table.getLsbD ((if a then 1 else 0) + (if b then 2 else 0) + (if c then 4 else 0))

/-- A register's bits under a tag: zeros above a scalar value of one or two bytes (R47). -/
def tagHeld (t : Tag) (x : Word) : Word :=
  match t with
  | .l8a | .l8b => x &&& 0xFF
  | .l16 => x &&& 0xFFFF
  | _ => x

namespace Site

/-- Arithmetic on two typed sources (R96). -/
def int2 (x : Site) (o : D2) (wide uns sat : Bool) (f : Int → Int → Int) : Act :=
  x.regs (checked x.v (x.v.isInt wide o.a && x.v.isInt wide o.b)
    (x.w.setStar wide o.d x.p fun l => narrow wide uns sat (f (x.v.int wide uns o.a l) (x.v.int wide uns o.b l))))

/-- Arithmetic on one typed source, signed (R96). -/
def int1 (x : Site) (o : D1) (wide sat : Bool) (f : Int → Int) : Act :=
  x.regs (checked x.v (x.v.isInt wide o.a)
    (x.w.setStar wide o.d x.p fun l => narrow wide false sat (f (x.v.int wide false o.a l))))

/-- A shift of the bits of a by a count of 0 to 255 (R97). -/
def shift (x : Site) (o : D2) (wide : Bool) (f : Nat → Nat → Nat) : Act :=
  x.regs (checked x.v (x.v.isBits wide o.a && x.v.defined 1 o.b)
    (x.w.setStar wide o.d x.p fun l => f (x.v.bits wide o.a l) ((x.v.word o.b l).toNat % 256)))

/-- A bitwise operation on two sources (R97). -/
def bits2 (x : Site) (o : D2) (wide : Bool) (f : Nat → Nat → Nat) : Act :=
  x.regs (checked x.v (x.v.isBits wide o.a && x.v.isBits wide o.b)
    (x.w.setStar wide o.d x.p fun l => f (x.v.bits wide o.a l) (x.v.bits wide o.b l)))

/-- A bitwise operation on one source (R97). -/
def bits1 (x : Site) (o : D1) (wide : Bool) (f : Nat → Nat) : Act :=
  x.regs (checked x.v (x.v.isBits wide o.a) (x.w.setStar wide o.d x.p fun l => f (x.v.bits wide o.a l)))

/-- A count of the bits of a source into one register (R97). -/
def countBits (x : Site) (o : D1) (wide : Bool) (f : Nat → Nat) : Act :=
  x.regs (checked x.v (x.v.isBits wide o.a)
    (x.w.setDst o.d 0 x.p (fun l => BitVec.ofNat 32 (f (x.v.bits wide o.a l))) .i32))

/-- Bits moved as they are into one register or a pair, with a tag for each register (R102). -/
def moveBits (x : Site) (d : Dst) (wide : Bool) (f : Lane → DWord) (t0 t1 : Tag) : Warp :=
  let w := x.w.setDst d 0 x.p (fun l => loWord (f l)) t0
  if wide then w.setDst d 1 x.p (fun l => hiWord (f l)) t1 else w

/-- A move of the values of one register or a pair with a tag for each register (R47, R100). -/
def move (x : Site) (d : Dst) (wide : Bool) (f : Lane → DWord) (t0 t1 : Tag) : Warp :=
  x.moveBits d wide (fun l => pairOf (tagHeld t0 (loWord (f l))) (tagHeld t1 (hiWord (f l)))) t0 t1

/-- A source of one register, or of a pair, as 64 bits. -/
def moved (x : Site) (wide : Bool) (a : Opnd) (l : Lane) : DWord :=
  if wide then x.v.pair a l else (x.v.word a l).setWidth 64

end Site

/-! ### Arithmetic -/

def execIadd (c : Ctl) (o : D2) (imm : Word) (w n sat : Bool) (s : State) : Host.Outcome State Fault Refusal :=
  issue (.iadd c o imm w n sat) c imm (fun x => x.int2 o w n sat (· + ·)) s

def execIsub (c : Ctl) (o : D2) (imm : Word) (w n sat : Bool) (s : State) : Host.Outcome State Fault Refusal :=
  issue (.isub c o imm w n sat) c imm (fun x => x.int2 o w n sat (· - ·)) s

def execImul (c : Ctl) (o : D2) (imm : Word) (w : Bool) (s : State) : Host.Outcome State Fault Refusal :=
  issue (.imul c o imm w) c imm (fun x => x.int2 o w false false (· * ·)) s

def execImulh (c : Ctl) (o : D2) (imm : Word) (w n : Bool) (s : State) : Host.Outcome State Fault Refusal :=
  issue (.imulh c o imm w n) c imm (fun x => x.int2 o w n false fun a b => a * b / (2 ^ starBits w : Nat)) s

def execImad (c : Ctl) (o : D3) (imm : Word) (w : Bool) (s : State) : Host.Outcome State Fault Refusal :=
  issue (.imad c o imm w) c imm (fun x =>
    x.regs (checked x.v (x.v.isInt w o.a && x.v.isInt w o.b && x.v.isInt w o.c)
      (x.w.setStar w o.d x.p fun l =>
        narrow w false false (x.v.int w false o.a l * x.v.int w false o.b l + x.v.int w false o.c l)))) s

def execImin (c : Ctl) (o : D2) (imm : Word) (w n : Bool) (s : State) : Host.Outcome State Fault Refusal :=
  issue (.imin c o imm w n) c imm (fun x => x.int2 o w n false min) s

def execImax (c : Ctl) (o : D2) (imm : Word) (w n : Bool) (s : State) : Host.Outcome State Fault Refusal :=
  issue (.imax c o imm w n) c imm (fun x => x.int2 o w n false max) s

def execIabs (c : Ctl) (o : D1) (imm : Word) (w sat : Bool) (s : State) : Host.Outcome State Fault Refusal :=
  issue (.iabs c o imm w sat) c imm (fun x => x.int1 o w sat fun a => (a.natAbs : Int)) s

def execIneg (c : Ctl) (o : D1) (imm : Word) (w sat : Bool) (s : State) : Host.Outcome State Fault Refusal :=
  issue (.ineg c o imm w sat) c imm (fun x => x.int1 o w sat fun a => -a) s

/-! ### Shifts and bitwise operations -/

/-- SHL: zero where the count reaches the width (Table 4.2). -/
def shlBits (n a k : Nat) : Nat := if n ≤ k then 0 else a * 2 ^ k % 2 ^ n
/-- SHR. -/
def shrBits (n a k : Nat) : Nat := if n ≤ k then 0 else a / 2 ^ k
/-- SAR: copies of the top bit. -/
def sarBits (n a k : Nat) : Nat := wrapN n (sextN n a / (2 ^ min k n : Nat))
/-- ROT: left by the count modulo the width. -/
def rotBits (n a k : Nat) : Nat := (a * 2 ^ (k % n) + a / 2 ^ (n - k % n)) % 2 ^ n

def execShl (c : Ctl) (o : D2) (imm : Word) (w : Bool) (s : State) : Host.Outcome State Fault Refusal :=
  issue (.shl c o imm w) c imm (fun x => x.shift o w (shlBits (starBits w))) s

def execShr (c : Ctl) (o : D2) (imm : Word) (w : Bool) (s : State) : Host.Outcome State Fault Refusal :=
  issue (.shr c o imm w) c imm (fun x => x.shift o w (shrBits (starBits w))) s

def execSar (c : Ctl) (o : D2) (imm : Word) (w : Bool) (s : State) : Host.Outcome State Fault Refusal :=
  issue (.sar c o imm w) c imm (fun x => x.shift o w (sarBits (starBits w))) s

def execRot (c : Ctl) (o : D2) (imm : Word) (w : Bool) (s : State) : Host.Outcome State Fault Refusal :=
  issue (.rot c o imm w) c imm (fun x => x.shift o w (rotBits (starBits w))) s

def execAnd (c : Ctl) (o : D2) (imm : Word) (w : Bool) (s : State) : Host.Outcome State Fault Refusal :=
  issue (.and c o imm w) c imm (fun x => x.bits2 o w (· &&& ·)) s

def execOr (c : Ctl) (o : D2) (imm : Word) (w : Bool) (s : State) : Host.Outcome State Fault Refusal :=
  issue (.or c o imm w) c imm (fun x => x.bits2 o w (· ||| ·)) s

def execXor (c : Ctl) (o : D2) (imm : Word) (w : Bool) (s : State) : Host.Outcome State Fault Refusal :=
  issue (.xor c o imm w) c imm (fun x => x.bits2 o w (· ^^^ ·)) s

def execNot (c : Ctl) (o : D1) (imm : Word) (w : Bool) (s : State) : Host.Outcome State Fault Refusal :=
  issue (.not c o imm w) c imm (fun x => x.bits1 o w fun a => 2 ^ starBits w - 1 - a) s

/-- BFN3 (Table 4.2). -/
def execBfn3 (c : Ctl) (o : D3) (table : BitVec 8) (w : Bool) (s : State) : Host.Outcome State Fault Refusal :=
  issue (.bfn3 c o table w) c 0 (fun x =>
    x.regs (checked x.v (x.v.isBits w o.a && x.v.isBits w o.b && x.v.isBits w o.c)
      (x.w.setStar w o.d x.p fun l =>
        let a := x.v.bits w o.a l
        let b := x.v.bits w o.b l
        let e := x.v.bits w o.c l
        ofBits (starBits w) fun i => tableBit table (a.testBit i) (b.testBit i) (e.testBit i)))) s

def execPopc (c : Ctl) (o : D1) (imm : Word) (w : Bool) (s : State) : Host.Outcome State Fault Refusal :=
  issue (.popc c o imm w) c imm (fun x => x.countBits o w fun a => popCount (BitVec.ofNat (starBits w) a)) s

/-- CLZ: the zero bits above the most significant set bit (Table 4.2). -/
def execClz (c : Ctl) (o : D1) (imm : Word) (w : Bool) (s : State) : Host.Outcome State Fault Refusal :=
  issue (.clz c o imm w) c imm
    (fun x => x.countBits o w fun a => if a = 0 then starBits w else starBits w - 1 - a.log2) s

def execBrev (c : Ctl) (o : D1) (imm : Word) (w : Bool) (s : State) : Host.Outcome State Fault Refusal :=
  issue (.brev c o imm w) c imm
    (fun x => x.bits1 o w fun a => ofBits (starBits w) fun i => a.testBit (starBits w - 1 - i)) s

/-- BFE's field (R98). -/
def bfeBits (uns : Bool) (x p l : Nat) : Nat :=
  if l = 0 ∨ 32 ≤ p then 0
  else
    let n := min (p + l) 32 - p
    let f := x / 2 ^ p % 2 ^ n
    if uns then f else wrapN 32 (sextN n f)

def execBfe (c : Ctl) (o : D3) (imm : Word) (n : Bool) (s : State) : Host.Outcome State Fault Refusal :=
  issue (.bfe c o imm n) c imm (fun x =>
    x.regs (checked x.v (x.v.defined 1 o.a && x.v.defined 1 o.b && x.v.defined 1 o.c)
      (x.w.setDst o.d 0 x.p (fun l => BitVec.ofNat 32
        (bfeBits n (x.v.word o.a l).toNat ((x.v.word o.b l).toNat % 256) ((x.v.word o.c l).toNat % 256))) .i32))) s

/-- BFI's result (R98). -/
def bfiBits (base ins ctl : Nat) : Nat :=
  let p := ctl % 256
  let l := ctl / 256 % 256
  if l = 0 ∨ 32 ≤ p then base
  else
    let n := min l (32 - p)
    base - base / 2 ^ p % 2 ^ n * 2 ^ p + ins % 2 ^ n * 2 ^ p

def execBfi (c : Ctl) (o : D3) (imm : Word) (s : State) : Host.Outcome State Fault Refusal :=
  issue (.bfi c o imm) c imm (fun x =>
    x.regs (checked x.v (x.v.defined 1 o.a && x.v.defined 1 o.b && x.v.defined 1 o.c)
      (x.w.setDst o.d 0 x.p (fun l => BitVec.ofNat 32
        (bfiBits (x.v.word o.a l).toNat (x.v.word o.b l).toNat (x.v.word o.c l).toNat)) .i32))) s

/-! ### Predicates, selection and moves -/

/-- The order comparisons on integers (Table 3.3); NUM and NAN are refused in ICMP (R99). -/
def cmpInt (k : Cmp) (a b : Int) : Bool :=
  match k with
  | .eq => a == b
  | .ne => a != b
  | .lt => a < b
  | .le => a ≤ b
  | .gt => b < a
  | .ge => b ≤ a
  | .num | .nan => false

def execIcmp (c : Ctl) (pd : Fin 8) (a b : Opnd) (imm : Word) (w n : Bool) (cmp : Cmp) (s : State) :
    Host.Outcome State Fault Refusal :=
  issue (.icmp c pd a b imm w n cmp) c imm (fun x =>
    x.regs (checked x.v (x.v.isInt w a && x.v.isInt w b)
      (x.w.setPred pd x.p (maskOf fun l => cmpInt cmp (x.v.int w n a l) (x.v.int w n b l))))) s

def execPcomb (c : Ctl) (pd pa pb pc : Fin 8) (table : BitVec 8) (s : State) : Host.Outcome State Fault Refusal :=
  issue (.pcomb c pd pa pb pc table) c 0 (fun x =>
    .done (x.put (x.w.setPred pd x.p (maskOf fun l =>
      tableBit table ((x.v.r.pred pa).getLsbD l.val) ((x.v.r.pred pb).getLsbD l.val) ((x.v.r.pred pc).getLsbD l.val))))) s

/-- The tag of register `i` of SEL's result, or none where the two sources' tags differ or one is UNDEF (R100). -/
def selTag (v : View) (wide : Bool) (a b : Opnd) (i : Nat) : Option Tag :=
  match v.tagAt a i, v.tagAt b i with
  | some t, some u => if t = u ∧ t ≠ .undef then some t else none
  | some t, none | none, some t => if t = .undef then none else some t
  | none, none => some (if wide then .i64 else .i32)

def execSel (c : Ctl) (o : D2) (p : Fin 8) (imm : Word) (w : Bool) (s : State) : Host.Outcome State Fault Refusal :=
  issue (.sel c o p imm w) c imm (fun x =>
    match selTag x.v w o.a o.b 0, (if w then selTag x.v w o.a o.b 1 else some .i32) with
    | some t0, some t1 =>
      .done (x.put (x.move o.d w (fun l =>
        if (x.v.r.pred p).getLsbD l.val then x.moved w o.a l else x.moved w o.b l) t0 t1))
    | _, _ => x.format) s

def execMov (c : Ctl) (o : D1) (imm : Word) (w : Bool) (s : State) : Host.Outcome State Fault Refusal :=
  issue (.mov c o imm w) c imm (fun x =>
    let t (i : Nat) : Tag := (x.v.tagAt o.a i).getD (if w then .i64 else .i32)
    x.regs (checked x.v (x.v.isBits w o.a) (x.move o.d w (x.moved w o.a) (t 0) (t 1)))) s

/-- LEA (R101). -/
def execLea (c : Ctl) (o : D2) (imm : Word) (n : Bool) (shift : Fin 8) (s : State) : Host.Outcome State Fault Refusal :=
  issue (.lea c o imm n shift) c imm (fun x =>
    x.regs (checked x.v (x.v.isInt true o.a && x.v.isInt false o.b)
      (x.w.setPair o.d x.p (fun l =>
        BitVec.ofInt 64 (x.v.int true true o.a l + x.v.int false n o.b l * (2 ^ shift.val : Nat))) .i64))) s

/-- RETAG (R102): the source is read whatever its tag. -/
def execRetag (c : Ctl) (tag : Tag) (o : D1) (imm : Word) (s : State) : Host.Outcome State Fault Refusal :=
  issue (.retag c tag o imm) c imm (fun x =>
    .done (x.put (x.moveBits o.d (tag == .i64) (x.moved (tag == .i64) o.a) tag tag))) s

end Sys2Proof.Machine
end

