-- ==== Sys2Proof/Machine/Limb.lean ====
section
/-! DEFINITION. Limb chains (Table 3.8, R198 to R208); the chain loads and stores stand with the memory group. -/

namespace Sys2Proof.Machine

/-- Lanes of a segment (R198). -/
def Chain.len (b : Chain) : Nat := 2 ^ (b.seg.val + 1)

/-- The lanes of segment g. -/
def Chain.mask (b : Chain) (g : Nat) : Mask := BitVec.ofNat 32 ((2 ^ b.len - 1) * 2 ^ (b.len * g))

/-- The segments in ascending order. -/
def Chain.segs (b : Chain) : List Nat := List.range (32 / b.len)

/-- A register lies in the bound range. -/
def Chain.has (b : Chain) (r : Fin 64) : Bool := b.first.val ≤ r.val && r.val < b.first.val + b.count

/-- The lane of limb i of segment g. -/
def Chain.lane (b : Chain) (g i : Nat) : Lane := ⟨(b.len * g + i) % 32, Nat.mod_lt _ (by decide)⟩

/-- A participating segment of a bound chain. -/
structure Seg where
  b : Chain
  g : Nat

namespace Site

/-- The integer that a register holds in a segment (R198). -/
def segVal (x : Site) (s : Seg) (r : Fin 64) : Nat :=
  (List.range s.b.len).foldl (fun n i => n + (x.v.r.vAt r (s.b.lane s.g i)).toNat * 2 ^ (32 * i)) 0

/-- The limb that an integer has in a lane of its segment. -/
def limbAt (s : Seg) (n : Nat) (l : Lane) : Word := BitVec.ofNat 32 (n / 2 ^ (32 * (l.val - s.b.len * s.g)))

/-- The flag of the top lane under `.ci`, else 0 (R203). -/
def carryIn (x : Site) (s : Seg) (ci : Bool) : Nat :=
  if ci && x.v.r.carry.getLsbD (s.b.len * s.g + s.b.len - 1) then 1 else 0

/-- The checks of R202, for an instruction whose chain operands are `regs`, of which `srcs` are read, and whose other
operands' tags are `tagsOk`; whole segments that a resumption skips take no part (R210). -/
def chainOp (x : Site) (regs srcs : List (Fin 64)) (tagsOk : Bool) (f : Chain → List Seg → Act) : Act :=
  match x.w.chain with
  | none => .fault x.d (.warpWide Code.limbUnbound x.p)
  | some b =>
    let live := b.segs.filter fun g => x.w.skip &&& b.mask g == 0 && x.p &&& b.mask g != 0
    if live.isEmpty then .done x.d
    else if !regs.all b.has then .fault x.d (.warpWide Code.limbUnbound x.p)
    else
      let split := live.filter fun g => x.p &&& b.mask g != b.mask g
      if !split.isEmpty then
        .fault x.d (.warpWide Code.limbDiverge (split.foldl (fun m g => m ||| b.mask g) 0))
      else if !(srcs.all fun r => x.v.r.vTag r == .limb) || !tagsOk then x.format
      else f b (live.map fun g => ⟨b, g⟩)

/-- Writes integers to a chain register in its participating segments, with the tag LIMB (R202). -/
def setChain (w : Warp) (d : Fin 64) (rs : List (Seg × Nat)) : Warp :=
  let p : Mask := rs.foldl (fun m r => m ||| r.1.b.mask r.1.g) 0
  let w := w.setV d p (fun l => match rs.find? fun r => (r.1.b.mask r.1.g).getLsbD l.val with
    | some r => limbAt r.1 r.2 l
    | none => 0) .limb
  { w with vt := w.vt.set d.val .limb }

/-- Writes the carry flags of segments; bit i of a number is the flag of limb i. -/
def setFlags (w : Warp) (rs : List (Seg × Nat)) : Warp :=
  { w with carry := rs.foldl (fun c r =>
      (c &&& ~~~(r.1.b.mask r.1.g)) ||| (BitVec.ofNat 32 (r.2 * 2 ^ (r.1.b.len * r.1.g)) &&& r.1.b.mask r.1.g)) w.carry }

/-- An instruction that writes each segment's integer and flags (R204 to R206). -/
def chainWrite (x : Site) (d : Fin 64) (rs : List (Seg × Nat × Nat)) : Act :=
  .done (x.put (setFlags (setChain x.w d (rs.map fun r => (r.1, r.2.1))) (rs.map fun r => (r.1, r.2.2))))

end Site

/-! ### Binding -/

/-- BIND (R200). -/
def execBind (c : Ctl) (seg : Fin 5) (first : Fin 64) (count : BitVec 7) (s : State) :
    Host.Outcome State Fault Refusal :=
  issue (.bind c seg first count) c 0 (fun x =>
    if x.p ≠ Mask.all then .fault x.d (.warpWide Code.limbDiverge x.p)
    else
      let b : Chain := { seg := seg, first := first, count := count.toNat }
      .done (x.put { x.w with
        chain := some b, carry := 0
        vt := Vector.ofFn fun r =>
          if b.has r then .limb
          else if x.w.chain.any fun o => o.has r then .i32
          else x.w.vTag r })) s

/-- UNBIND (R201). -/
def execUnbind (c : Ctl) (first : Fin 64) (count : BitVec 7) (s : State) : Host.Outcome State Fault Refusal :=
  issue (.unbind c first count) c 0 (fun x =>
    if x.p ≠ Mask.all then .fault x.d (.warpWide Code.limbDiverge x.p)
    else match x.w.chain with
      | none => .fault x.d (.warpWide Code.limbUnbound x.p)
      | some b =>
        if b.first ≠ first ∨ b.count ≠ count.toNat then .fault x.d (.warpWide Code.limbUnbound x.p)
        else .done (x.put { x.w with
          chain := none, vt := Vector.ofFn fun r => if b.has r then .i32 else x.w.vTag r })) s

/-! ### Arithmetic (R204 to R206) -/

/-- The carry flags of a + b + k over n limbs: bit i is the carry out of limb i. -/
def addFlags (n a b k : Nat) : Nat :=
  ofBits n fun i => 2 ^ (32 * (i + 1)) ≤ a % 2 ^ (32 * (i + 1)) + b % 2 ^ (32 * (i + 1)) + k

/-- The borrow flags of a − b − k. -/
def subFlags (n a b k : Nat) : Nat :=
  ofBits n fun i => a % 2 ^ (32 * (i + 1)) < b % 2 ^ (32 * (i + 1)) + k

/-- CHADD (R204). -/
def execChadd (c : Ctl) (d a b : Fin 64) (ci : Bool) (s : State) : Host.Outcome State Fault Refusal :=
  issue (.chadd c d a b ci) c 0 (fun x =>
    x.chainOp [d, a, b] [a, b] true fun ch gs => x.chainWrite d (gs.map fun g =>
      let k := x.carryIn g ci
      (g, (x.segVal g a + x.segVal g b + k) % 2 ^ (32 * ch.len),
        addFlags ch.len (x.segVal g a) (x.segVal g b) k))) s

/-- CHSUB (R204). -/
def execChsub (c : Ctl) (d a b : Fin 64) (ci : Bool) (s : State) : Host.Outcome State Fault Refusal :=
  issue (.chsub c d a b ci) c 0 (fun x =>
    x.chainOp [d, a, b] [a, b] true fun ch gs => x.chainWrite d (gs.map fun g =>
      let k := x.carryIn g ci
      (g, wrapN (32 * ch.len) ((x.segVal g a : Int) - x.segVal g b - k),
        subFlags ch.len (x.segVal g a) (x.segVal g b) k))) s

/-- CHNEG (R204). -/
def execChneg (c : Ctl) (d a : Fin 64) (s : State) : Host.Outcome State Fault Refusal :=
  issue (.chneg c d a) c 0 (fun x =>
    x.chainOp [d, a] [a] true fun ch gs => x.chainWrite d (gs.map fun g =>
      (g, wrapN (32 * ch.len) (-(x.segVal g a : Int)), subFlags ch.len 0 (x.segVal g a) 0))) s

/-- CHMAD (R205): the carry out of limb i is the high part of the product and sum over the limbs below i + 1. -/
def execChmad (c : Ctl) (d a : Fin 64) (b : Opnd) (e : Fin 64) (imm : Word) (ci : Bool) (s : State) :
    Host.Outcome State Fault Refusal :=
  issue (.chmad c d a b e imm ci) c imm (fun x =>
    x.chainOp [d, a, e] [a, e] (x.v.isInt false b) fun ch gs =>
      let m := (x.v.uniform b).toNat
      let carry (g : Seg) (i : Nat) : Nat :=
        (x.segVal g a % 2 ^ (32 * (i + 1)) * m + x.segVal g e % 2 ^ (32 * (i + 1)) + x.carryIn g ci) / 2 ^ (32 * (i + 1))
      let large := gs.filter fun g => 1 < carry g (ch.len - 1)
      if !large.isEmpty then
        .fault x.d (.warpWide Code.limbOvf (large.foldl (fun m g => m ||| ch.mask g.g) 0))
      else x.chainWrite d (gs.map fun g =>
        (g, (x.segVal g a * m + x.segVal g e + x.carryIn g ci) % 2 ^ (32 * ch.len),
          ofBits ch.len fun i => carry g i != 0))) s

/-- CHSHL (R206). -/
def execChshl (c : Ctl) (d a : Fin 64) (b : Opnd) (imm : Word) (s : State) : Host.Outcome State Fault Refusal :=
  issue (.chshl c d a b imm) c imm (fun x =>
    x.chainOp [d, a] [a] (x.v.isInt false b) fun ch gs =>
      let n := min (x.v.uniform b).toNat (32 * ch.len)
      x.chainWrite d (gs.map fun g =>
        let v := x.segVal g a * 2 ^ n
        (g, v % 2 ^ (32 * ch.len), if 2 ^ (32 * ch.len) ≤ v then 2 ^ (ch.len - 1) else 0))) s

/-- CHSHR (R206). -/
def execChshr (c : Ctl) (d a : Fin 64) (b : Opnd) (imm : Word) (arith : Bool) (s : State) :
    Host.Outcome State Fault Refusal :=
  issue (.chshr c d a b imm arith) c imm (fun x =>
    x.chainOp [d, a] [a] (x.v.isInt false b) fun ch gs =>
      let w := 32 * ch.len
      let n := min (x.v.uniform b).toNat w
      x.chainWrite d (gs.map fun g =>
        let v := x.segVal g a
        (g, if arith then sarBits w v n else v / 2 ^ n, if v % 2 ^ n = 0 then 0 else 1))) s

/-- CHCMP (R207). -/
def execChcmp (c : Ctl) (pd : Fin 8) (a b : Fin 64) (cmp : Cmp) (s : State) : Host.Outcome State Fault Refusal :=
  issue (.chcmp c pd a b cmp) c 0 (fun x =>
    x.chainOp [a, b] [a, b] true fun ch gs =>
      let p : Mask := gs.foldl (fun m g => m ||| ch.mask g.g) 0
      let on : Mask := gs.foldl (fun m g =>
        if cmpInt cmp (x.segVal g a) (x.segVal g b) then m ||| ch.mask g.g else m) 0
      .done (x.put (x.w.setPred pd p on))) s

/-- CHMVC (R208). -/
def execChmvc (c : Ctl) (d : Dst) (carryIn : Bool) (s : State) : Host.Outcome State Fault Refusal :=
  issue (.chmvc c d carryIn) c 0 (fun x =>
    x.chainOp [] [] true fun ch gs =>
      let p : Mask := gs.foldl (fun m g => m ||| ch.mask g.g) 0
      let top (l : Lane) : Nat := l.val / ch.len * ch.len + ch.len - 1
      .done (x.put (x.w.setDst d 0 p (fun l =>
        let src := if carryIn && l.val % ch.len != 0 then l.val - 1 else top l
        if x.v.r.carry.getLsbD src then 1 else 0) .i32))) s

end Sys2Proof.Machine
end

