-- ==== Sys2Proof/Machine/RealOps.lean ====
section
/-! DEFINITION. The real group (Table 3.6, R103 to R114) over the operations of `RealOp`: the elements of packed formats
(R48), the trap decision (R92) and the dither index (R63). -/

namespace Sys2Proof.Machine

/-- Element `j` of a register in a format (R47, R48). -/
def elemOf (f : Fmt) (x : Word) (j : Nat) : Num :=
  Num.ofCode f.elem (x.toNat / 2 ^ (f.elem.bits * j) % 2 ^ f.elem.bits)

/-- A register of elements (R47, R48). -/
def ofElems (f : Fmt) (xs : List Num) : Word :=
  BitVec.ofNat 32 (xs.zipIdx.foldl (fun w x => w + x.1.code f.elem * 2 ^ (f.elem.bits * x.2)) 0)

/-- A computation on each element, its events gathered (R48, R103). -/
def elements (f : Fmt) (r : RCtx) (op : RCtx → Nat → Res) : Word × Events :=
  let rs := (List.range f.count).map fun j => op (r.turn j) j
  (ofElems f (rs.map (·.1)), rs.foldl (fun e x => e ||| x.2) 0)

/-- A dither index of three raw sources (R63). -/
def dither3 (a b c : Word) : Word := a ^^^ b.rotateLeft 11 ^^^ c.rotateLeft 22

namespace Site

/-- The rounding of an instruction in a lane with a dither index (R57, R58, R63). -/
def rctx (x : Site) (rnd : Rnd) (ov : Ov) (l : Lane) (dither : Word) : RCtx :=
  rctxOf x.v.r.mode rnd ov (srValue x.v.sp[11] x.v.sp[10] l.val dither)

/-- A source carries a format's tag (R103). -/
def isReal (x : Site) (f : Fmt) (a : Opnd) : Bool := x.v.has f.tag 1 a

/-- An instruction that gathers events: ARITH where one is enabled, else the writes of its result (R92). -/
def eventful {α : Type} (x : Site) (d : Dst) (zero : α) (f : Lane → α × Events) (write : (Lane → α) → Warp) : Act :=
  let ls := Dst.lanes d x.p
  let res : Vector (α × Events) 32 := Vector.ofFn fun l => if ls.getLsbD l.val then f l else (zero, 0)
  if (List.finRange 32).any fun l => trapped x.v.r.mode res[l.val].2 then
    .fault x.d (.arith ((lanesOf x.p).map fun l => (l, res[l.val].2)))
  else .done (x.put (write fun l => res[l.val].1))

/-- A real result of one register (R103). -/
def realOp (x : Site) (d : Dst) (f : Fmt) (ok : Bool) (op : Lane → Word × Events) : Act :=
  if ok then x.eventful d 0 op fun r => x.w.setDst d 0 x.p r f.tag else x.format

/-- An operation of one real source. -/
def real1 (x : Site) (o : D1) (f : Fmt) (rnd : Rnd) (ov : Ov) (op : RCtx → Num → Res) : Act :=
  x.realOp o.d f (x.isReal f o.a) fun l =>
    elements f (x.rctx rnd ov l 0) fun r j => op r (elemOf f (x.v.real f o.a l) j)

/-- An operation of two real sources, its dither index read through an unused SRCC. -/
def real2 (x : Site) (o : D2) (f : Fmt) (rnd : Rnd) (ov : Ov) (op : RCtx → Num → Num → Res) : Act :=
  x.realOp o.d f (x.isReal f o.a && x.isReal f o.b) fun l =>
    elements f (x.rctx rnd ov l 0) fun r j => op r (elemOf f (x.v.real f o.a l) j) (elemOf f (x.v.real f o.b l) j)

/-- An operation of three real sources. -/
def real3 (x : Site) (o : D3) (f : Fmt) (rnd : Rnd) (ov : Ov) (op : RCtx → Num → Num → Num → Res) : Act :=
  x.realOp o.d f (x.isReal f o.a && x.isReal f o.b && x.isReal f o.c) fun l =>
    let a := x.v.real f o.a l
    let b := x.v.real f o.b l
    let c := x.v.real f o.c l
    elements f (x.rctx rnd ov l (dither3 a b c)) fun r j => op r (elemOf f a j) (elemOf f b j) (elemOf f c j)

/-- An operation of a real source and an integer (R106). -/
def realK (x : Site) (o : D2) (f : Fmt) (ov : Ov) (op : RCtx → Num → Int → Res) : Act :=
  x.realOp o.d f (x.isReal f o.a && x.v.isInt false o.b) fun l =>
    elements f (x.rctx .rn ov l 0) fun r j => op r (elemOf f (x.v.real f o.a l) j) (x.v.int false false o.b l)

/-- A register of a pair of reals; a constant stands in both (log 35). -/
def realPart (x : Site) (f : Fmt) (a : Opnd) (i : Nat) (l : Lane) : Word :=
  match a with
  | .v r => x.v.r.vAt (vUp r i) l
  | .w r => x.v.wAt (wUp r i) l
  | _ => x.v.real f a l

/-- A result of a pair of reals (R113). -/
def realPair (x : Site) (d : Dst) (f : Fmt) (ok : Bool) (op : Lane → (Num × Num) × Events) : Act :=
  if ok then x.eventful d (.zero false, .zero false) op fun r =>
    (x.w.setDst d 0 x.p (fun l => ofElems f [(r l).1]) f.tag).setDst d 1 x.p (fun l => ofElems f [(r l).2]) f.tag
  else x.format

end Site

def execGadd (c : Ctl) (o : D2) (imm : Word) (fmt : Fmt) (rnd : Rnd) (ov : Ov) (s : State) :
    Host.Outcome State Fault Refusal :=
  issue (.gadd c o imm fmt rnd ov) c imm (fun x => x.real2 o fmt rnd ov (RealOp.add fmt.elem)) s

def execGsub (c : Ctl) (o : D2) (imm : Word) (fmt : Fmt) (rnd : Rnd) (ov : Ov) (s : State) :
    Host.Outcome State Fault Refusal :=
  issue (.gsub c o imm fmt rnd ov) c imm (fun x => x.real2 o fmt rnd ov (RealOp.sub fmt.elem)) s

def execGmul (c : Ctl) (o : D2) (imm : Word) (fmt : Fmt) (ov : Ov) (s : State) : Host.Outcome State Fault Refusal :=
  issue (.gmul c o imm fmt ov) c imm (fun x => x.real2 o fmt .rn ov (RealOp.mul fmt.elem)) s

def execGdiv (c : Ctl) (o : D2) (imm : Word) (fmt : Fmt) (ov : Ov) (s : State) : Host.Outcome State Fault Refusal :=
  issue (.gdiv c o imm fmt ov) c imm (fun x => x.real2 o fmt .rn ov (RealOp.div fmt.elem)) s

def execGmad (c : Ctl) (o : D3) (imm : Word) (fmt : Fmt) (rnd : Rnd) (ov : Ov) (s : State) :
    Host.Outcome State Fault Refusal :=
  issue (.gmad c o imm fmt rnd ov) c imm (fun x => x.real3 o fmt rnd ov (RealOp.mad fmt.elem)) s

def execGsqrt (c : Ctl) (o : D1) (imm : Word) (fmt : Fmt) (s : State) : Host.Outcome State Fault Refusal :=
  issue (.gsqrt c o imm fmt) c imm (fun x => x.real1 o fmt .rn .dflt fun _ => RealOp.sqrt fmt.elem) s

def execGrsq (c : Ctl) (o : D1) (imm : Word) (fmt : Fmt) (rnd : Rnd) (ov : Ov) (s : State) :
    Host.Outcome State Fault Refusal :=
  issue (.grsq c o imm fmt rnd ov) c imm (fun x => x.real1 o fmt rnd ov (RealOp.rsq fmt.elem)) s

def execGrcp (c : Ctl) (o : D1) (imm : Word) (fmt : Fmt) (ov : Ov) (msk : Bool) (s : State) :
    Host.Outcome State Fault Refusal :=
  issue (.grcp c o imm fmt ov msk) c imm
    (fun x => x.real1 o fmt .rn ov fun r a => RealOp.rcp fmt.elem r msk a) s

def execGmin (c : Ctl) (o : D2) (imm : Word) (fmt : Fmt) (s : State) : Host.Outcome State Fault Refusal :=
  issue (.gmin c o imm fmt) c imm
    (fun x => x.real2 o fmt .rn .dflt fun _ a b => (RealOp.pick fmt.elem false a b, 0)) s

def execGmax (c : Ctl) (o : D2) (imm : Word) (fmt : Fmt) (s : State) : Host.Outcome State Fault Refusal :=
  issue (.gmax c o imm fmt) c imm
    (fun x => x.real2 o fmt .rn .dflt fun _ a b => (RealOp.pick fmt.elem true a b, 0)) s

def execGabs (c : Ctl) (o : D1) (imm : Word) (fmt : Fmt) (s : State) : Host.Outcome State Fault Refusal :=
  issue (.gabs c o imm fmt) c imm (fun x => x.real1 o fmt .rn .dflt fun _ a => (a.abs, 0)) s

def execGneg (c : Ctl) (o : D1) (imm : Word) (fmt : Fmt) (s : State) : Host.Outcome State Fault Refusal :=
  issue (.gneg c o imm fmt) c imm (fun x => x.real1 o fmt .rn .dflt fun _ a => (a.negate, 0)) s

def execGscale (c : Ctl) (o : D2) (imm : Word) (fmt : Fmt) (ov : Ov) (s : State) : Host.Outcome State Fault Refusal :=
  issue (.gscale c o imm fmt ov) c imm (fun x => x.realK o fmt ov (RealOp.scale fmt.elem)) s

def execGpow (c : Ctl) (o : D2) (imm : Word) (fmt : Fmt) (ov : Ov) (s : State) : Host.Outcome State Fault Refusal :=
  issue (.gpow c o imm fmt ov) c imm (fun x => x.realK o fmt ov (RealOp.pow fmt.elem)) s

/-- GCMP (R109). -/
def execGcmp (c : Ctl) (pd : Fin 8) (a b : Opnd) (imm : Word) (fmt : Fmt) (cmp : Cmp) (s : State) :
    Host.Outcome State Fault Refusal :=
  issue (.gcmp c pd a b imm fmt cmp) c imm (fun x =>
    x.regs (checked x.v (x.isReal fmt a && x.isReal fmt b)
      (x.w.setPred pd x.p (maskOf fun l =>
        RealOp.cmp fmt cmp (elemOf fmt (x.v.real fmt a l) 0) (elemOf fmt (x.v.real fmt b l) 0))))) s

/-- GCLASS (R110). -/
def execGclass (c : Ctl) (o : D1) (imm : Word) (fmt : Fmt) (s : State) : Host.Outcome State Fault Refusal :=
  issue (.gclass c o imm fmt) c imm (fun x =>
    x.regs (checked x.v (x.isReal fmt o.a)
      (x.w.setDst o.d 0 x.p (fun l => RealOp.cls fmt (elemOf fmt (x.v.real fmt o.a l) 0)) .i32))) s

def execGexp2 (c : Ctl) (o : D3) (imm : Word) (fmt : Fmt) (rnd : Rnd) (ov : Ov) (msk : Bool) (s : State) :
    Host.Outcome State Fault Refusal :=
  issue (.gexp2 c o imm fmt rnd ov msk) c imm
    (fun x => x.real3 o fmt rnd ov fun r a b e => RealOp.exp2 fmt.elem r msk a b e) s

def execGlog2 (c : Ctl) (o : D1) (imm : Word) (fmt : Fmt) (rnd : Rnd) (ov : Ov) (s : State) :
    Host.Outcome State Fault Refusal :=
  issue (.glog2 c o imm fmt rnd ov) c imm (fun x => x.real1 o fmt rnd ov (RealOp.log2 fmt.elem)) s

def execGtanh (c : Ctl) (o : D1) (imm : Word) (fmt : Fmt) (rnd : Rnd) (ov : Ov) (s : State) :
    Host.Outcome State Fault Refusal :=
  issue (.gtanh c o imm fmt rnd ov) c imm (fun x => x.real1 o fmt rnd ov (RealOp.tanh fmt.elem)) s

def execGsig (c : Ctl) (o : D1) (imm : Word) (fmt : Fmt) (rnd : Rnd) (ov : Ov) (s : State) :
    Host.Outcome State Fault Refusal :=
  issue (.gsig c o imm fmt rnd ov) c imm (fun x => x.real1 o fmt rnd ov (RealOp.sig fmt.elem)) s

/-- WSTEP (R113). -/
def execWstep (c : Ctl) (o : D3) (imm : Word) (fmt : Fmt) (rnd : Rnd) (ov : Ov) (s : State) :
    Host.Outcome State Fault Refusal :=
  issue (.wstep c o imm fmt rnd ov) c imm (fun x =>
    x.realPair o.d fmt (x.v.has fmt.tag 2 o.a && x.isReal fmt o.b && x.v.isInt false o.c) fun l =>
      let st (i : Nat) : Word := x.realPart fmt o.a i l
      let b := x.v.real fmt o.b l
      RealOp.wstep fmt (x.rctx rnd ov l (dither3 (st 0) b (x.v.word o.c l))) (elemOf fmt (st 0) 0)
        (elemOf fmt (st 1) 0) (elemOf fmt b 0) (x.v.int false false o.c l)) s

/-- WMERGE (R114). -/
def execWmerge (c : Ctl) (o : D3) (imm : Word) (fmt : Fmt) (rnd : Rnd) (ov : Ov) (s : State) :
    Host.Outcome State Fault Refusal :=
  issue (.wmerge c o imm fmt rnd ov) c imm (fun x =>
    x.realPair o.d fmt (x.v.has fmt.tag 2 o.a && x.v.has fmt.tag 2 o.b && x.v.isInt true o.c) fun l =>
      let sa (i : Nat) : Word := x.realPart fmt o.a i l
      let sb (i : Nat) : Word := x.realPart fmt o.b i l
      let n := x.v.pair o.c l
      RealOp.wmerge fmt (x.rctx rnd ov l (dither3 (sa 0) (sb 0) (loWord n))) (elemOf fmt (sa 0) 0) (elemOf fmt (sa 1) 0)
        (elemOf fmt (sb 0) 0) (elemOf fmt (sb 1) 0) (loWord n).toNat (hiWord n).toNat) s

end Sys2Proof.Machine
end

