-- ==== Sys2Proof/Machine/Release.lean ====
section
/-! DEFINITION. A release, which holds its warp through four steps (R142, R227, R231, R253, R370, R371). -/

namespace Sys2Proof.Machine

/-- Step 1 of a release is over (R253): loads have their data, and nothing of a store is on its way. -/
def Warp.drained (w : Warp) : Bool :=
  w.loads.isEmpty && w.stores.all fun p => p.flight.isEmpty && p.red.isEmpty && p.stat.isNone && !p.sent

/-- A release of the warp has begun: it goes on to its end (R142). -/
def Warp.releasing (w : Warp) : Bool :=
  match w.wait with
  | some (.release _) => true
  | _ => false

/-- The warp is one of a region's OWNER (R165, R227): its band, or its task. -/
def Warp.owns (w : Warp) (o : Owner) : Bool := o == w.owner || o == .task w.task

namespace Site

/-- Step 4 of a release at SYSTEM scope: zero-length reads behind the warp's window stores, for which the warp waits. -/
def readPorts (x : Site) (d : Dev) (f : Dev → Act) : Act :=
  match (d.slot x.k x.j).map (·.ports) with
  | some (p :: ps) =>
    if (p :: ps).any fun q => !(d.port q).up then .fault d (.warpWide Code.link x.p)
    else
      .hold ((p :: ps).foldl (fun d q => d.modPort q fun y =>
        { y with zreads := y.zreads ++ [(y.posted.length, some (x.k, x.j))] }) d) (.release 2)
  | _ => f d

/-- Steps 3 and 4 of a release. -/
def releaseHome (x : Site) (scope : Scope) (d : Dev) (f : Dev → Act) : Act :=
  match if scope == .die || scope == .system then d.writeBackRegions x.k x.j (fun r => x.w.owns r.owner) else .ok d with
  | .error e => x.wbFaultAt d e
  | .ok d => if scope = .system then x.readPorts d f else f d

/-- Step 2 of a release: the lines are recorded CORE, or the task's dirty lines are probed; a single one is written at once,
several one by one while the warp is held. -/
def releaseLines (x : Site) (scope : Scope) (f : Dev → Act) : Act :=
  if x.d.recorded x.w.ctx && scope == .core then x.releaseHome scope (x.d.recordLines x.k x.w.task) f
  else match x.d.probe x.k (x.d.dirtyLines x.k fun l => l.owner.2 == x.w.task) with
    | .error e => x.wbFault e
    | .ok (a :: b :: t) => .hold (x.d.modWarp x.k x.j fun w => { w with
        flushing := (a :: b :: t).map fun y => (y.1.va, y.2.pa, y.2.key) }) (.release 3)
    | .ok ls => x.releaseHome scope (ls.foldl (fun d y => d.flushLine x.k y.1 y.2) x.d) f

/-- A release (R253), after which an instruction goes on: held until each step is over, its faults attributed to the
instruction. -/
def releaseThen (x : Site) (scope : Scope) (f : Dev → Act) : Act :=
  if x.w.wait = some (.release 2) then
    if (List.finRange 6).any fun p => (x.d.port p).zreads.any fun z => z.2 == some (x.k, x.j) then
      .hold x.d (.release 2)
    else f (x.d.modWarp x.k x.j fun w => { w with ports := [] })
  else if x.w.wait = some (.release 3) then
    let d := x.d.writeLines x.k x.j fun _ => true
    match x.d.lateRefusal x.k x.w fun _ => true with
    | some e => x.wbFaultAt d e
    | none => x.releaseHome scope d f
  else if !x.w.drained then .hold x.d (.release 1)
  else x.releaseLines scope f

end Site

end Sys2Proof.Machine
end

