-- ==== Sys2Proof/Machine/Submit.lean ====
section
/-! DEFINITION. Log rings (R410) and the engine error log (Table 12.6), dependence counters (R171 to R173), and the
submission of a task (R157 to R159, R444). -/

namespace Sys2Proof.Machine

/-! ### Log rings -/

namespace Reason
/-- Why an engine ends a command with an error (Table 12.6). -/
abbrev unmapped : Nat := 1
abbrev perm : Nat := 2
abbrev noncanon : Nat := 3
abbrev dbMismatch : Nat := 4
abbrev link : Nat := 5
abbrev ecc : Nat := 6
abbrev violation : Nat := 7
abbrev ring : Nat := 8
abbrev receiver : Nat := 9
abbrev rescale : Nat := 10
abbrev poison : Nat := 11
abbrev window : Nat := 12
abbrev localGone : Nat := 13
abbrev align : Nat := 14
end Reason

/-- The reason that a failed translation gives (Table 12.6). -/
def reasonOf (va code : Nat) : Nat :=
  if code = Code.violation then Reason.violation
  else if code = Code.accessPerm then Reason.perm
  else if code = Code.link then Reason.link
  else if canonical va then Reason.unmapped else Reason.noncanon

namespace Dev

/-- Appends an entry to a log ring (R410), behind the earlier writes of its port; it is lost where that is down (R406, R407). -/
def ringAppend (d : Dev) (base count : Nat) (entry : Nat) : Dev :=
  if (portOf base).any fun p => !(d.port p).up then d
  else
  let d := match portOf base with
    | some p => d.flushPort p
    | none => d
  let write := d.rawNat base 8
  let read := d.rawNat (base + 8) 8
  let d := if (write + 2 ^ 64 - read) % 2 ^ 64 < count then
      d.putRaw (base + 16 + 16 * (write % count)) (leBytes 16 entry)
    else d
  d.putRaw base (leBytes 8 ((write + 1) % 2 ^ 64))

/-- Appends an entry to a context's engine error log (Table 12.6), which counts under R393. -/
def logError (d : Dev) (c : CtxIx) (reason kind : Nat) (addr : DWord) (by_ : Option Issuer) : Dev :=
  match d.context c with
  | none => d
  | some x =>
    let who := match by_ with
      | some b => coreInCluster b.core * 2 ^ 30 + (clusterOf b.core).val * 2 ^ 27 + b.slot.val * 2 ^ 21
      | none => 0
    d.ringAppend x.errlog x.errcnt (addr.toNat * 2 ^ 64 + reason * 2 ^ 40 + kind * 2 ^ 36 + who)

/-! ### Dependence counters -/

/-- A counter with value 0, ERR clear and no waiters (R171). -/
def depZero : DepCounter := { value := 0, err := false, waiters := [] }

def dep (d : Dev) (cl : ClusterIx) (i : BitVec 12) : DepCounter := Sparse.get depZero (d.cluster cl).deps i.toNat

def putDep (d : Dev) (cl : ClusterIx) (i : BitVec 12) (x : DepCounter) : Dev :=
  d.modCluster cl fun c => { c with deps := Sparse.set depZero i.toNat x c.deps }

/-- The cluster and the index of a counter reference (Table 6.3). -/
def depRef (r : BitVec 16) : ClusterIx × BitVec 12 :=
  (⟨fieldOf r 14 12 % 8, Nat.mod_lt _ (by decide)⟩, r.setWidth 12)

/-- A task becomes ready (R171), or is skipped (R173). -/
def makeReady (d : Dev) (t : Nat) (err : Bool) : Dev :=
  d.modTask t fun x =>
    let x := { x with inErr := err, readySince := d.clock }
    if err && !x.errrun then { x with state := .completing } else { x with state := .readyToCapture }

/-- Arm (Table 6.6a). -/
def depArm (d : Dev) (cl : ClusterIx) (i : BitVec 12) (n : Nat) : Dev :=
  let x := d.dep cl i
  let err := if x.value = 0 ∧ x.waiters = [] then false else x.err
  let sum := x.value.toNat + n
  d.putDep cl i { x with value := BitVec.ofNat 16 (min sum 65535), err := err || 65535 < sum }

/-- Wait (Table 6.6a). -/
def depWait (d : Dev) (cl : ClusterIx) (i : BitVec 12) (t : Nat) : Dev :=
  let x := d.dep cl i
  if x.value = 0 then d.makeReady t x.err
  else (d.putDep cl i { x with waiters := x.waiters ++ [t] }).modTask t fun y => { y with state := .waiting }

/-- Decrement, and Release at zero (Table 6.6a). -/
def depDec (d : Dev) (cl : ClusterIx) (i : BitVec 12) (err : Bool) : Dev :=
  let x := d.dep cl i
  if x.value = 0 then d.putDep cl i { x with err := true }
  else
    let x := { x with value := x.value - 1, err := x.err || err }
    if x.value = 0 then
      x.waiters.foldl (fun d t => d.makeReady t x.err) (d.putDep cl i { x with waiters := [] })
    else d.putDep cl i x

/-- Consecutive decrements (R197). -/
def depDecs (d : Dev) (cl : ClusterIx) (i : BitVec 12) (err : Bool) : Nat → Dev
  | 0 => d
  | n + 1 => (d.depDec cl i err).depDecs cl i err n

/-! ### Submission -/

/-- A page is mapped so that the context has a right to it, whether or not it is resident (Table 6.4). -/
def rightTo (d : Dev) (c : CtxIx) (va : Nat) (acc : Access) : Bool :=
  match d.translate c va acc with
  | .ok _ => true
  | .error e => e == Code.notres

/-- The launch checks (Table 6.4). -/
def launchOk (d : Dev) (t : Task) (x : Context) : Bool :=
  t.field 511 448 == 0 && t.field 447 424 == 0 && t.field 383 368 == 0 && t.field 159 158 == 0 && t.field 151 149 == 0 &&
    1 ≤ t.warpCount && t.paramlen ≤ 256 &&
    validPc (t.entry % 64) && (x.objs.any fun o => o.id == t.codeobj && o.cls ≤ 1) &&
    t.bandsz ≤ 512 && (!t.gang || 1 ≤ t.bandsz) && (t.gang || t.bandsz ≤ 64) &&
    t.spbytes % 256 == 0 && t.spbytes ≤ 0x40000 &&
    canonical t.paramVa && t.paramVa % 16 == 0 &&
    (((List.range t.paramlen).map fun i => (t.paramVa + i) / 0x10000).eraseDups.all fun p =>
      d.rightTo t.ctx (max (p * 0x10000) t.paramVa) .read) &&
    (t.ctgt == 0 || (canonical t.ctgt && t.ctgt % 8 == 0 && d.rightTo t.ctx t.ctgt .write)) &&
    (t.depinit == 0 || t.depwait.getLsbD 15) &&
    (t.clmask == 0 || (List.finRange 8).any fun n => t.clmask.testBit n.val && d.clusterOn n)

/-- The home cluster of a task (R444), free where the manual leaves the choice to Rhizome. -/
def homeOf (d : Dev) (t : Task) (cl : ClusterIx) : ClusterIx × Dev :=
  if t.clmask = 0 ∨ t.clmask.testBit cl.val then (cl, d)
  else
    let ok := (List.finRange 8).filter fun n => t.clmask.testBit n.val && d.clusterOn n
    let (n, d) := d.drawn
    ((ok[Config.freeNat n % ok.length]?).getD cl, d)

/-- A handle that no task of a cluster has, a free choice (Table 6.5, log 18). -/
def freeHandle (d : Dev) (cl : ClusterIx) : BitVec 16 × Dev :=
  let (n, d) := d.drawn
  let used := (d.tasks.filter fun t => t.home == cl).map fun t => t.handle.toNat
  let any : BitVec 16 := (Config.freeWord n).setWidth 16
  (if used.contains any.toNat then BitVec.ofNat 16 (((List.range (used.length + 1)).find? fun n => !used.contains n).getD 0)
    else any, d)

/-- A submission whose TCB has been read: checks, arm and wait (R159). -/
def submitRead (d : Dev) (cl : ClusterIx) (c : CtxIx) (va : Nat) (tcb : BitVec 512) : Dev :=
  match d.context c with
  | none => d
  | some x =>
    let (id, d) := d.freshId
    let t : Task := {
      id := id, ctx := c, tcb := tcb, tcbVa := va, handle := 0, home := cl, state := .ready, inErr := false
      killed := false, faulted := false, launchErr := false, aborts := 0, committed := false, param := 0, placed := 0
      done := 0, readySince := d.clock, waitVa := 0 }
    if !d.launchOk t x then
      let (h, d) := d.freeHandle cl
      { d with tasks := d.tasks ++ [{ t with handle := h, launchErr := true, state := .completing }] }
    else
      let (home, d) := d.homeOf t cl
      let (h, d) := d.freeHandle home
      let d := { d with tasks := d.tasks ++ [{ t with home := home, handle := h }] }
      if t.depwait.getLsbD 15 then
        let r := depRef t.depwait
        let d := if t.depinit = 0 then d else d.depArm r.1 r.2 t.depinit
        d.depWait r.1 r.2 id
      else d.makeReady id false

/-- What reading a TCB finds (R159): its bytes, that its page is not resident, or a reason (Table 12.6). -/
inductive TcbRead where
  | tcb (x : BitVec 512)
  | absent
  | failed (reason : Nat)
  deriving DecidableEq, Repr

/-- Reads a TCB once, at home. -/
def readTcb (d : Dev) (c : CtxIx) (va : Nat) : TcbRead :=
  match d.translate c va .read with
  | .ok t =>
    if (portOf t.pa).any fun p => !(d.port p).up then .failed Reason.link
    else .tcb (BitVec.ofNat 512 (leNat (d.readBytes t.key t.pa 64)))
  | .error e => if e = Code.notres then .absent else .failed (reasonOf va e)

/-- A submission (R159): the device after it, and whether it was refused without a task. -/
def submit (d : Dev) (s : Submission) : Dev × Bool :=
  match d.readTcb s.ctx s.va with
  | .tcb x => (d.submitRead s.cluster s.ctx s.va x, false)
  | .absent => ({ d with submissions := d.submissions ++ [s] }.request s.ctx s.va, false)
  | .failed reason =>
    (match s.by_ with
      | some b => d.logError s.ctx reason 9 (BitVec.ofNat 64 s.va) (some b)
      | none => d, true)

end Dev

end Sys2Proof.Machine
end

