-- ==== Sys2Proof/Machine/Rings.lean ====
section
/-! DEFINITION. Completion of host packets (R412, R414), SIGNAL (R413), and the posted writes of ports (R406). -/

namespace Sys2Proof.Machine

namespace PktStatus
/-- Completion status of a packet (R412). -/
abbrev ok : Nat := 0
abbrev badpkt : Nat := 1
abbrev noctx : Nat := 2
abbrev perm : Nat := 3
abbrev scan : Nat := 4
abbrev sig : Nat := 5
abbrev svn : Nat := 6
abbrev busy : Nat := 7
abbrev link : Nat := 8
abbrev fwreset : Nat := 9
abbrev ended : Nat := 10
end PktStatus

namespace Dev

/-- The reason for which a completion record's address cannot be written (Table 12.6); none where it can. -/
def recordReason (d : Dev) (c : CtxIx) (va : Nat) : Option Nat :=
  if va % 8 ≠ 0 then some Reason.align
  else match d.translate c va .write with
    | .ok _ => none
    | .error e => some (reasonOf va e)

/-- A completion record (R174, R412). -/
def recordBytes (val : Word) (status : Nat) : List Byte := leBytes 8 (val.toNat + status * 2 ^ 32)

/-- A packet's completion record (R412): at a physical address for the packets that name one
(only where the firmware's write is sent, R421), else through the context. -/
def writeCaddr (d : Dev) (h : PktHdr) (status : Nat) (physical : Bool) : Dev :=
  let va := h.caddr.toNat
  if va = 0 ∨ status = PktStatus.noctx then d
  else if physical then
    if va % 8 = 0 ∧ va < 2 ^ 48 ∧ d.fwSent va 8 then
      (d.sendTo d.pfkey va (recordBytes h.cval status)).writtenBy 0 d.regWrites.length
    else d
  else match d.recordReason h.ctx va with
    | some r => d.logError h.ctx r 8 h.caddr none
    | none => match d.translate h.ctx va .write with
      | .ok t => (d.sendTo t.key t.pa (recordBytes h.cval status)).writtenBy (d.partOf h.ctx) d.regWrites.length
      | .error _ => d

/-- A command of a ring leaves the ring's list and its record is written (R412, R414). -/
def finishPacket (d : Dev) (q : RingIx) (n : Nat) (status : Nat) : Dev :=
  match (d.ring q).cmds.find? fun c => c.n == n with
  | none => d
  | some c => (d.modRing q fun r => { r with cmds := r.cmds.filter fun x => x.n != n }).writeCaddr c.hdr status false

/-- A SIGNAL at its turn (R412, R413), with the rights of its use: the device after it, and its status once it is over. A store into a window is over when the
port's writes are at home (R406). -/
def signal (d : Dev) (c : CtxIx) (addr value : DWord) (add : Bool) : Dev × Option Nat :=
  match d.translate c addr.toNat .write with
  | .error _ => (d, some PktStatus.badpkt)
  | .ok t =>
    match portOf t.pa with
    | none =>
      let old := if add then leNat (d.readBytes t.key t.pa 8) else 0
      ((d.writeBytes t.key t.pa (leBytes 8 ((old + value.toNat) % 2 ^ 64))).writtenBy (d.partOf c) d.regWrites.length,
        some PktStatus.ok)
    | some p =>
      if !(d.port p).up then (d, some PktStatus.link)
      else if add then
        let d := d.flushPort p
        let old := leNat (d.readBytes t.key t.pa 8)
        (d.writeBytes t.key t.pa (leBytes 8 ((old + value.toNat) % 2 ^ 64)), some PktStatus.ok)
      else (d.sendTo t.key t.pa (leBytes 8 value.toNat), none)

/-- SIGNALs whose earlier packets have completed take their turn (R414). -/
def runSignals (d : Dev) (q : RingIx) : Nat → Dev
  | 0 => d
  | fuel + 1 =>
    match (d.ring q).cmds with
    | [] => d
    | c :: _ =>
      match c.work with
      | .signal addr value add =>
        if (d.context c.hdr.ctx).any Context.ended then (d.finishPacket q c.n PktStatus.ended).runSignals q fuel
        else match d.signal c.hdr.ctx addr value add with
        | (d, some status) => (d.finishPacket q c.n status).runSignals q fuel
        | (d, none) => let p := ((d.translate c.hdr.ctx addr.toNat .write).toOption.bind fun t => portOf t.pa)
          d.modRing q fun r =>
            { r with cmds := r.cmds.map fun x => if x.n == c.n then { x with work := .home p } else x }
      | _ => d

/-- A command of a ring completes, and the SIGNALs that waited for it take their turn. -/
def completePacket (d : Dev) (q : RingIx) (n : Nat) (status : Nat) : Dev :=
  (d.finishPacket q n status).runSignals q (d.ring q).cmds.length

/-- Commands whose writes were on their way through a port complete once none of the device's own is left there, a TRACE_STOP
once its capture is over (R389). -/
def settleHome (d : Dev) : Dev :=
  let d := d.traceShow
  if (List.finRange 6).any fun p => (d.port p).posted.any fun w => w.by_.isNone then d
  else
    let due : List (RingIx × Nat) := (List.finRange 9).flatMap fun f => (List.finRange 16).flatMap fun r =>
      ((d.ring ⟨f, r⟩).cmds.filter fun c => match c.work with
        | .home p => p.isSome || !(d.trace.any fun t => t.closed)
        | _ => false).map fun c => (⟨f, r⟩, c.n)
    due.foldl (fun d x => d.completePacket x.1 x.2 PktStatus.ok) d

/-- The posted writes of a port reach home in order (R406): a read that follows them pushes them there. -/
def drainPort (d : Dev) (p : PortIx) : Dev := (d.flushPort p).settleHome

end Dev

end Sys2Proof.Machine
end

