-- ==== Sys2Proof/Machine/Tsr.lean ====
section
/-! DEFINITION. Tensor statistics records: the pool (R335), the elements an update counts (R337), updates at the record's
home (R334, R337), the reset (R342) and the scale that a record gives (R344). -/

namespace Sys2Proof.Machine

/-! ### What an update adds -/

namespace TsrDelta

/-- The update that changes nothing. -/
def empty : TsrDelta := { adds := [], maxlog := none }

/-- Adds to a word of the record. -/
def add (t : TsrDelta) (word n : Nat) : TsrDelta :=
  { t with adds := Sparse.set 0 word (Sparse.get 0 t.adds word + n) t.adds }

/-- The larger of two magnitudes as L32 codes, by the key of R49. -/
def larger (a b : Word) : Word :=
  match (Num.ofCode .l32 a.toNat).abs.key .l32, (Num.ofCode .l32 b.toNat).abs.key .l32 with
  | some x, some y => if x < y then b else a
  | _, _ => a

/-- Takes a magnitude into MAXLOG. -/
def peak (t : TsrDelta) (m : Word) : TsrDelta :=
  { t with maxlog := some (match t.maxlog with
      | some a => larger a m
      | none => m) }

/-- The words of a finite non-zero element whose log has a floor (Table 14.1). -/
def binWord (b : Int) : Nat := if b < -24 then 14 else if 23 < b then 63 else (39 + b).toNat

/-- Counts one element (Table 14.3): a log format's value widened to L32, an IEEE value by its own exponent, its magnitude
converted to L32 by RN with the largest finite value above the range and nothing below it (R337). -/
def countElem (t : TsrDelta) (x : CvtVal) : TsrDelta :=
  let t := t.add 6 1
  match x with
  | .zero _ => t.add 8 1
  | .inf _ | .nan _ _ => t.add 5 1
  | .log _ f l =>
    (t.add (binWord (l / 2 ^ f.frac)) 1).peak
      (BitVec.ofNat 32 ((Num.fin false (l * 2 ^ (22 - f.frac))).code .l32))
  | .lin _ c e =>
    let t := t.add (binWord (e + c.log2)) 1
    match (toLog .l32 ⟨.rn, 0, true⟩ false (.lin false c e)).1 with
    | .fin _ l => t.peak (BitVec.ofNat 32 ((Num.fin false l).code .l32))
    | _ => t

/-- Counts saturated elements (Table 14.3). -/
def countSat (t : TsrDelta) (n : Nat) : TsrDelta := t.add 4 n

end TsrDelta

/-! ### The pool -/

/-- Whether an index operand names a record of the pool (R335). -/
def Context.tsrIndexOk (x : Context) (idx : Word) : Bool := idx.toNat < 2 ^ 20 && idx.toNat < x.tsrcount

/-- The virtual address of a record (R335). -/
def Context.tsrVa (x : Context) (idx : Word) : Nat := x.tsrbase + 256 * (idx.toNat % 2 ^ 20)

/-! ### The scale -/

/-- The largest finite log of TFMT in units of 2^-22 (R344). -/
def scaleTop (flags : Word) : Int :=
  match flags.toNat / 16 % 4 with
  | 0 => 16252928
  | 1 => 32505856
  | 2 => 268402688
  | _ => 536870911

/-- scale_steps (R344). -/
def scaleSteps (maxlog flags : Word) : Int :=
  if maxlog = 0x40000000 then 0
  else
    let s := (scaleTop flags - sextN 30 maxlog.toNat) / 2 ^ 19 - (flags.toNat / 256 % 256 : Nat)
    min (max s (-1024)) 1023

/-- The scale value as an L32 code (R344). -/
def scaleCode (s : Int) : Word := BitVec.ofNat 32 ((Num.fin false (s * 2 ^ 19)).code .l32)

/-- POL of FLAGS (Table 14.2). -/
def flagsPol (flags : Word) : Bool := flags.getLsbD 0

namespace Dev

/-! ### Operations at the record's home -/

/-- A word of a record at its home. -/
def tsrWord (d : Dev) (key : BitVec 10) (pa n : Nat) : Word := BitVec.ofNat 32 (leNat (d.readBytes key (pa + 4 * n) 4))

/-- Writes a word of a record at its home. -/
def putTsrWord (d : Dev) (key : BitVec 10) (pa n : Nat) (x : Nat) : Dev :=
  d.writeBytes key (pa + 4 * n) (leBytes 4 (x % 2 ^ 32))

/-- MAXLOG after a magnitude is taken in, its sign 0; free where the word holds a NaN, of which the manual says nothing
(log 36). -/
def tsrPeak (d : Dev) (old m : Word) : Word :=
  if (Num.ofCode .l32 old.toNat).isNan || (Num.ofCode .l32 m.toNat).isNan then Config.freeWord d.draw else TsrDelta.larger old m &&& 0x7FFFFFFF

/-- An update is performed at the record's home, where its generation is still the record's (R337); a write to a register is that of
the context's function (R408). -/
def tsrApply (d : Dev) (s : TsrSend) : Dev :=
  if d.tsrWord s.key s.pa 0 ≠ s.gen then d
  else
    let n := d.regWrites.length
    let d := s.delta.adds.foldl (fun d a =>
      if a.1 = 6 then
        let n := (d.tsrWord s.key s.pa 6).toNat + (d.tsrWord s.key s.pa 7).toNat * 2 ^ 32 + a.2
        (d.putTsrWord s.key s.pa 6 n).putTsrWord s.key s.pa 7 (n / 2 ^ 32)
      else d.putTsrWord s.key s.pa a.1 ((d.tsrWord s.key s.pa a.1).toNat + a.2)) d
    let d : Dev := match s.delta.maxlog with
      | some m => { d.putTsrWord s.key s.pa 2 (d.tsrPeak (d.tsrWord s.key s.pa 2) m).toNat with draw := d.draw + 1 }
      | none => d
    d.writtenBy (d.partOf s.ctx) n

/-- The reset of a record (R342): FLAGS stays. -/
def tsrReset (d : Dev) (key : BitVec 10) (pa : Nat) : Dev :=
  let gen := (d.tsrWord key pa 0).toNat + 1
  let d := (d.putTsrWord key pa 0 gen).putTsrWord key pa 2 0x40000000
  (List.range 61).foldl (fun d i => d.putTsrWord key pa (3 + i) 0) d

end Dev

end Sys2Proof.Machine
end

