-- ==== Sys2Proof/Machine/MemOps.lean ====
section
/-! DEFINITION. Loads and stores (Tables 3.9 and 5.4, R136 to R146, R209, R340, R341): the addresses of lanes and their
checks (R137, R139), what a load will return (R255, R256), where a store's bytes go (R230, R257), and the instructions LDG,
STG, LDS, STS, LDV, PFD, CHLD and CHST. -/

namespace Sys2Proof.Machine

/-- The space that an address names a byte of (R137). -/
inductive Space where
  | global
  | scratch
  deriving DecidableEq, Repr

/-- Where the access of one lane lies, once its checks hold. -/
structure Place where
  lane : Lane
  addr : DWord
  loc : Loc
  key : BitVec 10
  deriving DecidableEq, Repr

/-- Bytes of an access width (R138). -/
def widBytes (w : Wid) : Nat := 2 ^ w.code

/-- Registers that an access of a width fills (R138). -/
def widRegs (w : Wid) : Nat := if w.code < 3 then 1 else 2 ^ (w.code - 2)

/-- Whether the destination is a v register. -/
def Dst.isV (d : Dst) : Bool :=
  match d with
  | .v _ => true
  | _ => false

namespace Dev

/-- The checks of one access of `n` bytes, in the order of R139: the fault code, or that of a walk to wait for (R246), or the
device after the fills of its granules (R226), the place of its first byte and the key. -/
def placeAt (d : Dev) (k : CoreIx) (j : SlotIx) (w : Warp) (sp : Space) (addr : Int) (n : Nat) (aligned : Bool)
    (acc : Access) : Except Nat (Dev × Loc × BitVec 10) :=
  match sp with
  | .global =>
    let va := addr.toNat
    if !canonical va then .error Code.addrInvalid
    else if !aligned then .error Code.addrAlign
    else if d.tlbMisses k w.ctx va && !w.walked.contains (va57 va / 2 ^ 24) then .error Code.walk
    else match (d.via k).translate w.ctx va acc with
      | .error c => .error c
      | .ok t =>
        match portOf t.pa with
        | some p => if (d.port p).up then .ok (d.tlbFill k w.ctx va, .phys t.pa, t.key) else .error Code.link
        | none => .ok (d.tlbFill k w.ctx va, .phys t.pa, t.key)
  | .scratch =>
    match d.scratchRef k w addr n with
    | none => .error Code.addrInvalid
    | some r =>
      if !aligned then .error Code.addrAlign
      else match d.refLoc r with
        | some (.bank c off) =>
          match d.touchRegion (some (k, j)) c off n with
          | .error e => .error e
          | .ok d => .ok (d, .bank c off, 0)
        | _ => .error Code.addrInvalid

/-- The sectors that accesses of `n` bytes touch (R390). -/
def sectorCount (n : Nat) (as : List (Lane × Int)) : Nat :=
  ((as.flatMap fun a => [a.2 / 32, (a.2 + (n : Int) - 1) / 32]).eraseDups).length

/-- The farthest level that accesses reach: a scratchpad bank, a window, or one of the L1, the L2 and GDDR-7, which is free; not
the L1 for accesses that act at home (Table 17.4, R145, R268). -/
def levelOf (d : Dev) (k : CoreIx) (w : Warp) (sp : Space) (home : Bool) (as : List (Lane × Int)) (free : Nat) : Nat :=
  match sp with
  | .scratch => 1
  | .global =>
    if as.any fun a => match (d.via k).translate w.ctx a.2.toNat .read with
      | .ok t => isWindow t.pa
      | .error _ => false
    then 4 else if home then 2 + free % 2 else ([0, 2, 3][free % 3]?).getD 0

/-- The sample of a memory instruction that is sampled (R390). -/
def sampleOf (d : Dev) (k : CoreIx) (w : Warp) (op : Nat) (sp : Space) (home : Bool) (n : Nat) (as : List (Lane × Int)) :
    Option (BitVec 256 × Nat) × Dev :=
  match d.countMem k with
  | (false, d) => (none, d)
  | (true, d) =>
    let s := { d with draw := d.draw + 1 }.sampleFrom w op (as.map Prod.fst) (sectorCount n as)
      (d.levelOf k w sp home as (Config.freeNat d.draw))
    (some s.1, s.2)

/-- The sample of an instruction that has faulted: no lane has made an access and no sector was touched (R139, R390). -/
def faultSample (s : Option (BitVec 256 × Nat)) : Option (BitVec 256 × Nat) :=
  s.map fun x => (x.1 &&& ~~~((0xFFFFFFFF#256 <<< 64) ||| (0xFF#256 <<< 104)), x.2)

end Dev

namespace Site

/-- The lanes that make an access: the lowest participating one where no operand is per lane (R143), else all. -/
def accessLanes (x : Site) (single : Bool) : List Lane := if single then (lowestLane x.p).toList else lanesOf x.p

/-- The address of a lane, exact in scratchpad and modulo 2^64 in global memory (R137). -/
def address (x : Site) (sp : Space) (a : Opnd) (off : Word) (l : Lane) : Int :=
  match sp with
  | .global => ((x.v.pair a l + off.signExtend 64).toNat : Int)
  | .scratch => (x.v.word a l).toNat + off.toInt

/-- The addresses of some lanes. -/
def addresses (x : Site) (sp : Space) (a : Opnd) (off : Word) (ls : List Lane) : List (Lane × Int) :=
  ls.map fun l => (l, x.address sp a off l)

/-- The tag check of an address (R137). -/
def addressOk (x : Site) (sp : Space) (a : Opnd) : Bool :=
  match sp with
  | .global => x.v.has .i64 2 a
  | .scratch => x.v.has .i32 1 a

/-- The lane field of an address (R364). -/
def addrField (sp : Space) (addr : Int) : DWord :=
  match sp with
  | .global => BitVec.ofInt 64 addr
  | .scratch => BitVec.ofNat 64 (wrapN 32 addr)

/-- The first failing byte of an access (R364): past the end of its allocation, the byte there. -/
def firstFailing (x : Site) (sp : Space) (addr : Int) (n code : Nat) : Int :=
  if sp = .scratch ∧ code = Code.addrInvalid then
    addr + (((List.range n).find? fun (i : Nat) => (x.d.scratchRef x.k x.w (addr + (i : Int)) 1).isNone).getD 0 : Nat)
  else addr

/-- The checks of every lane's access (R139): each lane keeps its first cause; the places, where no lane fails. -/
def placesOf (x : Site) (sp : Space) (n : Nat) (acc : Access) (as : List (Lane × Int × Bool))
    (refuse : Int → Bool := fun _ => false) : Except FaultInfo (Dev × List Place) :=
  let at_ (d : Dev) (a : Lane × Int × Bool) : Except Nat (Dev × Loc × BitVec 10) :=
    match d.placeAt x.k x.j x.w sp a.2.1 n a.2.2 acc with
    | .ok r => if refuse a.2.1 then .error Code.addrInvalid else .ok r
    | .error c => if c = Code.link ∧ refuse a.2.1 then .error Code.addrInvalid else .error c
  let r := as.foldl (fun (r : Dev × List LaneCause × List Place) a =>
    match at_ r.1 a with
    | .ok (d, loc, key) => (d, r.2.1, r.2.2 ++ [⟨a.1, addrField sp a.2.1, loc, key⟩])
    | .error c => (r.1, r.2.1 ++ [{ lane := a.1, cause := c, addr := addrField sp (x.firstFailing sp a.2.1 n c) }], r.2.2))
    (x.d, [], [])
  match FaultInfo.ofLanes r.2.1 with
  | some f => .error f
  | none => .ok (r.1, r.2.2)

/-- The checks of an access of `n` bytes per lane at a multiple of its width (R138, R139). -/
def places (x : Site) (sp : Space) (a : Opnd) (off : Word) (n : Nat) (acc : Access) (ls : List Lane) :
    Except FaultInfo (Dev × List Place) :=
  x.placesOf sp n acc (ls.map fun l =>
    let addr := x.address sp a off l
    (l, addr, addr % n == 0))

/-- A memory instruction: held while its counter is full, a full STCNT with the release of R142 (R23, R252); sampled, as one that acts
at home or not (R390). -/
def memory (x : Site) (isStore : Bool) (op : Nat) (sp : Space) (n : Nat) (as : List (Lane × Int))
    (f : Site → Option (BitVec 256 × Nat) → Act) (home : Bool := false) : Act :=
  if isStore && (63 ≤ x.w.st || x.w.releasing) then
    x.releaseThen .cluster fun d => .hold d .counter
  else if !isStore && 63 ≤ x.w.ld then .hold x.d .counter
  else
    let s := x.d.sampleOf x.k x.w op sp home n as
    match x.orWalk (f { x with d := s.2 } s.1) with
    | .fault d i => .fault (d.traceSample x.k x.j x.w (Dev.faultSample s.1)) i
    | .hold d why => .hold (d.modCore x.k fun c => { c with memCount := (x.d.core x.k).memCount }) why
    | a => a

/-- Adds an outstanding load to the warp (R141), with its scoreboard slot in hinted mode (R39); its tags are set under the active
mask at issue, but where it names another (R21, R209). -/
def startLoad (x : Site) (d : Dev) (p : PLoad) : Dev :=
  let (seq, d) := d.freshSeq
  d.modWarp x.k x.j fun w => { w with
    loads := w.loads ++ [{ p with seq := seq, sb := if x.d.interlocked x.w then 0 else x.c.sb, m := if p.m = 0 then x.w.m else p.m }], ld := w.ld + 1 }

/-- Adds an outstanding store to the warp (R141). -/
def startStore (x : Site) (d : Dev) (p : PStore) : Dev :=
  let (seq, d) := d.freshSeq
  d.modWarp x.k x.j fun w => { w with stores := w.stores ++ [{ p with seq := seq }], st := w.st + 1 }

/-- The window accesses among places (R407). -/
def windowsOf (ps : List (Lane × DWord × Loc)) : List (PortIx × Lane × DWord) :=
  ps.filterMap fun p => match p.2.2 with
    | .phys pa => (portOf pa).map fun q => (q, p.1, p.2.1)
    | .bank _ _ => none

/-- A load with nothing but its destination. -/
def blankLoad (dst : Dst) (tag : Tag) (regs : Nat) : PLoad where
  seq := 0
  sb := 0
  dst := dst
  tag := tag
  regs := regs
  m := 0
  lanes := []
  atom := []
  plain := false
  fills := []
  also := none
  win := []
  sample := none

/-- A store with nothing to do. -/
def blankStore : PStore where
  seq := 0
  lines := []
  flight := []
  red := []
  stat := none
  sent := false
  win := []
  sample := none

/-- The sectors that a load of `n` bytes at a place fills; a window is never held in an L1 (R229, R240). -/
def sectorsOf (p : Place) (n : Nat) : List FillSector :=
  match p.loc with
  | .phys pa =>
    match paKind pa with
    | .dram | .param =>
      (List.range ((pa % 32 + n + 31) / 32)).map fun i =>
        { va := p.addr.toNat / 32 * 32 + 32 * i, pa := pa / 32 * 32 + 32 * i, key := p.key }
    | _ => []
  | .bank _ _ => []

/-- The lanes of a load of `n` bytes per place, which read through the L1 or past it. -/
def laneLoads (l1 : Bool) (n : Nat) (ps : List Place) : List LaneLoad :=
  ps.map fun q =>
    { lane := q.lane, va := q.addr.toNat, l1 := l1, bytes := (List.range n).map fun i => .home (Dev.locUp q.loc i) q.key }

/-- Issue of a plain load of `n` bytes per place (R141, R229, R255); its bytes are read later (log 8). -/
def load (x : Site) (d : Dev) (p : PLoad) (n : Nat) (ps : List Place) : Act :=
  .done (x.startLoad d { p with
    lanes := laneLoads true n ps, plain := true, fills := (ps.flatMap fun q => sectorsOf q n).eraseDups,
    win := windowsOf (ps.map fun p => (p.lane, p.addr, p.loc)) })

/-- A load instruction (R136, R138). -/
def loadOp (x : Site) (sp : Space) (op : Nat) (d : Dst) (a : Opnd) (off : Word) (ty : Option Tag) (wid : Wid) : Act :=
  let ls := x.accessLanes (!Dst.isV d && a.isUniform)
  x.memory false op sp (widBytes wid) (x.addresses sp a off ls) fun x sample =>
    if !x.addressOk sp a then x.format
    else match x.places sp a off (widBytes wid) .read ls with
      | .error f => .fault x.d f
      | .ok (d', ps) =>
        x.load d' { blankLoad d (ty.getD .raw) (widRegs wid) with sample := sample } (widBytes wid) ps

/-! ### Stores -/

/-- The register tags of store data (R138). -/
def dataOk (x : Site) (b : Opnd) (ty : Option Tag) (regs : Nat) : Bool :=
  match ty with
  | some t => x.v.has t regs b
  | none => x.v.defined regs b

/-- The data of a lane as a number (R30, R31, R138). -/
def dataOf (x : Site) (b : Opnd) (ty : Option Tag) (regs : Nat) (l : Lane) : Nat :=
  match b, (ty.bind Tag.fmt?) with
  | .v r, _ => (List.range regs).foldl (fun n i => n + (x.v.r.vAt (vUp r i) l).toNat * 2 ^ (32 * i)) 0
  | .w r, _ => (List.range regs).foldl (fun n i => n + (x.v.wAt (wUp r i) l).toNat * 2 ^ (32 * i)) 0
  | .sp _, _ => (x.v.word b l).toNat
  | _, some f => (x.v.real f b l).toNat
  | _, none => wrapN 128 (x.v.word b l).toInt

/-- The bytes of a lane's data (R138). -/
def dataBytes (x : Site) (b : Opnd) (ty : Option Tag) (wid : Wid) (l : Lane) : List Byte :=
  leBytes (widBytes wid) (x.dataOf b ty (widRegs wid) l)

/-- A byte that a store writes. -/
structure StoreByte where
  lane : Lane
  /-- The address of the lane's first byte. -/
  addr : DWord
  va : Nat
  loc : Loc
  key : BitVec 10
  val : Byte
  deriving DecidableEq, Repr

/-- The bytes of a store in lane order, so that the higher lane's stands (R140). -/
def storeBytes (ps : List (Place × List Byte)) : List StoreByte :=
  ps.flatMap fun p => p.2.zipIdx.map fun b =>
    { lane := p.1.lane, addr := p.1.addr, va := p.1.addr.toNat + b.2, loc := Dev.locUp p.1.loc b.2, key := p.1.key, val := b.1 }

/-- The byte on its way to its home. -/
def StoreByte.fly (b : StoreByte) : FlightByte := { loc := b.loc, key := b.key, val := b.val }

/-- The window accesses of a store. -/
def storeWindows (bs : List StoreByte) : List (PortIx × Lane × DWord) :=
  (windowsOf (bs.map fun b => (b.lane, b.addr, b.loc))).eraseDups

/-- A line of a store goes into the L1 or on its way to home (R230, R240). -/
def storeGroup (x : Site) (d : Dev) (line : Nat) (bs : List StoreByte) :
    Except WbFault (Dev × Option Nat × List FlightByte) :=
  match bs.head? with
  | some { loc := .phys pa, key := key, .. } =>
    if paKind pa = .dram then
      d.storeLine x.k x.j x.w (line * 128) ⟨pa / 128 * 128, key, none⟩ (bs.map fun b => (b.va % 128, b.val))
    else .ok (d, none, bs.map StoreByte.fly)
  | _ => .ok (d, none, bs.map StoreByte.fly)

/-- Global stores, line by line in the order of their first lanes. -/
def storeLines (x : Site) (bs : List StoreByte) :
    List Nat → Dev → Except WbFault (Dev × List Nat × List FlightByte)
  | [], d => .ok (d, [], [])
  | line :: t, d =>
    match x.storeGroup d line (bs.filter fun b => b.va / 128 == line) with
    | .error e => .error e
    | .ok (d, l, fl) =>
      match x.storeLines bs t d with
      | .error e => .error e
      | .ok (d, ls, fls) => .ok (d, l.toList ++ ls, fl ++ fls)

/-- The last event of a store past the L1: the task's commit point, and the ports that it uses (R253, R359). -/
def sendStore (x : Site) (d : Dev) (fl : List FlightByte) : Dev :=
  if fl.isEmpty then d
  else (d.commit x.w.task).modWarp x.k x.j fun w => { w with
    ports := (w.ports ++ Dev.portsOf (fl.map (·.loc))).eraseDups }

/-- Issue of a global store of checked bytes (R141, R230); one that touches a byte of an outstanding ATOM or RED of the
warp, or that a load has still to read behind one, waits for it (R140, R268). -/
def store (x : Site) (d : Dev) (sample : Option (BitVec 256 × Nat)) (bs : List StoreByte) : Act :=
  let locs := bs.map (·.loc)
  if Dev.writeHeld x.w locs then .hold x.d .atomic
  else
    match x.storeLines bs ((bs.map fun b => b.va / 128).eraseDups) (d.capture x.k x.j locs) with
    | .error e => x.wbFault e
    | .ok (d, ls, fl) => .done (x.startStore (x.sendStore d fl) { blankStore with
      lines := ls, flight := fl, win := storeWindows bs, sample := sample })

/-- The checks of R139 for a store, and its bytes. -/
def storePlaces (x : Site) (sp : Space) (a b : Opnd) (off : Word) (ty : Option Tag) (wid : Wid) (ls : List Lane) :
    Except FaultInfo (Dev × List StoreByte) :=
  match x.places sp a off (widBytes wid) .write ls with
  | .error f => .error f
  | .ok (d, ps) => .ok (d, storeBytes (ps.map fun p => (p, x.dataBytes b ty wid p.lane)))

/-- STG without `.stat` (R136). -/
def storeGlobal (x : Site) (a b : Opnd) (off : Word) (ty : Option Tag) (wid : Wid) : Act :=
  let ls := x.accessLanes (a.isUniform && b.isUniform)
  x.memory true 0x81 .global (widBytes wid) (x.addresses .global a off ls) fun x sample =>
    if !(x.addressOk .global a && x.dataOk b ty (widRegs wid)) then x.format
    else match x.storePlaces .global a b off ty wid ls with
      | .error f => .fault x.d f
      | .ok (d, bs) => x.store d sample bs

/-- The elements that a store counts, each of a packed value on its own (R341). -/
def statElems (x : Site) (b : Opnd) (ty : Option Tag) (wid : Wid) (ls : List Lane) : TsrDelta :=
  match ty.bind Tag.fmt? with
  | none => .empty
  | some f =>
    ls.foldl (fun t l => (List.range f.count).foldl (fun t j =>
      t.countElem (.ofLog f.elem (x.dataOf b ty (widRegs wid) l / 2 ^ (f.elem.bits * j) % 2 ^ f.elem.bits))) t) .empty

/-- ENGINE_PARAM of an index operand (R335). -/
def tsrRange (x : Site) (idx : Word) : Act := .fault x.d (.engineParam 32 x.p (idx.setWidth 64))

/-- A w register. -/
def isWReg : Opnd → Bool
  | .w _ => true
  | _ => false

/-- STG with `.stat` (R144, R340, R341): data from a w register, or only uniform operands, make one access. -/
def storeStat (x : Site) (a b idx : Opnd) (off : Word) (ty : Option Tag) (wid : Wid) : Act :=
  let ls := x.accessLanes ((a.isUniform && b.isUniform) || isWReg b)
  x.memory (home := true) true 0x81 .global (widBytes wid) (x.addresses .global a off ls) fun x sample =>
    let i := x.v.uniform idx
    if !(x.addressOk .global a && x.dataOk b ty (widRegs wid) && x.v.has .i32 1 idx) then x.format
    else match x.d.context x.w.ctx with
      | none => x.tsrRange i
      | some c =>
        if !c.tsrIndexOk i then x.tsrRange i
        else match x.storePlaces .global a b off ty wid ls with
          | .error f => .fault x.d f
          | .ok (d, bs) =>
            match d.placeAt x.k x.j x.w .global (c.tsrVa i) 4 true .read with
            | .error code => .fault x.d (.warpWide code x.p (BitVec.ofNat 64 (c.tsrVa i)))
            | .ok (d, loc, key) =>
              let locs := bs.map (·.loc)
              if Dev.writeHeld x.w locs then .hold x.d .atomic
              else
                let lines := (bs.map fun b => va57 b.va / 128 * 128).eraseDups
                match (d.capture x.k x.j locs).writeBack x.k fun l => l.ctx == x.w.ctx && lines.contains l.va with
                | .error e => x.wbFault e
                | .ok d =>
                  let pa := match loc with
                    | .phys pa => pa
                    | .bank _ _ => 0
                  let send : TsrSend := {
                    ctx := x.w.ctx, pa := pa, key := key, gen := d.tsrWord key pa 0,
                    delta := x.statElems b ty wid ls, by_ := some (x.k, x.j, d.seq) }
                  .done (x.startStore (x.sendStore (d.commit x.w.task) (bs.map StoreByte.fly))
                    { blankStore with
                      flight := bs.map StoreByte.fly, win := storeWindows bs, stat := some send, sample := sample })

/-- STS (R136, R219). -/
def storeScratch (x : Site) (a b : Opnd) (off : Word) (ty : Option Tag) (wid : Wid) : Act :=
  let ls := x.accessLanes (a.isUniform && b.isUniform)
  x.memory true 0x83 .scratch (widBytes wid) (x.addresses .scratch a off ls) fun x sample =>
    if !(x.addressOk .scratch a && x.dataOk b ty (widRegs wid)) then x.format
    else match x.storePlaces .scratch a b off ty wid ls with
      | .error f => .fault x.d f
      | .ok (d, bs) =>
        .done (x.startStore d { blankStore with flight := bs.map StoreByte.fly, sample := sample })

end Site

/-! ### The instructions -/

def execLdg (c : Ctl) (d : Dst) (a : Opnd) (off : Word) (ty : Option Tag) (wid : Wid) (s : State) :
    Host.Outcome State Fault Refusal :=
  issue (.ldg c d a off ty wid) c 0 (fun x => x.loadOp .global 0x80 d a off ty wid) s

def execStg (c : Ctl) (a b : Opnd) (stat : Option Opnd) (off : Word) (ty : Option Tag) (wid : Wid) (s : State) :
    Host.Outcome State Fault Refusal :=
  issue (.stg c a b stat off ty wid) c 0 (fun x =>
    match stat with
    | none => x.storeGlobal a b off ty wid
    | some idx => x.storeStat a b idx off ty wid) s

def execLds (c : Ctl) (d : Dst) (a : Opnd) (off : Word) (ty : Option Tag) (wid : Wid) (s : State) :
    Host.Outcome State Fault Refusal :=
  issue (.lds c d a off ty wid) c 0 (fun x => x.loadOp .scratch 0x82 d a off ty wid) s

def execSts (c : Ctl) (a b : Opnd) (off : Word) (ty : Option Tag) (wid : Wid) (s : State) :
    Host.Outcome State Fault Refusal :=
  issue (.sts c a b off ty wid) c 0 (fun x => x.storeScratch a b off ty wid) s

/-- The write-back of the warp's own dirty bytes of some lines, before an access at their home (R259). -/
def Dev.flushOwn (d : Dev) (k : CoreIx) (j : SlotIx) (w : Warp) (vas : List Nat) : Except WbFault Dev :=
  let lines := vas.map fun va => va57 va / 128 * 128
  d.writeBack k fun l => l.ctx == w.ctx && l.owner == (j, w.task) && lines.contains l.va

/-- LDV (R145, R259). -/
def Site.loadValue (x : Site) (d : Dst) (a : Opnd) (off : Word) (ty : Option Tag) (wid : Wid) (scope : Scope) : Act :=
  let ls := x.accessLanes (!Dst.isV d && a.isUniform)
  let n := widBytes wid
  x.memory (home := scope != .core) false 0x84 .global n (x.addresses .global a off ls) fun x sample =>
    if !x.addressOk .global a then x.format
    else match x.places .global a off n .read ls with
      | .error f => .fault x.d f
      | .ok (d', ps) =>
        let core := scope == .core
        match if core then .ok d' else d'.flushOwn x.k x.j x.w (ps.map fun p => p.addr.toNat) with
        | .error e => x.wbFault e
        | .ok d' =>
          .done (x.startLoad d' { Site.blankLoad d (ty.getD .raw) (widRegs wid) with
            lanes := Site.laneLoads core n ps
            win := Site.windowsOf (ps.map fun p => (p.lane, p.addr, p.loc))
            sample := sample })

def execLdv (c : Ctl) (d : Dst) (a : Opnd) (off : Word) (ty : Option Tag) (wid : Wid) (scope : Scope) (s : State) :
    Host.Outcome State Fault Refusal :=
  issue (.ldv c d a off ty wid scope) c 0 (fun x => x.loadValue d a off ty wid scope) s

/-- A prefetch of the line of one lane into the L1 (R146): dropped where its translation fails or, freely, where no miss
slot is free. -/
def Dev.prefetchLine (d : Dev) (k : CoreIx) (w : Warp) (va : Nat) : Dev :=
  match (d.via k).translate w.ctx va .read with
  | .error _ => d
  | .ok _ =>
    let (n, d) := d.drawn
    if Config.freeBit n then d
    else (List.range 4).foldl (fun d i => d.fillAhead k w.ctx (va / 128 * 128 + 32 * i)) d

/-- PFD (R146): `.l2` fills nothing that the model holds (log 15); it is a memory instruction, whose request touches its lines' sectors
(R136, R390). -/
def Site.prefetch (x : Site) (toL1 : Bool) (a : Opnd) (off : Word) : Act :=
  let as := x.addresses .global a off (x.accessLanes a.isUniform)
  let lines := (as.map fun y => y.2.toNat / 128 * 128).eraseDups
  let d := { x.d with draw := x.d.draw + 1 }.sampleNow x.k x.j x.w 0x8A (as.map Prod.fst) (4 * lines.length)
    (x.d.levelOf x.k x.w .global true as (Config.freeNat x.d.draw))
  .done (if toL1 then lines.foldl (fun d va => d.prefetchLine x.k x.w va) d else d)

def execPfd (c : Ctl) (toL1 : Bool) (a : Opnd) (off : Word) (s : State) : Host.Outcome State Fault Refusal :=
  issue (.pfd c toL1 a off) c 0 (fun x => x.prefetch toL1 a off) s

/-! ### Chain loads and stores (R209) -/

/-- The addresses of the lanes of whole segments, each with whether its segment's address is aligned. -/
def Site.segAddrs (x : Site) (a : Opnd) (off : Word) (ss : List Seg) : List (Lane × Int × Bool) :=
  ss.flatMap fun s =>
    let base : DWord := x.v.pair a (s.b.lane s.g 0) + off.signExtend 64
    (List.range s.b.len).map fun i =>
      (s.b.lane s.g i, ((base + BitVec.ofNat 64 (4 * i)).toNat : Int), base.toNat % (4 * s.b.len) == 0)

/-- CHLD (R209). -/
def execChld (c : Ctl) (d : Fin 64) (a : Opnd) (off : Word) (s : State) : Host.Outcome State Fault Refusal :=
  issue (.chld c d a off) c 0 (fun x =>
    x.chainOp [d] [] (x.v.has .i64 2 a) fun _ ss =>
      let as := x.segAddrs a off ss
      x.memory false 0x79 .global 4 (as.map fun y => (y.1, y.2.1)) fun x sample =>
        match x.placesOf .global 4 .read as with
        | .error f => .fault x.d f
        | .ok (d', ps) => x.load d' { Site.blankLoad (.v d) .limb 1 with m := Mask.all, sample := sample } 4 ps) s

/-- CHST (R209). -/
def execChst (c : Ctl) (a : Opnd) (b : Fin 64) (off : Word) (s : State) : Host.Outcome State Fault Refusal :=
  issue (.chst c a b off) c 0 (fun x =>
    x.chainOp [b] [b] (x.v.has .i64 2 a) fun _ ss =>
      let as := x.segAddrs a off ss
      x.memory true 0x7A .global 4 (as.map fun y => (y.1, y.2.1)) fun x sample =>
        match x.placesOf .global 4 .write as with
        | .error f => .fault x.d f
        | .ok (d', ps) =>
          x.store d' sample (Site.storeBytes (ps.map fun p => (p, leBytes 4 (x.v.r.vAt b p.lane).toNat)))) s

end Sys2Proof.Machine
end

