-- ==== Sys2Proof/Machine/Atomics.lean ====
section
/-! DEFINITION. ATOM and RED (R265 to R268), MONITOR and WAITMON (R269 to R271), and the completion of outstanding loads and
stores: LOAD_COMPLETION, STORE_COMPLETION, MONITOR_TRIGGER, WAITMON_TIMEOUT, WAITMON_UNPROMPTED_END and SLEEP_EXPIRY. -/

namespace Sys2Proof.Machine

/-! ### One atomic operation -/

/-- The format of `.gadd` (R265). -/
def gaddFmt (bytes : Nat) : Fmt := if bytes = 2 then .l16 else .l32

/-- The new value of a location of n bytes (Table 10.4, R266). -/
def atomNew (op : AtomOp) (bytes old b cmp : Nat) : Nat :=
  let m := 2 ^ (8 * bytes)
  let sgn (x : Nat) : Int := sextN (8 * bytes) x
  let b := b % m
  match op with
  | .iadd => (old + b) % m
  | .imin => if sgn b < sgn old then b else old
  | .imax => if sgn old < sgn b then b else old
  | .nmin => min old b
  | .nmax => max old b
  | .and => old &&& b
  | .or => old ||| b
  | .xor => old ^^^ b
  | .exch => b
  | .cas => if old = cmp % m then b else old
  | .gadd =>
    let f := gaddFmt bytes
    (RealOp.add f ⟨.rn, 0, false⟩ (Num.ofCode f old) (Num.ofCode f b)).1.code f

namespace Dev

/-- A number of `n` bytes at its home. -/
def locNat (d : Dev) (l : Loc) (key : BitVec 10) (n : Nat) : Nat :=
  leNat ((List.range n).map fun i => d.readLoc (locUp l i) key)

/-- Writes bytes at their home. -/
def putLoc (d : Dev) (l : Loc) (key : BitVec 10) (bs : List Byte) : Dev :=
  bs.zipIdx.foldl (fun d b => d.writeLoc (locUp l b.2) key b.1) d

/-- One lane's operation, read and write at one instant (R266): its old value. -/
def atomLane (d : Dev) (a : AtomLane) : Nat × Dev :=
  let old := d.locNat a.loc a.key a.bytes
  (old, d.putLoc a.loc a.key (leBytes a.bytes (atomNew a.op a.bytes old a.data.toNat a.cmp.toNat)))

/-- The lanes of an operation, one after another in ascending order (R266). -/
def atomLanes (d : Dev) : List AtomLane → List (Lane × Nat) × Dev
  | [] => ([], d)
  | a :: t =>
    let (old, d) := d.atomLane a
    let (rest, d) := d.atomLanes t
    ((a.lane, old) :: rest, d)

/-! ### Ports -/

/-- Drains the ports that a list of locations lies behind. -/
def drainFor (d : Dev) (ls : List Loc) : Dev := (portsOf ls).foldl (fun d p => d.drainPort p) d

/-! ### Completion of a load -/

/-- A lane's bytes as the words of its registers. -/
def laneWord (vals : List (Lane × Nat)) (i : Nat) (l : Lane) : Word :=
  match vals.find? fun v => v.1 == l with
  | some v => BitVec.ofNat 32 (v.2 / 2 ^ (32 * i))
  | none => 0

/-- The registers after a load's data has arrived (R138, R141), tagged as the mask at its issue says (R21). -/
def loaded (w : Warp) (p : PLoad) (vals : List (Lane × Nat)) : Warp :=
  let mask : Mask := vals.foldl (fun m v => m ||| (1#32 <<< v.1.val)) 0
  let r := (List.range p.regs).foldl (fun w i => w.setDst p.dst i mask (laneWord vals i) p.tag) { w with m := p.m }
  let r := match p.also with
    | some x => r.setW x.1 x.2 .l32
    | none => r
  { r with m := w.m }

/-- The data of a lane whose bytes have been read stands in its registers before the load completes, in hinted mode and without a
scoreboard slot; the tags stay until then (R38, log 8). -/
def landLane (d : Dev) (k : CoreIx) (j : SlotIx) (i n : Nat) : Dev :=
  match d.slot k j with
  | none => d
  | some w =>
    match (w.loads[i]?).bind fun p => (p.lanes[n]?).map fun l => (p, l) with
    | none => d
    | some (p, l) =>
      if p.sb != 0 || d.interlocked w || !(laneLocs l).isEmpty then d
      else d.putWarp k j { loaded w { p with also := none } [(l.lane, leNat (d.laneNow k j w [] l))] with vt := w.vt, wt := w.wt }

/-- The first protected frame's byte among those that an access writes (R43, R405). -/
def refusedByte (d : Dev) (ls : List Loc) : Option Nat :=
  ls.findSome? fun l => match l with
    | .phys pa => if paKind pa = .dram ∧ d.isProtected (pa / 0x10000) then some pa else none
    | .bank _ _ => none

/-- A write of a warp that reaches a protected frame after its issue is refused: VIOLATION against the warp's context
(R40, R43, R405, log 106). -/
def violated (d : Dev) (k : CoreIx) (j : SlotIx) (w : Warp) (ls : List Loc) : Dev :=
  match d.refusedByte ls with
  | some pa => d.takeFault k j ((d.slot k j).getD w) (.warpWide Code.violation w.m (BitVec.ofNat 64 pa))
  | none => d

/-- A line of a warp's write step reaches home (R253 step 2), or is refused there (R43). -/
def lineHome (d : Dev) (k : CoreIx) (j : SlotIx) (va : Nat) : Dev :=
  match d.slot k j with
  | none => d
  | some w =>
    let e := d.writeLines k j (· == va)
    match d.lateRefusal k w (· == va) with
    | some x => e.takeFault k j ((e.slot k j).getD w)
        { FaultInfo.warpWide x.code w.m (BitVec.ofNat 64 x.va) with wb := some (BitVec.ofNat 64 x.va) }
    | none => e

/-- Operations of a warp are performed at home, and the clean copies of their bytes leave its core's L1 (R266, R268); what they
write to a register is the write of the context's function (R408). -/
def atomsHome (d : Dev) (k : CoreIx) (w : Warp) (as : List AtomLane) : List (Lane × Nat) × Dev :=
  let (olds, e) := d.atomLanes as
  (olds, (e.writtenBy (d.partOf w.ctx) d.regWrites.length).dropCopies k (as.flatMap atomBytes))

/-- Data arrives in its destination and LDCNT falls (R141, R229, R268). -/
def completeLoad (d : Dev) (k : CoreIx) (j : SlotIx) (i : Nat) : Dev :=
  match d.slot k j with
  | none => d
  | some w =>
    match w.loads[i]? with
    | none => d
    | some p =>
      if !d.loadReady k j w p then d
      else
        let d := d.drainFor (loadLocs p)
        let fills := p.fills.filter fun f =>
          match (d.core k).l1Find w.ctx f.va with
          | none => true
          | some l => p.lanes.any fun n => (List.range n.bytes.length).any fun i =>
            let o : Fin 128 := ⟨(n.va + i) % 128, Nat.mod_lt _ (by decide)⟩
            (n.va + i) / 32 == f.va / 32 && !l.readable j w.task o
        let read := p.lanes.map fun n => (n.lane, leNat (d.laneNow k j w p.lanes n))
        let d := d.dropPassed k j w p.lanes
        let (olds, d) := d.atomsHome k w p.atom
        let d := p.fills.foldl (fun d f => d.touchLine k w.ctx f.va) d
        let d := fills.foldl (fun d f => d.fillSector k w.ctx f) d
        let w := (d.slot k j).getD w
        let w := { loaded w p (read ++ olds) with loads := removeAt i w.loads, ld := w.ld - 1 }
        (((d.putWarp k j w).traceSample k j w p.sample).reap k j).violated k j w (p.atom.flatMap atomBytes)

/-- The oldest operation of a warp's ATOM that has not been performed is performed before the ATOM completes: its old value is held
(R38, R266, R268). -/
def performNext (d : Dev) (k : CoreIx) (j : SlotIx) (i : Nat) : Dev :=
  match d.slot k j with
  | none => d
  | some w =>
    match (w.loads[i]?).bind fun p => p.atom.head?.map fun a => (p, a) with
    | none => d
    | some (p, a) =>
      if d.atomHeld k j w p [a] then d
      else
        let (olds, d) := (d.drainFor (atomBytes a)).atomsHome k w [a]
        let held : List LaneLoad := olds.map fun x => { lane := x.1, va := 0, l1 := false, bytes := (leBytes a.bytes x.2).map .held }
        (d.modWarp k j fun w => { w with
          loads := modifyAt (fun p => { p with lanes := p.lanes ++ held, atom := p.atom.drop 1 }) i w.loads }).violated k j w
            (atomBytes a)

/-! ### Completion of a store -/

/-- A byte of a warp's store joins the port's posted writes: those of one aligned 8-byte unit are one write (R140, R406). -/
def post (new : Posted) (pa : Nat) (b : Byte) : List Posted → List Posted
  | [] => [{ new with bytes := [(pa, b)] }]
  | [p] =>
    if p.by_ == new.by_ && p.seq == new.seq && p.bytes.any fun x => x.1 / 8 == pa / 8 && x.1 + 1 == pa
    then [{ p with bytes := p.bytes ++ [(pa, b)] }]
    else [p, { new with bytes := [(pa, b)] }]
  | p :: t => p :: post new pa b t

/-- Bytes on their way reach their homes, those of a window their port (R141, R257, R406). -/
def deliver (d : Dev) (k : CoreIx) (j : SlotIx) (ctx : CtxIx) (seq : Nat) (bs : List FlightByte) : Dev :=
  bs.foldl (fun d b =>
    match b.loc with
    | .phys pa =>
      match portOf pa with
      | some p => d.modPort p fun x => { x with posted := post ⟨some (k, j), ctx, seq, []⟩ pa b.val x.posted }
      | none => d.writePa b.key pa b.val
    | l => d.writeLoc l b.key b.val) d

/-- A store's bytes reach home, or its reductions are performed, and STCNT falls once nothing of it is left (R141, R268,
R341). -/
def completeStore (d : Dev) (k : CoreIx) (j : SlotIx) (i : Nat) : Dev :=
  match d.slot k j with
  | none => d
  | some w =>
    match w.stores[i]? with
    | none => d
    | some p =>
      let ls := storeLocs p
      if ls.isEmpty || d.bankBlocked k j p.seq ls || byteBlocked w p.seq ls || d.sliceBlocked k p.seq ls || portBlocked w p.seq ls
      then d
      else
        let old := d
        let d := (d.deliver k j w.ctx p.seq p.flight).writtenBy (d.partOf w.ctx) d.regWrites.length
        let d := if p.red.isEmpty then d else ((d.drainFor ls).atomsHome k w p.red).2
        let d := d.changeCopies k (p.flight.map fun b => (b.loc, some b.val))
        let d := match p.stat with
          | some s => { d with tsrs := d.tsrs ++ [s] }
          | none => d
        let after (q : PStore) : PStore :=
          if q.seq = p.seq then { q with flight := [], red := [], win := [], stat := none, sent := q.sent || p.stat.isSome } else q
        let d := d.modWarp k j fun w => { w with stores := w.stores.map after }
        let d := d.settle k j
        if (old.refusedByte ls).isSome then d.violated k j w ls else d.reap k j

/-! ### Monitors -/

/-- A warp's monitor is disarmed (R269, R270). -/
def disarm (d : Dev) (k : CoreIx) (j : SlotIx) : Dev :=
  { d with monitors := d.monitors.filter fun m => !(m.core == k && m.slot == j) }.modWarp k j fun w =>
    { w with monitor := none, alarm := none }

/-- A warp's monitor is triggered by the eviction of its entry (R269). -/
def evict (d : Dev) (m : MonEntry) : Dev :=
  { d with monitors := d.monitors.filter fun x => x != m }.modWarp m.core m.slot fun w =>
    { w with monitor := w.monitor.map fun (x : Loc × Bool) => (x.1, true) }

/-- Arms a warp's monitor on a block, a global one with an entry in its slice (R269). -/
def arm (d : Dev) (k : CoreIx) (j : SlotIx) (block : Loc) : Dev :=
  let d := d.disarm k j
  let d : Dev := match block with
    | .bank _ _ => d
    | .phys pa =>
      let slice := sliceOf pa
      let here := d.monitors.filter fun (m : MonEntry) => m.slice == slice
      let d := match here with
        | oldest :: _ => if 128 ≤ here.length then d.evict oldest else d
        | [] => d
      let d : Dev := d
      { d with monitors := d.monitors ++ [{ slice := slice, line := pa, core := k, slot := j }] }
  d.modWarp k j fun w => { w with monitor := some (block, false), alarm := none }

/-- A WAITMON ends: the monitor is disarmed and the warp goes on (R270). -/
def endWaitmon (d : Dev) (k : CoreIx) (j : SlotIx) : Dev := (d.disarm k j).stepPast k j |>.closeWarp k j

/-- A warp's WAITMON, while it waits: the cycle of its issue and its timeout. -/
def waitmonOf (w : Warp) : Option (Nat × Nat) :=
  match w.wait with
  | some (.waitmon start n) => if w.status = .running then some (start, n) else none
  | _ => none

end Dev

/-! ### The instructions -/

/-- The destination's tag (Table 10.4). -/
def atomTag (op : AtomOp) (wid : Wid) : Tag :=
  match op, wid with
  | .gadd, .b16 => .l16
  | .gadd, _ => .l32
  | _, .b64 => .i64
  | _, _ => .i32

/-- The tag that data carries (Table 10.4); none where any tag but UNDEF does. -/
def atomDataTag (op : AtomOp) (wid : Wid) : Option Tag :=
  match op with
  | .and | .or | .xor | .exch | .cas => none
  | _ => some (atomTag op wid)

namespace Site

/-- What a window refuses of an atomic operation (R267). -/
def windowRefuses (x : Site) (op : AtomOp) (wid : Wid) (scope : Scope) (addr : Int) : Bool :=
  match (x.d.via x.k).translate x.w.ctx addr.toNat .both with
  | .ok t => isWindow t.pa &&
      (scope != .system || wid == .b16 || !(op == .iadd || op == .exch || op == .cas))
  | .error _ => false

/-- The checks and the effects at issue that ATOM and RED share (R259, R265 to R268): the device after them, and the
operations. -/
def atomOp (x : Site) (a b : Opnd) (cas : Option Opnd) (off : Word) (op : AtomOp) (wid : Wid) (scope : Scope) (sp : Bool)
    (ls : List Lane) (f : Dev → List (PortIx × Lane × DWord) → List AtomLane → Act) : Act :=
  let space : Space := if sp then .scratch else .global
  let ty := atomDataTag op wid
  let regs := widRegs wid
  let casOk := match cas with
    | some c => x.v.defined regs c
    | none => true
  if !(x.addressOk space a && x.dataOk b ty regs && casOk) then x.format
  else
    let n := widBytes wid
    let as := ls.map fun l =>
      let addr := x.address space a off l
      (l, addr, addr % n == 0)
    match x.placesOf space n .both as (fun addr => !sp && x.windowRefuses op wid scope addr) with
    | .error e => .fault x.d e
    | .ok (d, ps) =>
      let data (o : Opnd) (l : Lane) : DWord := BitVec.ofNat 64 (x.dataOf o ty regs l)
      let lane (p : Place) : AtomLane :=
        { lane := p.lane, op := op, bytes := n, loc := p.loc, key := p.key
          data := match cas with
            | some c => data c p.lane
            | none => data b p.lane
          cmp := data b p.lane }
      let ops := ps.map lane
      let locs := ops.flatMap Dev.atomBytes
      if Dev.captureBlocked x.w x.w.loads.reverse locs then .hold x.d .atomic
      else match if sp then .ok d else d.flushOwn x.k x.j x.w (ps.map fun p => p.addr.toNat) with
      | .error e => x.wbFault e
      | .ok d =>
        f (((d.capture x.k x.j locs).dropCopies x.k locs).commit x.w.task) (windowsOf (ps.map fun p => (p.lane, p.addr, p.loc))) ops

/-- ATOM (R265, R268). -/
def atomic (x : Site) (o : D3) (off : Word) (op : AtomOp) (wid : Wid) (scope : Scope) (sp : Bool) : Act :=
  let ls := x.accessLanes (!Dst.isV o.d && o.a.isUniform && o.b.isUniform && o.c.isUniform)
  x.memory (home := true) false 0x85 (if sp then .scratch else .global) (widBytes wid)
    (x.addresses (if sp then .scratch else .global) o.a off ls) fun x sample =>
    x.atomOp o.a o.b (if op = .cas then some o.c else none) off op wid scope sp ls fun d win ops =>
      .done (x.startLoad d { blankLoad o.d (atomTag op wid) (widRegs wid) with
        atom := ops, win := win, sample := sample })

/-- RED (R265, R268). -/
def reduce (x : Site) (a b : Opnd) (off : Word) (op : AtomOp) (wid : Wid) (scope : Scope) (sp : Bool) : Act :=
  let ls := x.accessLanes (a.isUniform && b.isUniform)
  x.memory (home := true) true 0x86 (if sp then .scratch else .global) (widBytes wid)
    (x.addresses (if sp then .scratch else .global) a off ls) fun x sample =>
    x.atomOp a b none off op wid scope sp ls fun d win ops =>
      .done (x.startStore d { blankStore with red := ops, win := win, sample := sample })

/-- MONITOR (R269). -/
def monitor (x : Site) (a : Opnd) (off : Word) : Act :=
  if !x.v.has .i64 2 a then x.format
  else
    let pair := x.v.uniformPair a
    let sp : Space := if hiWord pair = 0x80000000#32 then .scratch else .global
    let addr : Int := if sp = .scratch then (loWord pair).toNat + off.toInt else (pair + off.signExtend 64).toNat
    match x.d.placeAt x.k x.j x.w sp addr 1 true .read with
    | .error c => .fault x.d (.warpWide c x.p (addrField sp addr))
    | .ok (d, .phys pa, _) => .done (d.arm x.k x.j (.phys (pa / 128 * 128)))
    | .ok (d, .bank c o, _) => .done (d.arm x.k x.j (.bank c (o / 128 * 128)))

/-- WAITMON (R270). -/
def waitMonitor (x : Site) (timeout : Word) : Act :=
  match x.w.monitor with
  | none => .done x.d
  | some (_, triggered) =>
    if triggered || x.w.preempt || x.w.haltPend then .done (x.d.disarm x.k x.j)
    else .wait x.d (.waitmon x.d.clock timeout.toNat)

end Site

def execAtom (c : Ctl) (o : D3) (off : Word) (op : AtomOp) (wid : Wid) (scope : Scope) (sp : Bool) (s : State) :
    Host.Outcome State Fault Refusal :=
  issue (.atom c o off op wid scope sp) c 0 (fun x => x.atomic o off op wid scope sp) s

def execRed (c : Ctl) (a b : Opnd) (off : Word) (op : AtomOp) (wid : Wid) (scope : Scope) (sp : Bool) (s : State) :
    Host.Outcome State Fault Refusal :=
  issue (.red c a b off op wid scope sp) c 0 (fun x => x.reduce a b off op wid scope sp) s

def execMonitor (c : Ctl) (a : Opnd) (off : Word) (s : State) : Host.Outcome State Fault Refusal :=
  issue (.monitor c a off) c 0 (fun x => x.monitor a off) s

def execWaitmon (c : Ctl) (timeout : Word) (s : State) : Host.Outcome State Fault Refusal :=
  issue (.waitmon c timeout) c 0 (fun x => x.waitMonitor timeout) s

/-! ### Steps of the memory system -/

/-- LOAD_COMPLETION (R141). -/
def execLoadCompletion (core : CoreIx) (slot : SlotIx) (i : Nat) (s : State) : Host.Outcome State Fault Refusal :=
  agent (fun d => d.completeLoad core slot i) s

/-- STORE_COMPLETION (R141). -/
def execStoreCompletion (core : CoreIx) (slot : SlotIx) (i : Nat) (s : State) : Host.Outcome State Fault Refusal :=
  agent (fun d => d.completeStore core slot i) s

/-- MONITOR_TRIGGER (R270): the i-th warp whose WAITMON waits on a triggered monitor goes on. -/
def execMonitorTrigger (i : Nat) (s : State) : Host.Outcome State Fault Refusal :=
  agent (fun d =>
    let due := d.warps.filter fun x => (Dev.waitmonOf x.2.2).isSome && x.2.2.monitor.any (·.2)
    match due[i]? with
    | some x => d.endWaitmon x.1 x.2.1
    | none => d) s

/-- WAITMON_TIMEOUT (R270): within (n + 1) × 256 cycles of issue, and not before n × 256. -/
def execWaitmonTimeout (core : CoreIx) (slot : SlotIx) (s : State) : Host.Outcome State Fault Refusal :=
  agent (fun d =>
    match (d.slot core slot).bind Dev.waitmonOf with
    | some (start, n) => if n ≠ 0 ∧ start + 256 * n ≤ d.clock then d.endWaitmon core slot else d
    | none => d) s

/-- WAITMON_UNPROMPTED_END (R270). -/
def execWaitmonUnpromptedEnd (core : CoreIx) (slot : SlotIx) (s : State) : Host.Outcome State Fault Refusal :=
  agent (fun d => if ((d.slot core slot).bind Dev.waitmonOf).isSome then d.endWaitmon core slot else d) s

/-- SLEEP_EXPIRY (R130): not before n cycles have passed. -/
def execSleepExpiry (core : CoreIx) (slot : SlotIx) (s : State) : Host.Outcome State Fault Refusal :=
  agent (fun d =>
    match d.slot core slot with
    | some w => match w.wait with
      | some (.sleep start n) =>
        if w.status = .running ∧ start + n ≤ d.clock then (d.stepPast core slot).closeWarp core slot else d
      | _ => d
    | none => d) s

end Sys2Proof.Machine
end

