-- ==== Sys2Proof/Machine/Order.lean ====
section
/-! DEFINITION. FENCE (R254, R264), BANKCFG (R220 to R224) and RMAP (R225, R227, R272,
R273), and ZERO_LENGTH_READ_COMPLETION. -/

namespace Sys2Proof.Machine

/-! ### FENCE -/

/-- Drops the tensor layout records cached for a context (R264, R284). -/
def Dev.dropRecords (d : Dev) (c : CtxIx) : Dev := { d with tlrs := d.tlrs.filter fun t => t.ctx != c }

def execFenceAcq (c : Ctl) (scope : Scope) (s : State) : Host.Outcome State Fault Refusal :=
  issue (.fenceAcq c scope) c 0 (fun x => .done (x.d.acquire x.k x.w.ctx scope)) s

def execFenceRel (c : Ctl) (scope : Scope) (s : State) : Host.Outcome State Fault Refusal :=
  issue (.fenceRel c scope) c 0 (fun x => x.releaseThen scope .done) s

def execFenceAr (c : Ctl) (scope : Scope) (s : State) : Host.Outcome State Fault Refusal :=
  issue (.fenceAr c scope) c 0 (fun x => x.releaseThen scope fun d =>
    let d := if scope = .die ∨ scope = .system then d.dropRecords x.w.ctx else d
    .done (d.acquire x.k x.w.ctx scope)) s

/-- ZERO_LENGTH_READ_COMPLETION (R253, R406): the posted writes before the oldest one are at home. -/
def execZeroLengthReadCompletion (port : PortIx) (s : State) : Host.Outcome State Fault Refusal :=
  agent (fun d =>
    let p := d.port port
    match p.zreads with
    | [] => d
    | z :: rest =>
      let d := (p.posted.take z.1).foldl (fun d w => w.bytes.foldl (fun d b => d.writePa 0 b.1 b.2) d) d
      (d.modPort port fun y => { y with
        posted := p.posted.drop z.1
        zreads := rest.map fun (q : Nat × Option (CoreIx × SlotIx)) => (q.1 - z.1, q.2) }).settleHome) s

/-! ### BANKCFG -/

/-- The banks that a BANKCFG operand names on the warp's core, with the allocation of the window form (Table 9.2). -/
structure BankRange where
  banks : List Nat
  alloc : Option Alloc
  deriving DecidableEq, Repr

/-- The three forms of BANKCFG (R220). -/
inductive BankForm where
  | cache
  | scratchpad
  | fifo (e : Nat)
  deriving DecidableEq, Repr

namespace Core

/-- A bank's mode by number. -/
def modeAt (c : Core) (b : Nat) : BankMode := (c.modes[b]?).getD .cache

/-- A bank holds an allocated granule. -/
def bankUsed (c : Core) (b : Nat) : Bool :=
  c.allocs.any fun a => a.start < (b + 1) * 0x4000 && b * 0x4000 < a.start + a.bytes

/-- A region covers a byte of a bank (R225). -/
def bankMapped (c : Core) (b : Nat) : Bool :=
  c.regions.any fun r => match c.allocs.find? fun a => a.id == r.alloc with
    | some a => a.start + r.woff < (b + 1) * 0x4000 && b * 0x4000 < a.start + r.woff + r.len
    | none => false

end Core

/-- A circular buffer is idle, but for CBACQs that wait on it (R224). -/
def Buffer.quiet (b : Buffer) : Bool := b.rsv == 0 && b.acq == 0 && b.filled == 0

/-- A CBACQ waits on a buffer. -/
def Dev.awaited (d : Dev) (k : CoreIx) (id : Nat) : Bool := d.warps.any fun x => x.2.2.wait == some (.cbacq k id)

namespace Site

/-- ENGINE_PARAM with its reason (Tables 9.3 and 10.6). -/
def param (x : Site) (reason : Nat) (addr : DWord) : Act := .fault x.d (.engineParam reason x.p addr)

/-- The warp's code object is privileged (R147). -/
def privileged (x : Site) : Bool :=
  match x.d.execAt x.w.ctx x.w.pc.toNat with
  | some e => e.cls == 1
  | none => false

/-- The range of a BANKCFG operand that passes RESERVED (Table 9.2). -/
def bankRange (x : Site) (a : Word) : BankRange :=
  let first := a.toNat % 16
  let n := a.toNat / 16 % 16 + 1
  if a.getLsbD 31 then
    match x.d.allocOf x.k x.w.owner with
    | some al => { banks := (List.range n).map fun i => al.start / 0x4000 + first + i, alloc := some al }
    | none => { banks := [], alloc := none }
  else { banks := (List.range n).map fun i => first + i, alloc := none }

/-- IN_USE (Table 9.3). -/
def bankInUse (x : Site) (f : BankForm) (a : Word) (r : BankRange) : Bool :=
  let c := x.d.core x.k
  let exact (b : Buffer) : Bool := (Core.bufBanks b) == r.banks
  let some_ (b : Buffer) : Bool := (Core.bufBanks b).any r.banks.contains
  let all (b : Buffer) : Bool := (Core.bufBanks b).all r.banks.contains
  (match a.getLsbD 31, r.alloc with
    | false, _ => r.banks.any fun b => c.bankUsed b || c.modeAt b == .fifo
    | true, none => true
    | true, some al => al.start % 0x4000 != 0 || al.bytes < (a.toNat % 16 + a.toNat / 16 % 16 + 1) * 0x4000) ||
  (match f with
    | .cache => false
    | .scratchpad => c.bufs.any fun b => some_ b && !all b
    | .fifo e => (r.banks.any fun b => c.modeAt b == .fifo) && !(c.bufs.any fun b => exact b && b.e == e))

/-- BUSY, but for the probe of a cache bank (Table 9.3). -/
def bankBusy (x : Site) (r : BankRange) : Bool :=
  let c := x.d.core x.k
  (c.bufs.any fun b => (Core.bufBanks b).any r.banks.contains && (!b.quiet || x.d.awaited x.k b.id)) ||
    r.banks.any c.bankMapped

/-- Sets the modes of banks. -/
def setModes (c : Core) (bs : List Nat) (m : BankMode) : Core :=
  { c with modes := bs.foldl (fun v b => v.setIfInBounds b m) c.modes }

/-- The change of the banks (R222). -/
def bankChange (x : Site) (f : BankForm) (a : Word) (r : BankRange) (d : Dev) : Dev :=
  let c := d.core x.k
  match f with
  | .cache =>
    let bs := r.banks.filter fun b => c.modeAt b == .scratchpad
    d.modCore x.k fun c => setModes { c with
      sram := bs.foldl (fun m b => Sparse.dropRange (b * 0x4000) ((b + 1) * 0x4000) m) c.sram } bs .cache
  | .scratchpad =>
    let bs := r.banks.filter fun b => c.modeAt b == .cache
    let bufs := c.bufs.filter fun b => (Core.bufBanks b).any r.banks.contains
    d.modCore x.k fun c =>
      let c := bufs.foldl (fun (c : Core) b => c.removeBuf b.id) c
      let keep := c.l1.filter fun l => !bs.contains l.way.val
      setModes { c with
        l1 := keep
        sram := bs.foldl (fun m b => Sparse.dropRange (b * 0x4000) ((b + 1) * 0x4000) m) c.sram } bs .scratchpad
  | .fifo e =>
    if c.bufs.any fun b => (Core.bufBanks b) == r.banks then d
    else
      let (id, d) := d.freshId
      let first := a.toNat % 16
      let n := r.banks.length * 0x4000 / (256 * 2 ^ e)
      let buf : Buffer := {
        id := id, alloc := (r.alloc.map (·.id)).getD 0, start := (r.banks.headD 0) * 0x4000, woff := first * 0x4000
        banks := r.banks.length
        e := e, n := n, head := 0, tail := 0, free := n, filled := 0, rsv := 0, acq := 0, order := [] }
      d.modCore x.k fun c => setModes { c with bufs := c.bufs ++ [buf] } r.banks .fifo

/-- BANKCFG (R220 to R222): the checks of Table 9.3 in order, then the change; a cache bank's dirty bytes go home first. -/
def bankcfg (x : Site) (f : BankForm) (a : Opnd) : Act :=
  if !x.v.has .i32 1 a then x.format
  else
    let w := x.v.uniform a
    let win := w.getLsbD 31
    let r := x.bankRange w
    let bad (reason : Nat) : Act := x.param reason (w.setWidth 64)
    let form : Bool := match f with
      | .fifo _ => !win
      | .cache => win
      | .scratchpad => false
    let small : Bool := match f with
      | .fifo e => r.banks.length * 0x4000 < 2 * (256 * 2 ^ e)
      | _ => false
    if fieldOf w 30 8 ≠ 0 ∨ 15 < w.toNat % 16 + w.toNat / 16 % 16 then bad 1
    else if form then bad 2
    else if !win && !x.privileged then bad 3
    else if x.bankInUse f w r then bad 4
    else if x.bankBusy r then bad 5
    else
      let ways := r.banks.filter fun b => (x.d.core x.k).modeAt b == .cache
      let leaves := f = .scratchpad
      match if leaves then x.d.writeBack x.k (fun l => ways.contains l.way.val) else .ok x.d with
      | .error e =>
        .fault x.d { FaultInfo.engineParam 5 x.p (w.setWidth 64) with wb := some (BitVec.ofNat 64 e.va) }
      | .ok d => if small then bad 6 else .done (x.bankChange f w r d)

end Site

def execBankcfgCache (c : Ctl) (a : Opnd) (s : State) : Host.Outcome State Fault Refusal :=
  issue (.bankcfgCache c a) c 0 (fun x => x.bankcfg .cache a) s

def execBankcfgScratchpad (c : Ctl) (a : Opnd) (s : State) : Host.Outcome State Fault Refusal :=
  issue (.bankcfgScratchpad c a) c 0 (fun x => x.bankcfg .scratchpad a) s

def execBankcfgFifo (c : Ctl) (a : Opnd) (e : Fin 8) (s : State) : Host.Outcome State Fault Refusal :=
  issue (.bankcfgFifo c a e) c 0 (fun x => x.bankcfg (.fifo e.val) a) s

/-! ### RMAP -/

namespace Site

/-- The window's bytes lie partly in a bank in FIFO mode. -/
def windowFifo (x : Site) (al : Alloc) (woff len : Nat) : Bool :=
  (List.range 16).any fun b => (x.d.core x.k).modeAt b == .fifo &&
    (al.start + woff < (b + 1) * 0x4000 && b * 0x4000 < al.start + woff + len)

/-- RMAP.map (R272, R273). -/
def rmapMap (x : Site) (a b e : Opnd) : Act :=
  if !(x.v.has .i32 1 a && x.v.has .i64 2 b && x.v.has .i32 1 e) then x.format
  else
    let w := x.v.uniform a
    let woff := w.toNat % 2 ^ 18
    let va := (x.v.uniformPair b).toNat
    let len := (x.v.uniform e).toNat
    let bad (reason : Nat) : Act := x.param reason (w.setWidth 64)
    if 2 ^ 18 ≤ w.toNat ∨ woff % 256 ≠ 0 ∨ va % 256 ≠ 0 ∨ len % 256 ≠ 0 then bad 1
    else match x.d.allocOf x.k x.w.owner with
      | none => bad 2
      | some al =>
        let c := x.d.core x.k
        if len = 0 ∨ al.bytes < woff + len ∨ !canonical va then bad 2
        else if c.regions.any fun r => r.alloc == al.id && r.woff < woff + len && woff < r.woff + r.len then bad 3
        else if 16 ≤ c.regions.length then bad 4
        else if x.windowFifo al woff len then bad 5
        else
          let region : Region := {
            owner := x.w.owner, alloc := al.id, ctx := x.w.ctx, woff := woff, len := len, va := va
            granules := List.replicate (len / 256) none }
          .done (x.d.modCore x.k fun c => { c with regions := c.regions ++ [region] })

/-- RMAP.unmap (R272, R273). -/
def rmapUnmap (x : Site) (a : Opnd) : Act :=
  if !x.v.has .i32 1 a then x.format
  else
    let w := x.v.uniform a
    let woff := w.toNat % 2 ^ 18
    let mine (r : Region) : Bool := r.owner == x.w.owner && r.woff == woff
    if 2 ^ 18 ≤ w.toNat ∨ woff % 256 ≠ 0 then x.param 1 (w.setWidth 64)
    else if !((x.d.core x.k).regions.any mine) then x.param 6 (w.setWidth 64)
    else match x.d.writeBackRegions x.k x.j mine with
      | .error e => x.wbFault e
      | .ok d => .done (d.modCore x.k fun c => { c with regions := c.regions.filter fun r => !mine r })

end Site

def execRmapMap (c : Ctl) (a b e : Opnd) (imm : Word) (s : State) : Host.Outcome State Fault Refusal :=
  issue (.rmapMap c a b e imm) c imm (fun x => x.rmapMap a b e) s

def execRmapUnmap (c : Ctl) (a : Opnd) (imm : Word) (s : State) : Host.Outcome State Fault Refusal :=
  issue (.rmapUnmap c a imm) c imm (fun x => x.rmapUnmap a) s

end Sys2Proof.Machine
end

