-- ==== Sys2Proof/Machine/Tlr.lean ====
section
/-! DEFINITION. Tensor layout records (Table 12.1, R281 to R284), the walk of a box (R285), the conversions of the engines
(R286), and their accesses to memory (R298, R299). -/

namespace Sys2Proof.Machine

/-- A tensor layout record image. -/
abbrev Tlr := BitVec 512

namespace Tlr

def base (r : Tlr) : Nat := fieldOf r 63 0
/-- The byte distance of dimension k at or above 1; dimension 0 lies densely. -/
def stride (r : Tlr) (k : Nat) : Nat := fieldOf r (64 + 32 * k - 1) (32 + 32 * k)
def ext (r : Tlr) (k : Nat) : Nat := fieldOf r (223 + 32 * k) (192 + 32 * k)
/-- The size of the box in dimension k, minus 1. -/
def box (r : Tlr) (k : Nat) : Nat := fieldOf r (359 + 8 * k) (352 + 8 * k)
def mfmt (r : Tlr) : Nat := fieldOf r 395 392
def lfmt (r : Tlr) : Nat := fieldOf r 399 396
def ndim (r : Tlr) : Nat := fieldOf r 402 400
def pres (r : Tlr) : Bool := r.getLsbD 403
def addBit (r : Tlr) : Bool := r.getLsbD 404
def qnt (r : Tlr) : Bool := r.getLsbD 405
def stat (r : Tlr) : Bool := r.getLsbD 406
def db (r : Tlr) : Bool := r.getLsbD 407
def tsr (r : Tlr) : Word := (r.extractLsb' 408 20).setWidth 32
def region (r : Tlr) : BitVec 12 := r.extractLsb' 432 12
def ring (r : Tlr) : Bool := r.getLsbD 447
/-- MCMASK or CREDIT. -/
def top (r : Tlr) : Nat := fieldOf r 511 448
def mcmask (r : Tlr) : Nat := fieldOf r 495 448

/-- Elements of the box. -/
def count (r : Tlr) : Nat := (List.range r.ndim).foldl (fun n k => n * (r.box k + 1)) 1

/-- The place of element n in the box, by dimension (R285). -/
def place (r : Tlr) (n : Nat) : Nat → Nat
  | 0 => n % (r.box 0 + 1)
  | k + 1 => n / ((List.range (k + 1)).foldl (fun m i => m * (r.box i + 1)) 1) % (r.box (k + 1) + 1)

/-- The signed coordinate k of an origin (R285). -/
def originAt (o : DWord) (k : Nat) : Int :=
  match k with
  | 0 => sextN 20 (fieldOf o 19 0)
  | 1 => sextN 20 (fieldOf o 39 20)
  | 2 => sextN 8 (fieldOf o 47 40)
  | 3 => sextN 8 (fieldOf o 55 48)
  | _ => sextN 8 (fieldOf o 63 56)

/-- The tensor's coordinate k of element n. -/
def coord (r : Tlr) (o : DWord) (n k : Nat) : Int := originAt o k + r.place n k

/-- Element n lies inside the tensor. -/
def inside (r : Tlr) (o : DWord) (n : Nat) : Bool :=
  (List.range r.ndim).all fun k => 0 ≤ r.coord o n k && r.coord o n k < r.ext k

end Tlr

/-! ### Element formats -/

/-- The size of an element format (Table 12.2). -/
def fmtSize (f : Nat) : Nat :=
  if f = 2 ∨ f = 5 ∨ f = 9 ∨ f = 10 then 2 else if f = 3 ∨ f = 6 ∨ f = 8 then 4 else if f = 7 then 8 else 1

/-- The formats that carry bits without interpretation. -/
def fmtRaw (f : Nat) : Bool := 4 ≤ f && f ≤ 7

/-- Codes that Table 12.2 assigns. -/
def fmtOk (f : Nat) : Bool := f ≤ 12

/-- A formatted code as a conversion type (R282). -/
def fmtTyp (f : Nat) : Typ := Typ.ofCode f

/-- The pairs of Table 12.3. -/
def pairOk (src dst : Nat) : Bool :=
  src == dst || (!fmtRaw src && !fmtRaw dst && (src ≤ 3 || dst ≤ 3))

/-- The zero of a format (R285). -/
def fmtZero (f : Nat) : Nat :=
  match (fmtTyp f).fmt? with
  | some g => if f ≤ 3 then (Num.zero false).code g else 0
  | none => 0

/-- The exact log of a finite value, plus a scale of s / 8, rounded to a log format; a value above the range, or infinite,
saturates (R288, R345, R346). -/
def scaled (f : Fmt) (r : RCtx) (s : Int) (x : CvtVal) : Res :=
  let r := { r with sat := true }
  match x with
  | .zero g => (.zero g, 0)
  | .nan g (some (src, p)) => (nanTo src f g p, 0)
  | .nan g none => (.canonical f g, 0)
  | .inf g => (.fin g (2 ^ (f.logBits - 1) - 1), Ev.sat)
  | .log g src l => roundLog f r g ⟨(l * 2 ^ (22 - src.frac) + s * 2 ^ 19) * 2 ^ (11 + f.frac), true⟩
  | .lin g c e =>
    let n := max f.frac 3
    let low : Int := 2 ^ (n - f.frac)
    match Exact.sumLog n [(signed g c, e * 2 ^ n + s * 2 ^ (n - 3))] 1 with
    | none => (.zero g, 0)
    | some (neg, y) => roundLog f r neg ⟨y.q / low, y.exact && y.q % low == 0⟩

/-- One element through an engine (R286, R288): its bits and whether it saturated. -/
def engineConv (src dst : Nat) (subIn : Bool) (scale : Option Int) (x : Nat) : Nat × Bool :=
  match scale, (fmtTyp dst).fmt? with
  | some s, some f =>
    let y := scaled f ⟨.rn, 0, true⟩ s (CvtVal.of (fmtTyp src) subIn x)
    (y.1.code f, y.2 == Ev.of_ || y.2 == Ev.sat)
  | _, _ =>
    if src = dst then (x % 2 ^ (8 * fmtSize src), false)
    else
      let y := convert (fmtTyp dst) (fmtTyp src) ⟨.rn, 0, true⟩ subIn true x
      (y.1, y.2 &&& Ev.sat != 0 || y.2 &&& Ev.of_ != 0)

/-- An element as statistics count it (R337). -/
def statVal (f : Nat) (x : Nat) : CvtVal := CvtVal.of (fmtTyp f) false x

/-! ### Errors and accesses of the engines -/

/-- What stops an access of an engine: an error with its reason, its address and the kind that its entry carries instead of
the command's own, or a page that is not resident. -/
inductive EngErr where
  | fail (reason : Nat) (addr : DWord) (kind : Option Nat := none)
  | wait (va : Nat)
  deriving DecidableEq, Repr

namespace Dev

/-- What a failed translation is to an engine (R292). -/
def engErr (va code : Nat) : EngErr :=
  if code = Code.notres then .wait va else .fail (reasonOf va code) (BitVec.ofNat 64 va)

/-- An access through a port that is down (R304, R407). -/
def linkDown (d : Dev) (pa : Nat) : Option EngErr :=
  match portOf pa with
  | some p => if (d.port p).up then none else some (.fail Reason.link (BitVec.ofNat 64 pa))
  | none => none

/-- The posted writes of a window's port come home before an engine reads or writes there (R303, R406). -/
def behindPort (d : Dev) (pa : Nat) : Dev :=
  match portOf pa with
  | some p =>
    let d := (d.port p).posted.foldl (fun d w => w.bytes.foldl (fun d b => d.writePa 0 b.1 b.2) d) d
    d.modPort p fun x => { x with posted := [], zreads := x.zreads.map fun z => (0, z.2) }
  | none => d

/-- The selection of a page's region as it stands (R244). -/
def selection (d : Dev) (c : CtxIx) (va : Nat) : Bool :=
  match d.context c with
  | some x => match d.pteOf c x va with
    | some e => pteDb e && x.flipped.contains (pteRegion e)
    | none => false
  | none => false

/-- An engine reads n bytes of memory at home, from the backing that a selection picks (R244, R260, R285, R298). -/
def engReadSel (d : Dev) (c : CtxIx) (va n : Nat) (sel : Bool) : Except EngErr (Dev × List Byte) :=
  if 2 ^ 64 ≤ va then .error (.fail Reason.noncanon (BitVec.ofNat 64 va))
  else match d.translate c va .read (sel != d.selection c va) with
    | .error e => .error (engErr va e)
    | .ok t => match d.linkDown t.pa with
      | some e => .error e
      | none =>
        let d := d.behindPort t.pa
        .ok (d, d.readBytes t.key t.pa n)

/-- An engine reads n bytes of memory at home. -/
def engRead (d : Dev) (c : CtxIx) (va n : Nat) : Except EngErr (Dev × List Byte) := d.engReadSel c va n (d.selection c va)

/-- The translation of an engine's write, into the shadow of the record's region under DB and under the selection that the
command first read (R298): whether the page is double-backed as the record says, then the checks of R243. -/
def engTrans (d : Dev) (c : CtxIx) (r : Tlr) (va : Nat) (acc : Access) (sel : Bool) : Except EngErr Trans :=
  if 2 ^ 64 ≤ va ∨ !canonical va then .error (.fail Reason.noncanon (BitVec.ofNat 64 va))
  else
    let ok := !r.db || match d.context c with
      | some x => match d.pteOf c x va with
        | some e => pteDb e && pteRegion e == r.region
        | none => false
      | none => false
    if !ok then .error (.fail Reason.dbMismatch (BitVec.ofNat 64 va))
    else match d.translate c va acc (r.db != (sel != d.selection c va)) with
      | .error e => .error (engErr va e)
      | .ok t => match d.linkDown t.pa with
        | some e => .error e
        | none => .ok t

/-- The first write into the shadow of a fresh page (R299): under PRES the live backing's bytes are
copied first, whose failure is logged with KIND 6. -/
def freshen (d : Dev) (c : CtxIx) (r : Tlr) (va : Nat) (t : Trans) : Except EngErr Dev :=
  let page := va57 va / 0x10000
  match d.context c with
  | none => .ok d
  | some x =>
    if !r.db || x.stale.contains page then .ok d
    else
      let d := d.putContext c { x with stale := x.stale ++ [page] }
      if !r.pres then .ok d
      else match d.translate c va .read with
        | .ok live =>
          .ok (d.writeBytes t.key (t.pa / 0x10000 * 0x10000)
            (d.readBytes live.key (live.pa / 0x10000 * 0x10000) 0x10000))
        | .error e => .error (match engErr va e with
          | .fail r a _ => .fail r a (some 6)
          | w => w)

/-- The sum of ADD at home (R287). -/
def addElem (f old new : Nat) : Nat :=
  match f with
  | 2 => (RealOp.add .l16 ⟨.rn, 0, false⟩ (Num.ofCode .l16 old) (Num.ofCode .l16 new)).1.code .l16
  | 3 => (RealOp.add .l32 ⟨.rn, 0, false⟩ (Num.ofCode .l32 old) (Num.ofCode .l32 new)).1.code .l32
  | _ => (old + new) % 2 ^ (8 * fmtSize f)

/-- An engine writes one element of memory at home, or adds it there (R285, R287, R298): the device and the element as it
stands there. A page that has been published since the command translated it is written as live, and stays fresh. ADD of an element
in a window reads and writes at its target: DESIGN CHOICE (log 123). -/
def engWrite (d : Dev) (c : CtxIx) (r : Tlr) (va f x : Nat) (sel : Bool) : Except EngErr (Dev × Nat) :=
  match d.engTrans c r va (if r.addBit then .both else .write) sel with
  | .error e => .error e
  | .ok t =>
    match if sel = d.selection c va then d.freshen c r va t else .ok d with
    | .error e => .error e
    | .ok e =>
      let e := e.behindPort t.pa
      let n := fmtSize f
      let y := if r.addBit then addElem f (leNat (e.readBytes t.key t.pa n)) x else x
      .ok ((e.writeBytes t.key t.pa (leBytes n y)).writtenBy (d.partOf c) d.regWrites.length, y)

/-! ### The record cache -/

/-- The image of a record, from the engines' cache, whose least recently used image stands first, or else from home, where the
cache takes it (R284, R305). -/
def readTlr (d : Dev) (c : CtxIx) (va : Nat) (pa : Nat) (key : BitVec 10) : Tlr × Dev :=
  match d.tlrs.find? fun t => t.ctx == c && t.va == va with
  | some t => (t.image, { d with tlrs := d.tlrs.filter (· != t) ++ [t] })
  | none =>
    let image : Tlr := BitVec.ofNat 512 (leNat (d.readBytes key pa 64))
    (image, { d with tlrs := d.tlrs ++ [{ ctx := c, va := va, image := image }] })

end Dev

end Sys2Proof.Machine
end

