-- ==== Sys2Proof/Machine/Copy.lean ====
section
/-! DEFINITION. Issue of the commands of the bulk copy engines (R278 to R297): the checks of records and operands (R283,
R289, R290, R296, R329, R335), CPY in its four forms, CPYM, circular buffers (R293 to R295), LRINV (R302) and PUBLISH up to
its request (R300, R301). -/

namespace Sys2Proof.Machine

/-! ### Checks of a record -/

namespace Tlr

/-- Whether a record describes a side in memory that its command writes (R289). -/
def writes (k : CopyKind) (second : Bool) : Bool := k == .lg || k == .drain || (k == .gg && second)

/-- Bytes of the box in elements of a size. -/
def boxBytes (r : Tlr) (size : Nat) : Nat := r.count * size

/-- RESERVED (Table 12.5): a reserved field, a dimension above NDIM, a code that Table 12.2 does not assign; LFMT of CPY.gg is
ignored. Bits 511:496 of a CPYM record count as reserved, not as receivers: DESIGN CHOICE (log 122). -/
def badReserved (r : Tlr) (k : CopyKind) (o : DWord) : Bool :=
  let nd := r.ndim
  nd == 0 || 5 < nd || !fmtOk r.mfmt || (k != .gg && !fmtOk r.lfmt) || fieldOf r 446 444 != 0 || fieldOf r 431 428 != 0 ||
    ((List.range 5).any fun i => nd ≤ i && (r.ext i != 0 || r.box i != 0 || (i != 0 && r.stride i != 0))) ||
    ((List.range 5).any fun i => nd ≤ i && originAt o i != 0) || (!r.ring && r.top / 2 ^ 48 != 0)

/-- The format of the side that the command writes. -/
def dstFmt (r : Tlr) (k : CopyKind) (second : Bool) : Nat := if writes k second then r.mfmt else r.lfmt

/-- FORMAT_PAIR (Table 12.5) of one record; the pair of CPY.gg spans two. STAT and QNT together count here: DESIGN CHOICE
(log 122). -/
def badPair (r : Tlr) (k : CopyKind) (second : Bool) : Bool :=
  let w := writes k second
  let dst := r.dstFmt k second
  let pair := match k with
    | .gg => true
    | .drain => r.lfmt == 3 && !fmtRaw r.mfmt
    | _ => pairOk r.mfmt r.lfmt
  let addTo := if k = .drain then [2, 3] else [2, 3, 6, 7]
  !pair || (r.ring && !(k == .gg && second)) || (r.addBit && !(w && addTo.contains dst)) || (r.db && !w) ||
    (r.stat && r.qnt) || (k == .gg && !second && (r.stat || r.qnt || r.pres)) || (r.qnt && 2 < dst) || (r.stat && fmtRaw dst)

/-- GEOMETRY (Table 12.5) of one record. A record of CPY.gg has its own msize for the limit of the box, and STRIDE or EXT in a
ring's record count here: DESIGN CHOICE (log 122). -/
def badGeometry (r : Tlr) (k : CopyKind) (cnt : Nat) : Bool :=
  let ms := fmtSize r.mfmt
  let bytes := r.boxBytes (if k = .gg then ms else fmtSize r.lfmt)
  !canonical r.base || r.base % ms != 0 || ((List.range 4).any fun i => r.stride (i + 1) % ms != 0) ||
    (if k = .multicast then 0x8000 else 0x40000) < bytes ||
    (r.ring && (List.range 5).any fun i => r.ext i != 0 || (i != 0 && r.stride i != 0)) ||
    (k == .drain && !(r.box 0 == 63 && r.box 1 + 1 == 32 * cnt && r.box 2 == 0 && r.box 3 == 0 && r.box 4 == 0))

/-- MULTICAST (Table 12.5). -/
def badMulticast (r : Tlr) (k : CopyKind) : Bool := if k = .multicast then r.mcmask == 0 else !r.ring && r.mcmask != 0

/-- The first of RESERVED, FORMAT_PAIR, GEOMETRY and MULTICAST that the records of a command break (R283, R289, R296, R303,
R329). -/
def reason (k : CopyKind) (r1 : Tlr) (r2 : Option Tlr) (o : DWord) (cnt : Nat) : Option Nat :=
  let bad (f : Tlr → Bool → Bool) : Bool := f r1 false || r2.any fun r => f r true
  if bad fun r _ => r.badReserved k o then some 1
  else if (bad fun r second => r.badPair k second) || r2.any fun r => !pairOk r1.mfmt r.mfmt then some 2
  else if (bad fun r _ => r.badGeometry k cnt) ||
      r2.any fun r => r.ndim != r1.ndim || (List.range 5).any fun i => r.box i != r1.box i then some 3
  else if bad fun r _ => r.badMulticast k then some 5
  else none

end Tlr

/-! ### Commands at issue -/

/-- The record of the memory side, of CPY.gg the source. -/
def CopyCmd.side1 (c : CopyCmd) : Tlr := c.rec1

/-- The destination record of CPY.gg. -/
def CopyCmd.side2 (c : CopyCmd) : Tlr := c.rec2

/-- The record through which a command writes, updates statistics and adds: of CPY.gg the second. -/
def CopyCmd.out (c : CopyCmd) : Tlr := if c.kind = .gg then c.side2 else c.side1

/-- A command writes into the shadow of a region (R298). -/
def CopyCmd.shadow (c : CopyCmd) : Option (BitVec 12) :=
  match c.kind with
  | .lg | .gg | .drain => if c.out.db then some c.out.region else none
  | _ => none

/-- A command with its kind and its issuer alone. -/
def CopyCmd.blank (k : CopyKind) (b : Issuer) : CopyCmd where
  id := 0
  kind := k
  by_ := b
  rec1 := 0
  recVa := 0
  rec2 := 0
  place := none
  origin := 0
  dep := none
  subIn := false
  got := []
  moved := []
  deltas := []
  sel := []
  recs := []
  gen := none
  qrec := none
  buf := none
  slot := none
  slotAt := 0
  tiles := (0, 0)
  after := []
  merge := (0, 0)
  ringSlot := none
  tile := none
  receivers := []
  skipped := false
  sats := 0
  clipped := false
  scaled := false
  waiting := none
  error := none
  packet := none

/-- What the checks of one lane give: the device after the lane's reads, and its cause with the reason of ENGINE_PARAM or what
the lane issues. -/
abbrev Checked (α : Type) := Dev × Except (Nat × DWord × Nat) α

namespace Dev

/-- GEN of a record as its home holds it, where the record can be read (R338). -/
def genOf (d : Dev) (c : CtxIx) (idx : Word) : Option Word :=
  (d.context c).bind fun x => match d.translate c (x.tsrVa idx) .read with
    | .ok t => some (d.tsrWord t.key t.pa 0)
    | .error _ => none

/-- The buffer whose first byte a resolved place names (R223). -/
def bufferAt (d : Dev) (r : LocalRef) : Option Buffer :=
  (d.core r.core).bufs.find? fun b => b.alloc == r.alloc && b.woff == r.off

/-- Bytes of a slot (R223). -/
def slotBytes (b : Buffer) : Nat := 256 * 2 ^ b.e

end Dev

namespace Site

/-- ENGINE_PARAM of a lane. -/
def laneParam {α : Type} (d : Dev) (reason : Nat) (addr : DWord) : Checked α := (d, .error (Code.engineParam, addr, reason))

/-- The fault of an engine instruction whose lanes carry causes (R139, R290): DETAIL is the reason of the lane that decides
where that is ENGINE_PARAM. -/
def laneFault (bad : List (Lane × Nat × DWord × Nat)) : FaultInfo :=
  let lanes := bad.map fun b => { lane := b.1, cause := b.2.1, addr := b.2.2.1 : LaneCause }
  match bad.find? fun b => b.2.1 == Code.engineParam with
  | some b => { code := Code.engineParam, lanes := lanes, detail := BitVec.ofNat 32 b.2.2.2 }
  | none => { code := (bad.head?.map (·.2.1)).getD 0, lanes := lanes }

/-- The checks of every participating lane in ascending order (R139): the device after their reads, which leave the records read
in the cache (R284), and the causes found or what the lanes issue. -/
def eachLane {α : Type} (x : Site) (f : Dev → Lane → Checked α) : Dev × Except FaultInfo (List α) :=
  let r := (lanesOf x.p).foldl (fun (r : Dev × List (Lane × Nat × DWord × Nat) × List α) l =>
    match f r.1 l with
    | (d, .ok c) => (d, r.2.1, r.2.2 ++ [c])
    | (d, .error e) => (d, r.2.1 ++ [(l, e)], r.2.2)) (x.d, [], [])
  (r.1, if r.2.1.isEmpty then .ok r.2.2 else .error (laneFault r.2.1))

/-- A record read at issue: an aligned 64-byte load under R139, then the image (R284, R290 step 2). -/
def readRecord (x : Site) (d : Dev) (va addr : DWord) : Except (Nat × DWord × Nat) (Dev × Tlr) :=
  match d.placeAt x.k x.j x.w .global va.toNat 64 (va.toNat % 64 == 0) .read with
  | .error c => .error (c, addr, 0)
  | .ok (d, .phys pa, key) =>
    let (r, d) := (if d.tlrs.any fun t => t.ctx == x.w.ctx && t.va == va.toNat then d else d.drainFor [.phys pa]).readTlr
      x.w.ctx va.toNat pa key
    .ok (d, r)
  | .ok (_, .bank _ _, _) => .error (Code.addrInvalid, addr, 0)

/-- TSR_RANGE of a record that names a statistics record (R335). -/
def tsrOk (x : Site) (r : Tlr) : Bool :=
  !(r.stat || r.qnt) || (match x.d.context x.w.ctx with
    | some c => c.tsrIndexOk r.tsr
    | none => false)

/-- The commands of an instruction's lanes enter the copy queue and count (R280, R291, R359). -/
def enqueued (x : Site) (commits : Bool) (d : Dev) (cs : List CopyCmd) : Dev :=
  let d := if commits then d.commit x.w.task else d
  let d := cs.foldl (fun d c =>
    let (id, d) := d.freshId
    let gen := if c.kind ≠ .merge ∧ c.out.stat then d.genOf x.w.ctx c.out.tsr else none
    d.modCore x.k fun y => { y with copyQ := y.copyQ ++ [{ c with id := id, gen := gen }] }) d
  d.modWarp x.k x.j fun w => { w with cp := w.cp + (lanesOf x.p).length }

/-- Issue of copy commands (R176, R291): held until every lane's command finds room, then each lane's command enters the
copy queue and counts. -/
def enqueue (x : Site) (commits tags : Bool) (f : Dev → Lane → Checked CopyCmd) : Act :=
  let n := (lanesOf x.p).length
  if 63 < x.w.cp + n then .hold x.d .counter
  else if 16 < (x.d.core x.k).copyQ.length + n then .hold x.d .queue
  else if !tags then x.format
  else match x.eachLane f with
    | (d, .error e) => .fault d e
    | (d, .ok cs) => .done (x.enqueued commits d cs)

/-- What every copy command captures at issue (R280, R289). -/
def command (x : Site) (k : CopyKind) (dep : Dep) : CopyCmd :=
  { CopyCmd.blank k x.issuer with dep := dep.map fun n => (x.cl, n), subIn := modeSubIn x.w.mode }

/-- The local place of CPY (R290 step 4, R292): LOCAL unless its bytes are valid and aligned, or the buffer's slots hold the
box. -/
def localPlace (x : Site) (k : CopyKind) (r : Tlr) (addr : Word) : Option (LocalRef × Option Nat) :=
  let bytes := r.boxBytes (fmtSize r.lfmt)
  if k = .gf then
    (x.d.scratchRef x.k x.w addr.toNat 1).bind fun p => (x.d.bufferAt p).bind fun b =>
      if bytes ≤ Dev.slotBytes b then some (p, some b.id) else none
  else if addr.toNat % fmtSize r.lfmt ≠ 0 then none
  else (x.d.scratchRef x.k x.w addr.toNat bytes).map fun p => (p, none)

/-- One lane of CPY `.gl`, `.lg` and `.gf` (R289, R290). -/
def copyLane (x : Site) (k : CopyKind) (a b e : Opnd) (dep : Dep) (d : Dev) (l : Lane) : Checked CopyCmd :=
  let va := x.v.pair a l
  let o := x.v.pair e l
  match x.readRecord d va va with
  | .error c => (d, .error c)
  | .ok (d, r) =>
    match Tlr.reason k r none o 0 with
    | some n => laneParam d n va
    | none =>
      if !x.tsrOk r then laneParam d 32 va
      else match x.localPlace k r (x.v.word b l) with
        | none => laneParam d 4 va
        | some (p, buf) =>
          (d, .ok { x.command k dep with rec1 := r, recVa := va.toNat, place := some p, origin := o, buf := buf })

/-- CPY `.gl`, `.lg` and `.gf`. -/
def copy (x : Site) (k : CopyKind) (a b e : Opnd) (dep : Dep) : Act :=
  x.enqueue (k == .lg) (x.v.has .i64 2 a && x.v.has .i32 1 b && x.v.has .i64 2 e) (x.copyLane k a b e dep)

/-- One lane of CPY `.gg` (R289, R303); the address of a fault of its records' contents is the first record's, DESIGN CHOICE
(log 119). -/
def copyGgLane (x : Site) (a e : Opnd) (dep : Dep) (d : Dev) (l : Lane) : Checked CopyCmd :=
  let va := x.v.pair a l
  let o := x.v.pair e l
  match x.readRecord d va va with
  | .error c => (d, .error c)
  | .ok (d, r1) =>
    match x.readRecord d (va + 64) (va + 64) with
    | .error c => (d, .error c)
    | .ok (d, r2) =>
      match Tlr.reason .gg r1 (some r2) o 0 with
      | some n => laneParam d n va
      | none =>
        if !x.tsrOk r2 then laneParam d 32 va
        else (d, .ok { x.command .gg dep with rec1 := r1, recVa := va.toNat, rec2 := r2, origin := o })

/-- CPY `.gg`. -/
def copyGg (x : Site) (a e : Opnd) (dep : Dep) : Act :=
  x.enqueue true (x.v.has .i64 2 a && x.v.has .i64 2 e) (x.copyGgLane a e dep)

/-- The cores that a CPYM names, each with the allocation of the issuing warp's owner there, if there is one (R219, R296). -/
def receivers (x : Site) (r : Tlr) : List (Fin 48 × Option Nat × Option Nat) :=
  ((List.finRange 48).filter fun c => r.mcmask.testBit c.val).map fun c =>
    (c, (x.d.allocOf (coreOf x.cl c) x.w.owner).map (·.id), none)

/-- One lane of CPYM (R296). -/
def multicastLane (x : Site) (a b e : Opnd) (dep : Dep) (d : Dev) (l : Lane) : Checked CopyCmd :=
  let va := x.v.pair a l
  let o := x.v.pair e l
  let off := x.v.uniform b
  match x.readRecord d va va with
  | .error c => (d, .error c)
  | .ok (d, r) =>
    if 2 ^ 18 ≤ off.toNat then laneParam d 1 va
    else match Tlr.reason .multicast r none o 0 with
      | some n => laneParam d n va
      | none =>
        if !x.tsrOk r then laneParam d 32 va
        else (d, .ok { x.command .multicast dep with
          rec1 := r, recVa := va.toNat, origin := o, receivers := x.receivers r
          place := some { core := x.k, alloc := 0, off := off.toNat, addr := off.toNat } })

/-- CPYM. -/
def multicast (x : Site) (a b e : Opnd) (dep : Dep) : Act :=
  x.enqueue false (x.v.has .i64 2 a && x.v.has .i32 1 b && x.v.has .i64 2 e) (x.multicastLane a b e dep)

end Site

/-! ### Circular buffers -/

namespace Core

/-- Changes a buffer. -/
def modBuf (c : Core) (id : Nat) (f : Buffer → Buffer) : Core :=
  { c with bufs := c.bufs.map fun b => if b.id == id then f b else b }

end Core

namespace Buffer

/-- Reserves the slot at TAIL (R293). -/
def reserve (b : Buffer) : Buffer :=
  { b with free := b.free - 1, rsv := b.rsv + 1, tail := (b.tail + 1) % b.n, order := b.order ++ [(b.tail, false)] }

/-- A reserved slot is filled: the filled slots at the front of the reservation order count in FILLED (R223, R293). -/
def fill (b : Buffer) (slot : Nat) : Buffer :=
  let order := b.order.map fun (r : Nat × Bool) => if r.1 == slot then (r.1, true) else r
  let n := (order.takeWhile fun r => r.2).length
  { b with order := order.drop n, rsv := b.rsv - n, filled := b.filled + n }

/-- Acquires the slot at HEAD (R294). -/
def acquire (b : Buffer) : Buffer :=
  { b with filled := b.filled - 1, acq := b.acq + 1, head := (b.head + 1) % b.n }

/-- Releases the oldest acquired slot (R295). -/
def release (b : Buffer) : Buffer := { b with acq := b.acq - 1, free := b.free + 1 }

end Buffer

namespace Site

/-- The buffer that a uniform operand names (R294). -/
def bufferOf (x : Site) (a : Opnd) : Option (LocalRef × Buffer) :=
  (x.d.scratchRef x.k x.w (x.v.uniform a).toNat 1).bind fun r => (x.d.bufferAt r).map fun b => (r, b)

/-- CBACQ (R294). -/
def cbAcquire (x : Site) (dst : Dst) (a : Opnd) : Act :=
  if !x.v.has .i32 1 a then x.format
  else
    let addr := x.v.uniform a
    match x.bufferOf a with
    | none => x.param 6 (addr.setWidth 64)
    | some (r, b) =>
      if b.filled = 0 then .hold x.d (.cbacq r.core b.id)
      else
        let slot := addr + BitVec.ofNat 32 (b.head * Dev.slotBytes b)
        let d := x.d.modCore r.core fun c => c.modBuf b.id Buffer.acquire
        .done (d.modWarp x.k x.j fun w => w.setDst dst 0 x.p (fun _ => slot) .i32)

/-- CBREL (R295). -/
def cbRelease (x : Site) (a : Opnd) : Act :=
  if !x.v.has .i32 1 a then x.format
  else if !x.w.drained then .hold x.d (.release 1)
  else match x.bufferOf a with
    | none => x.param 6 ((x.v.uniform a).setWidth 64)
    | some (r, b) =>
      if b.acq = 0 then x.param 6 ((x.v.uniform a).setWidth 64)
      else .done (x.d.modCore r.core fun c => c.modBuf b.id Buffer.release)

end Site

/-! ### PUBLISH up to its request -/

namespace Dev

/-- An address lies on a page of a double-backed region of a context (R244). -/
def inRegionAt (d : Dev) (c : CtxIx) (r : BitVec 12) (va : Nat) : Bool :=
  match d.context c with
  | some x => match d.pteOf c x va with
    | some e => pteDb e && pteRegion e == r
    | none => false
  | none => false

/-- A line of an L1 belongs to a page of a double-backed region of a context (R244). -/
def inRegion (d : Dev) (c : CtxIx) (r : BitVec 12) (l : L1Line) : Bool := l.ctx == c && d.inRegionAt c r l.va

/-- The loads under way that were translated into a region keep the old selection: they read at home and fill no line
(R261). -/
def fixLoads (d : Dev) (c : CtxIx) (r : BitVec 12) : Dev :=
  let fix (p : PLoad) : PLoad := { p with
    lanes := p.lanes.map fun l => if l.l1 && d.inRegionAt c r (va57 l.va) then { l with l1 := false } else l
    fills := p.fills.filter fun f => !d.inRegionAt c r (va57 f.va) }
  d.mapWarps fun _ _ w => some (if w.ctx = c then { w with loads := w.loads.map fix } else w)

/-- The lowest line of a region whose write-back would fail, on any core (R261, R370, R371). -/
def regionProbe (d : Dev) (c : CtxIx) (r : BitVec 12) : Option WbFault :=
  let bad := d.cores.filterMap fun e =>
    if h : e.1 < 384 then
      match d.probe ⟨e.1, h⟩ (d.dirtyLines ⟨e.1, h⟩ (d.inRegion c r)) with
      | .error f => some f
      | .ok _ => none
    else none
  match bad with
  | [] => none
  | b :: bs => some (bs.foldl (fun m x => if x.va < m.va then x else m) b)

/-- A command of a warp that names a region in a destination record is still under way (R300 step 1). -/
def publishHeld (d : Dev) (b : Issuer) (r : BitVec 12) : Bool :=
  let mine (c : CopyCmd) : Bool := c.by_ == b && c.shadow == some r
  (d.core b.core).copyQ.any mine || (d.cluster (clusterOf b.core)).engine.any mine

end Dev

/-- PUBLISH (R300, R261): its checks, the wait for the warp's own commands, the probe of the write-back; then it waits for
its publish point. -/
def Site.publish (x : Site) (a : Opnd) : Act :=
  if !x.v.has .i32 1 a then x.format
  else
    let w := x.v.uniform a
    let r : BitVec 12 := w.setWidth 12
    if 2 ^ 12 ≤ w.toNat then x.param 7 (w.setWidth 64)
    else if x.d.publishHeld x.issuer r then .hold x.d .commands
    else match x.d.regionProbe x.w.ctx r with
      | some e => x.wbFault e
      | none => .wait (x.d.commit x.w.task) (.publish r x.p)

/-! ### The instructions -/

def execCpyGl (c : Ctl) (a b e : Opnd) (dep : Dep) (s : State) : Host.Outcome State Fault Refusal :=
  issue (.cpyGl c a b e dep) c 0 (fun x => x.copy .gl a b e dep) s

def execCpyLg (c : Ctl) (a b e : Opnd) (dep : Dep) (s : State) : Host.Outcome State Fault Refusal :=
  issue (.cpyLg c a b e dep) c 0 (fun x => x.copy .lg a b e dep) s

def execCpyGf (c : Ctl) (a b e : Opnd) (dep : Dep) (s : State) : Host.Outcome State Fault Refusal :=
  issue (.cpyGf c a b e dep) c 0 (fun x => x.copy .gf a b e dep) s

def execCpyGg (c : Ctl) (a e : Opnd) (dep : Dep) (s : State) : Host.Outcome State Fault Refusal :=
  issue (.cpyGg c a e dep) c 0 (fun x => x.copyGg a e dep) s

def execCpym (c : Ctl) (a b e : Opnd) (dep : Dep) (s : State) : Host.Outcome State Fault Refusal :=
  issue (.cpym c a b e dep) c 0 (fun x => x.multicast a b e dep) s

def execPublish (c : Ctl) (a : Opnd) (imm : Word) (s : State) : Host.Outcome State Fault Refusal :=
  issue (.publish c a imm) c imm (fun x => x.publish a) s

/-- LRINV (R302). -/
def execLrinv (c : Ctl) (a : Opnd) (imm : Word) (s : State) : Host.Outcome State Fault Refusal :=
  issue (.lrinv c a imm) c imm (fun x =>
    if !x.v.has .i64 2 a then x.format
    else
      let va := (x.v.uniformPair a).toNat
      .done { x.d with tlrs := x.d.tlrs.filter fun (t : TlrImage) => !(t.ctx == x.w.ctx && t.va == va) }) s

/-- LRINV.all (R302). -/
def execLrinvAll (c : Ctl) (s : State) : Host.Outcome State Fault Refusal :=
  issue (.lrinvAll c) c 0 (fun x => .done (x.d.dropRecords x.w.ctx)) s

def execCbacq (c : Ctl) (d : Dst) (a : Opnd) (imm : Word) (s : State) : Host.Outcome State Fault Refusal :=
  issue (.cbacq c d a imm) c imm (fun x => x.cbAcquire d a) s

def execCbrel (c : Ctl) (a : Opnd) (imm : Word) (s : State) : Host.Outcome State Fault Refusal :=
  issue (.cbrel c a imm) c imm (fun x => x.cbRelease a) s

end Sys2Proof.Machine
end

