-- ==== Sys2Proof/Machine/Engine.lean ====
section
/-! DEFINITION. Commands of the copy engines as they run (R278 to R305, R329, R346, R349): acceptance, the walk of a box, the
statistics that follow it, completion and errors, multicast drains, window rings, and the publish point (R261). -/

namespace Sys2Proof.Machine

/-! ### Kinds and ends -/

/-- KIND of a command in the error log and the trace (Table 12.6). -/
def CopyKind.number : CopyKind → Nat
  | .gl | .lg | .gf | .gg => 0
  | .multicast => 1
  | .drain => 4
  | .merge => 5

namespace Dev

/-- Changes the command of a cluster with a name. -/
def modCmd (d : Dev) (cl : ClusterIx) (id : Nat) (f : CopyCmd → CopyCmd) : Dev :=
  d.modCluster cl fun c => { c with engine := c.engine.map fun x => if x.id == id then f x else x }

/-- A command leaves its engine context. -/
def dropCmd (d : Dev) (cl : ClusterIx) (id : Nat) : Dev :=
  d.modCluster cl fun c => { c with engine := c.engine.filter fun x => x.id != id }

/-- CPCNT of the issuing warp falls by one (R291). -/
def cpDone (d : Dev) (b : Issuer) : Dev :=
  (d.modWarp b.core b.slot fun w => if w.task = b.task then { w with cp := w.cp - 1 } else w).reap b.core b.slot

/-- DEP takes its decrement (R291). -/
def depDone (d : Dev) (c : CopyCmd) (err : Bool) : Dev :=
  match c.dep with
  | some (cl, n) => d.sendDecs cl n err 1
  | none => d

/-- The ENGINE record of a command (Table 17.3). -/
def traceEngine (d : Dev) (b : Issuer) (kind reason : Nat) (dep : Bool) : Dev :=
  let ser := match d.task? b.task with
    | some t => t.taskser
    | none => 0
  d.emit (clusterOf b.core).val (coreInCluster b.core) b.slot.val ser
    [(5, BitVec.ofNat 128 (kind + reason * 2 ^ 4 + (if dep then 2 ^ 12 else 0)))]

/-- The ENGINE record of a copy command; one that a packet issued has no warp. -/
def traceCmd (d : Dev) (c : CopyCmd) (reason : Nat) : Dev :=
  if c.packet.isNone then d.traceEngine c.by_ c.kind.number reason c.dep.isSome
  else d.emit (clusterOf c.by_.core).val 0xFF 0xFF 0 [(5, BitVec.ofNat 128 (c.kind.number + reason * 2 ^ 4))]

/-- The slot that a command has reserved counts as filled, while its buffer is there (R293). -/
def slotDone (d : Dev) (c : CopyCmd) : Dev :=
  match c.place, c.buf, c.slot with
  | some p, some b, some n => d.modCore p.core fun x => x.modBuf b fun y => y.fill n
  | _, _, _ => d

/-- The status with which a command that a packet issued completes (Table 19.5). -/
def packetStatus (reason : Nat) : Nat := if reason = 0 then PktStatus.ok else if reason = Reason.link then PktStatus.link else PktStatus.badpkt

/-- A command's end in the ring that issued it, if a packet did. -/
def packetDone (d : Dev) (c : CopyCmd) (reason : Nat) : Dev :=
  match c.packet with
  | some (q, n) => d.completePacket q n (packetStatus reason)
  | none => d

/-- A command ends with an error (R292, R293, R301, R388): reason, address and kind. -/
def cmdError (d : Dev) (cl : ClusterIx) (c : CopyCmd) (reason : Nat) (addr : DWord) (kind : Nat) : Dev :=
  let d := ((d.takeEntries cl 3 1).dropCmd cl c.id).logError c.by_.ctx reason kind addr (if c.packet.isNone then some c.by_ else none)
  let d := match c.shadow with
    | some r => d.modContext c.by_.ctx fun x => { x with poison := if x.poison.contains r then x.poison else x.poison ++ [r] }
    | none => d
  let d := d.slotDone c
  let d := match c.packet, c.tile with
    | none, none => d.cpDone c.by_
    | _, _ => d
  let d := ((d.depDone c true).packetDone c reason).count c.by_.ctx 10 1
  let d := d.traceCmd c reason
  if reason = Reason.violation then (d.traceEnd Code.violation).endContext c.by_.ctx else d

/-- A command completes (R291). -/
def cmdDone (d : Dev) (cl : ClusterIx) (c : CopyCmd) : Dev :=
  let d := ((d.takeEntries cl 3 1).dropCmd cl c.id).slotDone c
  let d := if c.packet.isNone then d.cpDone c.by_ else d
  let d := ((d.depDone c false).packetDone c 0).count c.by_.ctx 10 1
  d.traceCmd c 0

/-- A command waits in its context for a page (R248, R292). -/
def cmdWait (d : Dev) (cl : ClusterIx) (c : CopyCmd) (va : Nat) : Dev :=
  (d.modCmd cl c.id fun x => { x with waiting := some (pageOf va) }).request c.by_.ctx va

/-! ### Elements -/

/-- The exact memory address of element n of a box (R285). -/
def boxAddr (r : Tlr) (o : DWord) (n : Nat) : Int :=
  (List.range r.ndim).foldl (fun (a : Int) k =>
    a + r.coord o n k * (if k = 0 then fmtSize r.mfmt else r.stride k : Nat)) r.base

/-- An exact address that an engine can use, else NONCANON (R285). -/
def exactVa (a : Int) : Except EngErr Nat :=
  if 0 ≤ a ∧ a < 2 ^ 64 then .ok a.toNat else .error (.fail Reason.noncanon (BitVec.ofInt 64 a))

/-- The selection under which the command uses a page, read when it first translates the page (R298). -/
def selectPage (d : Dev) (c : CopyCmd) (va : Nat) : CopyCmd × Bool :=
  let page := va57 va / 0x10000
  match c.sel.find? fun s => s.1 == page with
  | some s => (c, s.2)
  | none => let b := d.selection c.by_.ctx va
    ({ c with sel := (page, b) :: c.sel }, b)

/-- Reads element n of a command's box in memory. -/
def memElem (d : Dev) (c : CopyCmd) (r : Tlr) (n : Nat) : Except EngErr (Dev × CopyCmd × Nat) :=
  match exactVa (boxAddr r c.origin n) with
  | .error e => .error e
  | .ok va =>
    let s := d.selectPage c va
    (d.engReadSel c.by_.ctx va (fmtSize r.mfmt) s.2).map fun x => (x.1, s.1, leNat x.2)

/-- An engine's access to scratchpad fills an absent granule first (R226). -/
def touchEngine (d : Dev) (k : CoreIx) (off n : Nat) : Except EngErr Dev :=
  match d.touchRegion none k off n with
  | .ok d => .ok d
  | .error code => match regionAt (d.core k) off with
    | some (_, r, o) => .error (engErr (r.va + o) code)
    | none => .ok d

/-- Where byte `off` of a command's local side lies, while its allocation or its buffer is there (R292). -/
def localAt (d : Dev) (c : CopyCmd) (off : Nat) : Except EngErr (CoreIx × Nat) :=
  match c.place with
  | none => .error (.fail Reason.localGone 0)
  | some p =>
    let gone : EngErr := .fail Reason.localGone (BitVec.ofNat 64 (p.addr + c.slotAt + off))
    match c.buf with
    | some b => match (d.core p.core).bufs.find? fun x => x.id == b with
      | some x => .ok (p.core, x.start + c.slot.getD 0 * slotBytes x + off)
      | none => .error gone
    | none => match d.refLoc p with
      | some (.bank k o) => .ok (k, o + off)
      | _ => .error gone

/-- Reads bytes of a command's local side. -/
def localRead (d : Dev) (c : CopyCmd) (off n : Nat) : Except EngErr (Dev × Nat) :=
  match d.localAt c off with
  | .error e => .error e
  | .ok (k, o) => match d.touchEngine k o n with
    | .error e => .error e
    | .ok d => .ok (d, d.locNat (.bank k o) 0 n)

/-- Writes bytes of a command's local side. -/
def localWrite (d : Dev) (c : CopyCmd) (off : Nat) (bs : List Byte) : Except EngErr Dev :=
  match d.localAt c off with
  | .error e => .error e
  | .ok (k, o) => match d.touchEngine k o bs.length with
    | .error e => .error e
    | .ok d => .ok (d.putLoc (.bank k o) 0 bs)

/-- An element of the accumulator store (R307). -/
def tileElem (x : Core) (tile row col : Nat) : Word := Sparse.get 0x40000000 x.tiles ((tile * 32 + row) * 64 + col)

/-- The element that the walk of a command reads at place n, in the format of its source side (R285, R289, R329). -/
def srcElem (d : Dev) (c : CopyCmd) (n : Nat) : Except EngErr (Dev × CopyCmd × Nat) :=
  match c.kind with
  | .gl | .gf | .multicast | .gg => d.memElem c c.side1 n
  | .lg => (d.localRead c (n * fmtSize c.side1.lfmt) (fmtSize c.side1.lfmt)).map fun r => (r.1, c, r.2)
  | .drain =>
    let row := n / 64
    .ok (d, c, (tileElem (d.core c.by_.core) (c.tiles.1 + row / 32) (row % 32) (n % 64)).toNat)
  | .merge => .ok (d, c, 0)

/-- Source and destination format of a command (R286). -/
def cmdFmts (c : CopyCmd) : Nat × Nat :=
  match c.kind with
  | .gl | .gf | .multicast => (c.side1.mfmt, c.side1.lfmt)
  | .lg | .drain => (c.side1.lfmt, c.side1.mfmt)
  | .gg | .merge => (c.side1.mfmt, c.side2.mfmt)

/-- The scale that a quantising command applies (R344, R346). -/
def cmdScale (c : CopyCmd) : Option Int :=
  if c.out.qnt then c.qrec.map fun q => scaleSteps (q.extractLsb' 64 32) (q.extractLsb' 32 32) else none

/-- Bytes of a window-ring slot (R303). -/
def ringSlotBytes (r : Tlr) : Nat := (r.boxBytes (fmtSize r.mfmt) + 255) / 256 * 256

/-- The address to which a command writes element n, none where it writes no memory there: an element outside the
destination tensor is not written, but a window ring takes the whole box (R285, R289, R303). -/
def dstAddr (c : CopyCmd) (n : Nat) : Option Int :=
  let r := c.out
  if c.kind = .gg ∧ r.ring then
    c.ringSlot.map fun t => r.base + (t.1 % t.2) * ringSlotBytes r + n * fmtSize r.mfmt
  else if r.inside c.origin n then some (boxAddr r c.origin n)
  else none

/-- Progress of a walk: the device, the command with what it has moved and counted, and what has stopped it. -/
structure Walked where
  d : Dev
  c : CopyCmd
  stop : Option EngErr

/-- The group of statistics that element n counts in, if it counts: the record of STAT, or a drained tile with a valid
DREC (R329, R338). -/
def countGroup (c : CopyCmd) (n : Nat) : Option Nat :=
  if c.out.stat then some 0
  else if c.kind = .drain ∧ !c.out.qnt ∧ ((Sparse.find? c.recs (n / 2048)).bind id).isSome then some (n / 2048)
  else none

/-- A drain that reads the first element of a tile reads the tile's DREC and the GEN of its record with it (R329). -/
def noteTile (d : Dev) (c : CopyCmd) (n : Nat) : CopyCmd :=
  let t := n / 2048
  if c.kind ≠ .drain ∨ (Sparse.find? c.recs t).isSome then c
  else
    let rec_ := (Sparse.find? (d.core c.by_.core).drec (c.tiles.1 + t)).map fun i =>
      (i.setWidth 32, d.genOf c.by_.ctx (i.setWidth 32))
    { c with recs := Sparse.put t rec_ c.recs }

/-- The walk reads element n of its source (R285, R289). -/
def readsElem (c : CopyCmd) (n : Nat) : Bool :=
  match c.kind with
  | .gl | .gf | .gg | .multicast => c.side1.inside c.origin n
  | _ => true

/-- Source element n: as the command has read it already, else as it stands (R260). -/
def readElem (d : Dev) (c : CopyCmd) (n : Nat) : Except EngErr (Dev × CopyCmd × Nat) :=
  match Sparse.find? c.got n with
  | some x => .ok (d, c, x)
  | none => (d.srcElem c n).map fun r => (r.1, d.noteTile r.2.1 n, r.2.2)

/-- Counts one element, as it stands at home, in its group (R337). -/
def countIn (f : Nat) (g : Option Nat) (x : Nat) (sat : Bool) (l : List (Nat × TsrDelta)) : List (Nat × TsrDelta) :=
  match g with
  | none => l
  | some g =>
    let old := ((l.find? fun e => e.1 == g).map fun e => e.2).getD .empty
    let new := (old.countElem (statVal f x)).countSat (if sat then 1 else 0)
    (g, new) :: l.filter fun e => e.1 != g

/-- Writes element n of a command's destination (R285, R287, R298): the element as it stands there. -/
def writeElem (d : Dev) (c : CopyCmd) (n f x : Nat) : Except EngErr (Dev × CopyCmd × Nat) :=
  match Tlr.writes c.kind true, dstAddr c n with
  | true, some a => match exactVa a with
    | .error e => .error e
    | .ok va =>
      let s := d.selectPage c va
      (d.engWrite c.by_.ctx c.out va f x s.2).map fun r => (r.1, s.1, r.2)
  | _, _ => (d.localWrite c (n * fmtSize f) (leBytes (fmtSize f) x)).map fun d => (d, c, x)

/-- One element of a command: read, converted and written (R285 to R288). -/
def stepElem (w : Walked) (n : Nat) : Walked :=
  if w.stop.isSome then w
  else
    let f := cmdFmts w.c
    let reads := readsElem w.c n
    let memDst := Tlr.writes w.c.kind true
    if memDst && (dstAddr w.c n).isNone then { w with c := { w.c with moved := n :: w.c.moved } }
    else match if reads then w.d.readElem w.c n else .ok (w.d, w.c, 0) with
      | .error e => { w with stop := some e }
      | .ok (d, c, x) =>
        let y := if reads then engineConv f.1 f.2 c.subIn (cmdScale c) x else (fmtZero f.2, false)
        match d.writeElem c n f.2 y.1 with
        | .error e => { w with stop := some e }
        | .ok (d, c, z) =>
          { w with
            d := d
            c := { c with
              moved := n :: c.moved, got := Sparse.erase n c.got, sats := c.sats + (if y.2 then 1 else 0), clipped := c.clipped || y.2
              deltas := if reads || memDst then countIn f.2 (countGroup c n) z y.2 c.deltas else c.deltas } }

/-! ### Statistics of a command -/

/-- The physical address and the key of a record, translated for writing (R338). -/
def recordHome (d : Dev) (c : CtxIx) (idx : Word) : Except EngErr (Nat × BitVec 10) :=
  match d.context c with
  | none => .error (.fail Reason.unmapped 0)
  | some x => match d.translate c (x.tsrVa idx) .write with
    | .ok t => .ok (t.pa, t.key)
    | .error e => .error (engErr (x.tsrVa idx) e)

/-- An update of a command, performed at the record home (R337, R338). -/
def cmdUpdate (d : Dev) (c : CtxIx) (idx : Word) (gen : Option Word) (t : TsrDelta) : Except EngErr Dev :=
  match d.recordHome c idx with
  | .error e => .error e
  | .ok (pa, key) =>
    .ok (d.tsrApply { ctx := c, pa := pa, key := key, gen := gen.getD (d.tsrWord key pa 0), delta := t, by_ := none })

/-- A quantising command stores SCALE of its record, once (R346). -/
def storeScale (d : Dev) (c : CopyCmd) : Except EngErr (Dev × CopyCmd) :=
  match if c.out.qnt && !c.scaled then c.qrec else none, d.recordHome c.by_.ctx c.out.tsr with
  | none, _ => .ok (d, c)
  | _, .error e => .error e
  | some q, .ok (pa, key) =>
    .ok (if d.tsrWord key pa 0 = q.setWidth 32 then
        d.putTsrWord key pa 3 (scaleCode (scaleSteps (q.extractLsb' 64 32) (q.extractLsb' 32 32))).toNat
      else d, { c with scaled := true })

/-- An update of some counts of a command is sent (R338): those of one group, or its saturations. -/
def sendGroup (d : Dev) (c : CopyCmd) (g : Nat × TsrDelta) : Except EngErr (Dev × CopyCmd) :=
  let dest : Option (Word × Option Word) := if c.out.stat then some (c.out.tsr, c.gen) else (Sparse.find? c.recs g.1).bind id
  let left := { c with deltas := c.deltas.filter fun e => e.1 != g.1 }
  match dest with
  | some (i, gen) => (d.cmdUpdate c.by_.ctx i gen g.2).map fun d => (d, left)
  | none => .ok (d, left)

/-- The updates of what a command has moved are sent (R329, R338, R346): the device, the command with those that are left, and
what has stopped it. -/
def sendUpdates (d : Dev) (c : CopyCmd) : Dev × CopyCmd × Option EngErr :=
  let r := c.deltas.foldl (fun (r : Dev × CopyCmd × Option EngErr) g =>
    if r.2.2.isSome then r
    else match r.1.sendGroup r.2.1 g with
      | .ok (d, c) => (d, c, none)
      | .error e => (r.1, r.2.1, some e)) (d, c, none)
  if r.2.2.isSome ∨ !c.out.qnt ∨ c.sats = 0 then r
  else match r.1.cmdUpdate c.by_.ctx c.out.tsr (c.qrec.map fun q => q.setWidth 32) (TsrDelta.empty.countSat c.sats) with
    | .ok d => (d, { r.2.1 with sats := 0 }, none)
    | .error e => (r.1, r.2.1, some e)

/-- POL of the record that a command has quantised with is trap (R346). -/
def qntTraps (c : CopyCmd) : Bool := c.out.qnt && c.qrec.any fun q => flagsPol (q.extractLsb' 32 32)

/-- The virtual address of a record of the pool. -/
def recordVa (d : Dev) (c : CtxIx) (idx : Word) : DWord :=
  match d.context c with
  | some x => BitVec.ofNat 64 (x.tsrVa idx)
  | none => 0

/-- The end of a command that has moved its whole box: its updates, and the scale (R338, R346). -/
def walkEnd (d : Dev) (c : CopyCmd) : Dev × CopyCmd × Option EngErr :=
  match d.sendUpdates c with
  | (d, c, some e) => (d, c, some e)
  | (d, c, none) =>
    match d.storeScale c with
    | .error e => (d, c, some e)
    | .ok (d, c) => (d, c, if qntTraps c && c.clipped then some (.fail Reason.rescale (d.recordVa c.by_.ctx c.out.tsr)) else none)

/-! ### Merges -/

/-- The words that a merge folds by addition (R349): word 6 with word 7 is WRITECNT. -/
def mergeWords : List Nat := [4, 5, 6, 8] ++ (List.range 50).map (14 + ·)

/-- What a merge adds: the source record as it stands at home. -/
def mergeDelta (d : Dev) (key : BitVec 10) (pa : Nat) : TsrDelta :=
  let t := mergeWords.foldl (fun t n =>
    let hi := if n = 6 then (d.tsrWord key pa 7).toNat * 2 ^ 32 else 0
    t.add n ((d.tsrWord key pa n).toNat + hi)) TsrDelta.empty
  t.peak (d.tsrWord key pa 2)

/-- A merge (R349): a local fold is one update under the generation read; a fold on a peer carries none. -/
def merge (d : Dev) (c : CopyCmd) : Dev × Option EngErr :=
  match d.context c.by_.ctx with
  | none => (d, some (.fail Reason.unmapped 0))
  | some x =>
    let srcVa := x.tsrVa c.merge.1
    match d.engRead c.by_.ctx srcVa 1, d.translate c.by_.ctx srcVa .read with
    | .error e, _ => (d, some e)
    | _, .error e => (d, some (engErr srcVa e))
    | .ok (d, _), .ok t =>
      let delta := d.mergeDelta t.key t.pa
      let port := fieldOf c.merge.2 22 20
      let idx := c.merge.2 &&& 0xFFFFF
      if port = 0 then
        match d.cmdUpdate c.by_.ctx idx none delta with
        | .ok d => (d, none)
        | .error e => (d, some e)
      else
        let pa := x.peerpool port + 256 * idx.toNat
        match d.linkDown pa with
        | some e => (d, some e)
        | none =>
          let d := d.behindPort pa
          (d.tsrApply { ctx := c.by_.ctx, pa := pa, key := 0, gen := d.tsrWord 0 pa 0, delta := delta, by_ := none }, none)

/-! ### Performing a command -/

/-- The record that a quantising command reads at acceptance (R288). -/
def readQrec (d : Dev) (c : CopyCmd) : Except EngErr (Dev × CopyCmd) :=
  if !c.out.qnt ∨ c.qrec.isSome then .ok (d, c)
  else match d.engRead c.by_.ctx (d.recordVa c.by_.ctx c.out.tsr).toNat 16 with
    | .error e => .error e
    | .ok (d, bs) => .ok (d, { c with qrec := some (BitVec.ofNat 128 (leNat bs)) })

/-- Elements of a command's box. -/
def cmdElems (c : CopyCmd) : List Nat := List.range (c.side1.count)

/-- The shared word of a window ring's control block, with its change (R303). -/
def ringWord (d : Dev) (c : CopyCmd) (n : Nat) (f : Nat → Nat) : Except EngErr (Dev × Nat) :=
  let va := c.out.top + 4 * n
  if c.out.top % 16 ≠ 0 then .error (.fail Reason.align (BitVec.ofNat 64 c.out.top))
  else match d.translate c.by_.ctx va .both with
    | .error e => .error (engErr va e)
    | .ok t => match d.linkDown t.pa with
      | some e => .error e
      | none =>
        let d := d.behindPort t.pa
        let old := leNat (d.readBytes t.key t.pa 4)
        .ok ((d.writeBytes t.key t.pa (leBytes 4 (f old % 2 ^ 32))).writtenBy (d.partOf c.by_.ctx) d.regWrites.length, old)

/-- A command takes a slot of its window ring, where FREE is not zero (R303). -/
def ringTake (d : Dev) (c : CopyCmd) : Except EngErr (Dev × Option (Nat × Nat)) :=
  match d.ringWord c 0 id with
  | .error e => .error e
  | .ok (d, 0) => .ok (d, none)
  | .ok (d, _ + 1) => match d.ringWord c 0 (· - 1) with
    | .error e => .error e
    | .ok (d, _) => match d.ringWord c 1 (· + 1) with
      | .error e => .error e
      | .ok (d, t) => match d.ringWord c 2 id with
        | .error e => .error e
        | .ok (d, n) => .ok (d, some (t, n))

/-- The order in which an engine moves the elements of a box: any (R285); one that leaves elements out or names others stands
for the order of the manual's walk (log 10). -/
def moveOrder (c : CopyCmd) (order : List Nat) : List Nat :=
  if order.length = (cmdElems c).length ∧ (cmdElems c).all order.contains then order else cmdElems c

/-- A command moves elements of its box. -/
def walk (d : Dev) (c : CopyCmd) (ns : List Nat) : Walked := ns.foldl stepElem { d := d, c := c, stop := none }

/-- The elements of a command's box that it has still to move, in an order. -/
def stillOf (c : CopyCmd) (order : List Nat) : List Nat :=
  if c.moved.isEmpty then moveOrder c order else (moveOrder c order).filter fun n => !c.moved.contains n

/-- The holding buffer's tile (R297): the box as its elements stand on the local side, and the saturations. -/
def readTile (d : Dev) (c : CopyCmd) (order : List Nat) : Except EngErr (Dev × List Byte × Nat) :=
  let f := cmdFmts c
  let start : (Dev × CopyCmd) × List (Nat × Nat) × Nat := ((d, c), [], 0)
  let read := (moveOrder c order).foldlM (fun (r : (Dev × CopyCmd) × List (Nat × Nat) × Nat) n =>
    if readsElem c n then
      match r.1.1.readElem r.1.2 n with
      | .error e => Except.error e
      | .ok (d, c, x) =>
        let y := engineConv f.1 f.2 c.subIn (cmdScale c) x
        .ok ((d, c), (n, y.1) :: r.2.1, r.2.2 + (if y.2 then 1 else 0))
    else .ok (r.1, (n, fmtZero f.2) :: r.2.1, r.2.2)) start
  read.map fun r => (r.1.1, (cmdElems c).flatMap fun n =>
    leBytes (fmtSize f.2) (((r.2.1.find? fun e => e.1 == n).map (·.2)).getD 0), r.2.2)

/-- The error of a command whose window ring has no slots (R303); that its log entry names CREDIT is a
DESIGN CHOICE (log 124). -/
def ringError (c : CopyCmd) : Option EngErr :=
  if c.kind = .gg ∧ c.out.ring ∧ c.ringSlot.any (·.2 == 0) then some (.fail Reason.ring (BitVec.ofNat 64 c.out.top)) else none

/-- The rest of an accepted command, up to its completion or to what stops it (log 10): the device, the command with its
progress, and what has stopped it. -/
def perform (d : Dev) (c : CopyCmd) (order : List Nat) : Dev × CopyCmd × Option EngErr :=
  match d.readQrec c with
  | .error e => (d, c, some e)
  | .ok (d, c) =>
    match c.kind with
    | .merge => let r := d.merge c
      (r.1, c, r.2)
    | _ =>
      match ringError c with
      | some e => (d, c, some e)
      | none =>
        let w := d.walk c (stillOf c order)
        if w.stop.isSome then (w.d, w.c, w.stop)
        else match w.d.walkEnd w.c with
          | (d, c, some e) => (d, c, some e)
          | (d, c, none) =>
            if c.kind = .gg ∧ c.out.ring then
              match d.ringWord c 3 (· + 1) with
              | .ok (d, _) => (d, c, none)
              | .error e => (d, c, some e)
            else (d, c, none)

/-- The source read of a multicast (R297 step 2): the command completes for CPCNT. -/
def multicastRead (d : Dev) (cl : ClusterIx) (c : CopyCmd) (order : List Nat) : Dev × CopyCmd × Option EngErr :=
  match d.readQrec c with
  | .error e => (d, c, some e)
  | .ok (d, c) => match d.readTile c order with
    | .error e => (d, c, some e)
    | .ok (d, bs, sats) =>
      match if c.out.qnt then d.sendUpdates { c with sats := sats } else (d, { c with sats := sats }, none) with
      | (d, c, some e) => (d, c, some e)
      | (d, c, none) => match d.storeScale c with
        | .error e => (d, c, some e)
        | .ok (d, c) =>
          let trap := qntTraps c && sats != 0
          let d := if trap then
              d.logError c.by_.ctx Reason.rescale 1 (d.recordVa c.by_.ctx c.out.tsr) (some c.by_)
            else d
          let c := { c with tile := some bs, got := [], skipped := trap }
          let d := d.modCmd cl c.id fun _ => c
          ((((d.takeEntries cl 3 1).cpDone c.by_).count c.by_.ctx 10 1).traceEngine c.by_ 1 (if trap then Reason.rescale else 0)
            c.dep.isSome, c, none)

/-- A command waits for a page (R292). -/
def cmdWaits (d : Dev) (c : CopyCmd) : Bool := c.waiting.any (d.requested c.by_.ctx)

/-- Whether an accepted command may be performed: not waiting, no error met, no earlier matrix operation on a drain's tiles
pending (R309), a window ring's slot taken, a multicast's box not yet read. -/
def cmdReady (d : Dev) (c : CopyCmd) : Bool :=
  let k := d.core c.by_.core
  let pending := k.pendingOps
  !d.cmdWaits c && c.error.isNone && c.tile.isNone && !(c.after.any pending.contains) &&
    !(c.kind == .gg && c.out.ring && c.ringSlot.isNone)

/-- The physical addresses that a command of the engines uses: those of its elements, live and shadow, of its records, and of its
ring's control block (R298, R303, R338, R349). -/
def cmdPlaces (d : Dev) (c : CopyCmd) : List Nat :=
  match d.context c.by_.ctx with
  | none => []
  | some x =>
    let at_ (va : Nat) (acc : Access) (shadow : Bool) : List Nat :=
      match d.translate c.by_.ctx va acc shadow with
      | .ok t => [t.pa]
      | .error _ => []
    let place (db : Bool) (a : Int) : List Nat :=
      if 0 ≤ a ∧ a < 2 ^ 64 then
        (at_ a.toNat .read false ++ at_ a.toNat .write false ++ (if db then at_ a.toNat .write true else [])).eraseDups
      else []
    let tsr (i : Word) : List Nat := at_ (x.tsrVa i) .write false
    if c.kind = .merge then
      let q := fieldOf c.merge.2 22 20
      place false (x.tsrVa c.merge.1) ++ (if q = 0 then tsr (c.merge.2 &&& 0xFFFFF) else [x.peerpool q + 256 * (c.merge.2 &&& 0xFFFFF).toNat])
    else
      (cmdElems c).flatMap (fun n => (if readsElem c n ∧ c.kind ≠ .lg ∧ c.kind ≠ .drain then place false (boxAddr c.side1 c.origin n) else []) ++
        (if Tlr.writes c.kind true then ((dstAddr c n).map (place c.out.db)).getD [] else [])) ++
      (if c.out.stat ∨ c.out.qnt then tsr c.out.tsr else []) ++ (c.recs.flatMap fun e => (e.2.map fun r => tsr r.1).getD []) ++
      (if c.kind = .gg ∧ c.out.ring then place false c.out.top else [])

/-- An accepted command of a cluster with a name. -/
def cmd? (d : Dev) (cl : ClusterIx) (id : Nat) : Option CopyCmd := (d.cluster cl).engine.find? fun c => c.id == id

/-- A command keeps its progress, and waits for the page or holds the error that has stopped it. -/
def stopped (d : Dev) (cl : ClusterIx) (c : CopyCmd) (stop : Option EngErr) : Dev :=
  let d := d.modCmd cl c.id fun _ => c
  match stop with
  | none => d
  | some (.wait va) => d.cmdWait cl c va
  | some (.fail reason addr kind) =>
    d.modCmd cl c.id fun x => { x with error := some (reason, addr, kind.getD c.kind.number) }

/-- A command reads one element of its source (R260), as long as it has not read it; a drain only after the operations that
precede it (R309). -/
def picked (d : Dev) (c : CopyCmd) (n : Nat) : Option (Dev × CopyCmd) :=
  if c.tile.isSome || c.error.isSome || c.kind == .merge || !(cmdElems c).contains n || !readsElem c n || c.moved.contains n ||
      (Sparse.find? c.got n).isSome || c.after.any (d.core c.by_.core).pendingOps.contains then none
  else match d.readElem c n with
    | .ok (d, c, x) => some (d, { c with got := Sparse.put n x c.got })
    | .error _ => none

/-- A command of a cluster, queued or accepted, reads one element of its source. -/
def pickElem (d : Dev) (cl : ClusterIx) (id n : Nat) : Dev :=
  match d.cmd? cl id with
  | some c => match d.picked c n with
    | some (d, c) => d.modCmd cl id fun _ => c
    | none => d
  | none => match ((coresOf cl).flatMap fun k => (d.core k).copyQ).find? fun c => c.id == id with
    | some c => match d.picked c n with
      | some (d, c) => d.modCore c.by_.core fun x => { x with copyQ := x.copyQ.map fun y => if y.id == id then c else y }
      | none => d
    | none => d

/-- An accepted command moves some elements of its box, in any order (R285). -/
def moveSome (d : Dev) (cl : ClusterIx) (id : Nat) (ns : List Nat) : Dev :=
  match d.cmd? cl id with
  | none => d
  | some c =>
    if !d.cmdReady c || c.kind == .multicast || c.kind == .merge || (ringError c).isSome then d
    else match d.readQrec c with
      | .error (.wait va) => d.cmdWait cl c va
      | .error e => d.stopped cl c (some e)
      | .ok (d, c) =>
        let w := d.walk c (ns.eraseDups.filter fun n => (cmdElems c).contains n && !c.moved.contains n)
        w.d.stopped cl w.c w.stop

/-- An accepted command sends the updates of what it has moved and stores its SCALE (R338, R346). -/
def updateNow (d : Dev) (cl : ClusterIx) (id : Nat) : Dev :=
  match d.cmd? cl id with
  | none => d
  | some c =>
    if !d.cmdReady c || c.kind == .multicast then d
    else match d.sendUpdates c with
      | (d, c, some e) => d.stopped cl c (some e)
      | (d, c, none) => match d.storeScale c with
        | .error e => d.stopped cl c (some e)
        | .ok (d, c) => d.stopped cl c none

/-- COPY_COMPLETION (R291, R297): the rest of the command's effect, and its completion where nothing stops it; the engine stays
busy while the scheduler's queue grants no entry (R177). -/
def copyDone (d : Dev) (cl : ClusterIx) (i : Nat) (order : List Nat) : Dev :=
  match (d.cluster cl).engine[i]? with
  | none => d
  | some c =>
    if !d.cmdReady c || !grants (d.cluster cl) 3 0 then d
    else match if c.kind = .multicast then d.multicastRead cl c order else d.perform c order with
      | (d, c, none) => if c.kind = .multicast then d else d.cmdDone cl c
      | (d, c, stop) => d.stopped cl c stop

/-- COPY_ERROR (R292): what has been moved stays and its updates are sent, and the command ends; one that has met no error runs
on first. -/
def copyFailed (d : Dev) (cl : ClusterIx) (i : Nat) (order : List Nat) : Dev :=
  match (d.cluster cl).engine[i]? with
  | none => d
  | some c =>
    let stop (d : Dev) (c : CopyCmd) (e : Nat × DWord × Nat) : Dev :=
      match if c.tile.isSome then (d, c, none) else d.sendUpdates c with
      | (d, c, some (.wait va)) => d.stopped cl { c with error := some e } (some (.wait va))
      | (d, c, _) => d.cmdError cl c e.1 e.2.1 e.2.2
    if d.cmdWaits c || !grants (d.cluster cl) 3 0 then d
    else match c.error with
      | some e => stop d c e
      | none =>
        if !d.cmdReady c then d
        else match if c.kind = .multicast then d.multicastRead cl c order else d.perform c order with
          | (d', c, some (.fail reason addr kind)) => stop d' c (reason, addr, kind.getD c.kind.number)
          | (d', c, some (.wait va)) => d'.stopped cl c (some (.wait va))
          | (_, _, none) => d

/-! ### Acceptance -/

/-- A free engine context, or holding-buffer slot, for a command (R278, R297). -/
def engineRoom (d : Dev) (cl : ClusterIx) (c : CopyCmd) : Bool :=
  let es := (d.cluster cl).engine
  (es.filter fun x => x.tile.isNone).length < 32 &&
    (c.kind != .multicast || (es.filter fun x => x.kind == .multicast).length < 32)

/-- The buffer that a command fills has been removed. -/
def bufferGone (d : Dev) (c : CopyCmd) : Bool :=
  match c.place, c.buf with
  | some p, some b => !((d.core p.core).bufs.any fun x => x.id == b)
  | _, _ => false

/-- A command tries to take a slot of its window ring (R303), once the earlier ones of its core to that ring have theirs. -/
def ringTry (d : Dev) (cl : ClusterIx) (c : CopyCmd) : Dev :=
  let before := (d.cluster cl).engine.takeWhile fun y => y.id != c.id
  if before.any fun y => y.kind == .gg && y.out.ring && y.ringSlot.isNone && y.error.isNone && y.by_.core == c.by_.core &&
      y.by_.ctx == c.by_.ctx && y.out.top == c.out.top then d
  else match d.ringTake c with
    | .ok (d, slot) => d.modCmd cl c.id fun x => { x with ringSlot := slot }
    | .error e => d.stopped cl c (some e)

/-- An earlier reservation of the command's buffer belongs to a command that has not been accepted (R293). -/
def reservedEarlier (d : Dev) (c : CopyCmd) : Bool :=
  match c.place, c.buf, c.slot with
  | some p, some id, some n => match (d.core p.core).bufs.find? fun x => x.id == id with
    | some b =>
      let before := (b.order.takeWhile fun r => r.1 != n).map (·.1)
      (coresOf (clusterOf p.core)).any fun k => (d.core k).copyQ.any fun y =>
        y.buf == some id && y.slot.any before.contains
    | none => false
  | _, _, _ => false

/-- The head of a core's copy queue that can be accepted now (R278): once it has its slot in a buffer, behind the earlier
reservations (R293), or its buffer is gone (R224), and the cluster has room. -/
def acceptable (d : Dev) (k : CoreIx) : Option CopyCmd :=
  (d.core k).copyQ.head?.filter fun c =>
    d.engineRoom (clusterOf k) c && (d.bufferGone c || !(c.buf.isSome && c.slot.isNone) && !d.reservedEarlier c)

/-- The core whose queue head is served (R278): the first in turn whose head can be accepted. -/
def servedCore (d : Dev) (cl : ClusterIx) : Option CoreIx :=
  ((List.finRange 48).map fun (i : Fin 48) => coreOf cl ((d.cluster cl).nextCore + i)).find? fun k => (d.acceptable k).isSome

/-- COPY_ACCEPT (R278): the head of the queue that is served enters an engine context; a quantising command reads its record
(R288), one to a window ring asks for a slot (R303). -/
def accept (d : Dev) (k : CoreIx) : Dev :=
  let cl := clusterOf k
  match if d.servedCore cl = some k then d.acceptable k else none with
  | none => d
  | some c =>
    let enter (d : Dev) (c : CopyCmd) : Dev := d.modCluster cl fun x => { x with
      engine := x.engine ++ [c], nextCore := ⟨(coreInCluster k + 1) % 48, Nat.mod_lt _ (by decide)⟩ }
    let addr := BitVec.ofNat 64 ((c.place.map fun (p : LocalRef) => p.addr).getD 0 + c.slotAt)
    let gone := d.bufferGone c
    let d := d.modCore k fun x => { x with copyQ := x.copyQ.drop 1 }
    if gone then enter d { c with error := some (Reason.localGone, addr, c.kind.number) }
    else match d.readQrec c with
      | .error e => (enter d c).stopped cl c (some e)
      | .ok (d, c) => if c.kind = .gg ∧ c.out.ring then (enter d c).ringTry cl c else enter d c

/-- CB_RESERVE (R293): the head of a core's copy queue that fills a buffer reserves a slot while FREE is not zero. -/
def reserveSlot (d : Dev) (k : CoreIx) : Dev :=
  match (d.core k).copyQ with
  | [] => d
  | c :: rest =>
    match c.place, c.buf, c.slot with
    | some p, some id, none => match (d.core p.core).bufs.find? fun x => x.id == id with
      | some b =>
        if b.free = 0 then d
        else (d.modCore k fun x => { x with copyQ := { c with slot := some b.tail, slotAt := b.tail * slotBytes b } :: rest }).modCore p.core fun x =>
          x.modBuf id Buffer.reserve
      | none => d
    | _, _, _ => d

/-! ### Drains of the holding buffer -/

/-- The drains outstanding in a cluster, each a command with one receiver (R297). -/
def drains (d : Dev) (cl : ClusterIx) : List (CopyCmd × Fin 48 × Option Nat × Option Nat) :=
  ((d.cluster cl).engine.filter fun c => c.tile.isSome && c.error.isNone).flatMap fun c =>
    c.receivers.map fun r => (c, r)

/-- A receiver is over (Table 17.3, KIND 2): after the last one the holding-buffer slot is free and DEP takes its decrement
(R297). -/
def receiverDone (d : Dev) (cl : ClusterIx) (c : CopyCmd) (r : Fin 48) (reason : Nat) : Dev :=
  let left := c.receivers.filter fun x => x.1 != r
  let skipped := reason != 0 || c.skipped
  let d := if left.isEmpty then ((d.takeEntries cl 3 1).dropCmd cl c.id).depDone c skipped
    else (d.takeEntries cl 3 1).modCmd cl c.id fun x => { x with receivers := left, skipped := skipped }
  d.traceEngine c.by_ 2 reason c.dep.isSome

/-- The statistics of a drained tile (R338). -/
def drainUpdate (d : Dev) (c : CopyCmd) (bs : List Byte) : Except EngErr Dev :=
  if !c.out.stat then .ok d
  else
    let f := c.side1.lfmt
    let n := fmtSize f
    let t := (cmdElems c).foldl (fun (t : TsrDelta) i =>
      if c.side1.inside c.origin i then t.countElem (statVal f (leNat ((bs.drop (i * n)).take n))) else t) .empty
    d.cmdUpdate c.by_.ctx c.out.tsr c.gen (t.countSat c.sats)

/-- A drain that has written its tile sends its update, and the slot is filled (R297, R338): also where the record does not
translate, which is an error of the drain. -/
def drainEnd (d : Dev) (cl : ClusterIx) (c : CopyCmd) (r : Fin 48) (b slot : Nat) (bs : List Byte) : Dev :=
  let fill (d : Dev) : Dev := d.modCore (coreOf cl r) fun x => x.modBuf b fun y => y.fill slot
  match d.drainUpdate c bs with
  | .error (.wait va) => d.cmdWait cl c va
  | .error (.fail reason addr _) => (fill (d.logError c.by_.ctx reason 2 addr (some c.by_))).receiverDone cl c r reason
  | .ok d => (fill d).receiverDone cl c r 0

/-- A drain into one receiver (R297): skipped and logged where its buffer is none, else a reservation and a write, while FREE is
not zero, then its update and the filled slot. The address that the log entry of a skipped drain holds is not given. -/
def drainTo (d : Dev) (cl : ClusterIx) (c : CopyCmd) (r : Fin 48) (alloc slot : Option Nat) (bs : List Byte) : Dev :=
  let k := coreOf cl r
  let off := (c.place.map fun (p : LocalRef) => p.off).getD 0
  let buf := alloc.bind fun a => d.bufferAt { core := k, alloc := a, off := off, addr := off }
  let skip : Dev :=
    let (n, d) := d.drawn
    (d.logError c.by_.ctx Reason.receiver 2 (Config.freeDWord n) (some c.by_)).receiverDone cl c r Reason.receiver
  match buf, slot with
  | none, _ => skip
  | some b, some n => d.drainEnd cl c r b.id n bs
  | some b, none =>
    if slotBytes b < bs.length then skip
    else if b.free = 0 then d
    else
      let d := d.modCore k fun x => x.modBuf b.id Buffer.reserve
      let d := d.putLoc (.bank k (b.start + b.tail * slotBytes b)) 0 bs
      let note (y : Fin 48 × Option Nat × Option Nat) : Fin 48 × Option Nat × Option Nat :=
        if y.1 = r then (y.1, y.2.1, some b.tail) else y
      let c := { c with receivers := c.receivers.map note }
      (d.modCmd cl c.id fun _ => c).drainEnd cl c r b.id b.tail bs

/-! ### The publish point -/

/-- The pages of a region among a list of page numbers. -/
def regionPages (d : Dev) (c : CtxIx) (r : BitVec 12) (ps : List Nat) : List Nat :=
  match d.context c with
  | none => []
  | some x => ps.filter fun p => match d.pteOf c x (p * 0x10000) with
    | some e => pteDb e && pteRegion e == r
    | none => false

/-- PUBLISH_POINT (R261, R299 to R301): a poisoned region is cleared and logged; else the region's dirty bytes go home under
the old selection on every core, every L1 copy goes, the selector flips and the pages are fresh again. -/
def publishPoint (d : Dev) (k : CoreIx) (j : SlotIx) : Dev :=
  match d.slot k j with
  | none => d
  | some w =>
    match w.wait, d.context w.ctx with
    | some (.publish r p), some x =>
      let by_ : Issuer := { core := k, slot := j, ctx := w.ctx, task := w.task }
      if w.status ≠ .running then d
      else if x.poison.contains r then
        let d := d.putContext w.ctx { x with poison := x.poison.filter (· != r) }
        ((d.logError w.ctx Reason.poison 3 (r.setWidth 64) (some by_)).stepPast k j).closeWarp k j
      else match d.regionProbe w.ctx r with
        | some e =>
          d.takeFault k j { w with wait := none } { FaultInfo.warpWide e.code p (BitVec.ofNat 64 e.va) with
            wb := some (BitVec.ofNat 64 e.va) }
        | none =>
          let d := d.cores.foldl (fun d e =>
            if h : e.1 < 384 then
              match d.writeBack ⟨e.1, h⟩ (d.inRegion w.ctx r) with
              | .ok d => d
              | .error _ => d
            else d) d
          let old := d
          let d := (d.fixLoads w.ctx r).mapCores fun _ y => { y with l1 := y.l1.filter fun l => !old.inRegion w.ctx r l }
          let gone := d.regionPages w.ctx r x.stale
          let d := d.modContext w.ctx fun x => { x with
            flipped := if x.flipped.contains r then x.flipped.filter (· != r) else x.flipped ++ [r]
            stale := x.stale.filter fun p => !gone.contains p }
          (d.stepPast k j).closeWarp k j
    | _, _ => d

end Dev

/-! ### The steps -/

/-- COPY_ACCEPT (R278). -/
def execCopyAccept (core : CoreIx) (s : State) : Host.Outcome State Fault Refusal := agent (fun d => d.accept core) s

/-- CB_RESERVE (R293), for the i-th core of a cluster. -/
def execCbReserve (cluster : ClusterIx) (i : Nat) (s : State) : Host.Outcome State Fault Refusal :=
  agent (fun d => if h : i < 48 then d.reserveSlot (coreOf cluster ⟨i, h⟩) else d) s

/-- COPY_COMPLETION (R291): `order` is the order in which the engine moves the elements (R285). -/
def execCopyCompletion (cluster : ClusterIx) (i : Nat) (order : List Nat) (s : State) : Host.Outcome State Fault Refusal :=
  agent (fun d => d.copyDone cluster i order) s

/-- COPY_ERROR (R292). -/
def execCopyError (cluster : ClusterIx) (i : Nat) (order : List Nat) (s : State) : Host.Outcome State Fault Refusal :=
  agent (fun d => d.copyFailed cluster i order) s

/-- CPYM_DRAIN (R297). -/
def execCpymDrain (cluster : ClusterIx) (i : Nat) (s : State) : Host.Outcome State Fault Refusal :=
  agent (fun d =>
    match (d.drains cluster)[i]? with
    | some (c, r, alloc, slot) =>
      if d.cmdWaits c || !Dev.grants (d.cluster cluster) 3 0 then d else d.drainTo cluster c r alloc slot (c.tile.getD [])
    | none => d) s

/-- WINDOW_RING_RETRY (R303). -/
def execWindowRingRetry (cluster : ClusterIx) (i : Nat) (s : State) : Host.Outcome State Fault Refusal :=
  agent (fun d =>
    match (d.cluster cluster).engine[i]? with
    | some c =>
      if c.kind = .gg ∧ c.out.ring ∧ c.ringSlot = none ∧ !d.cmdWaits c ∧ c.error = none then d.ringTry cluster c else d
    | none => d) s

/-- PUBLISH_POINT (R261). -/
def execPublishPoint (core : CoreIx) (slot : SlotIx) (s : State) : Host.Outcome State Fault Refusal :=
  agent (fun d => d.publishPoint core slot) s

end Sys2Proof.Machine
end

