-- ==== Sys2Proof/Machine/Stats.lean ====
section
/-! DEFINITION. The statistics group (R342 to R349): QNT, STATRD, STATRST, STATMRG, and TSR_UPDATE (R337). -/

namespace Sys2Proof.Machine

namespace Dev

/-- The sectors of a plain read at issue that its bytes from home fill (R229). -/
def fillNow (d : Dev) (k : CoreIx) (j : SlotIx) (w : Warp) (va pa n : Nat) (key : BitVec 10) : Dev :=
  match paKind pa with
  | .dram | .param =>
    (List.range ((pa % 32 + n + 31) / 32)).foldl (fun d i =>
      let at_ := va / 32 * 32 + 32 * i
      let held := (List.range 32).all fun b => match (d.core k).l1Find w.ctx (at_ + b) with
        | some l => l.readable j w.task ⟨(at_ + b) % 128, Nat.mod_lt _ (by decide)⟩
        | none => false
      if held then d.touchLine k w.ctx at_
      else d.fillSector k w.ctx { va := at_, pa := pa / 32 * 32 + 32 * i, key := key }) d
  | _ => d

/-- A plain read of `n` bytes as one access at issue (R255, R256, R326, R345): the warp's earlier loads of the bytes take
theirs first, and a window is read behind the stores of its port. -/
def plainRead (d : Dev) (k : CoreIx) (j : SlotIx) (w : Warp) (va : Nat) (loc : Loc) (key : BitVec 10) (n : Nat) :
    List Byte × Dev :=
  let locs := (List.range n).map (locUp loc)
  let d := (d.capture k j locs).drainFor locs
  match loc with
  | .phys pa =>
    let l : LaneLoad := { lane := 0, va := va, l1 := true, bytes := (List.range n).map fun i => .home (.phys (pa + i)) key }
    (d.laneNow k j w [] l, (d.dropPassed k j w [l]).fillNow k j w va pa n key)
  | .bank _ _ => ((List.range n).map fun i => ((w.stores.reverse.findSome? fun p =>
      (p.flight.reverse.find? fun b => b.loc == locUp loc i).map (·.val)).getD (d.readLoc (locUp loc i) key)), d)

/-! ### Updates under way -/

/-- An update of a store waits until the store's last byte is at home: bytes on their way through a port are not (R338, R341). -/
def updateHeld (d : Dev) (u : TsrSend) : Bool :=
  u.by_.any fun b => (List.finRange 6).any fun p => (d.port p).posted.any fun w => w.by_.isSome && w.seq == b.2.2

/-- An update that reaches a protected frame is refused: VIOLATION against its context, in the warp whose store it belongs to where
that is there (R43, R405, log 106). -/
def updateRefused (d : Dev) (u : TsrSend) : Dev :=
  match u.by_.bind fun b => (d.slot b.1 b.2.1).map fun w => (b.1, b.2.1, w) with
  | some (k, j, w) =>
    if w.ctx = u.ctx then d.violated k j w [.phys u.pa] else (d.traceEnd Code.violation).endContext u.ctx
  | none => (d.traceEnd Code.violation).endContext u.ctx

/-- The i-th update arrives at its record's home (R337 to R341). -/
def tsrArrive (d : Dev) (i : Nat) : Dev :=
  match d.tsrs[i]? with
  | none => d
  | some u =>
    if d.updateHeld u then d
    else
      let refused := d.tsrWord u.key u.pa 0 = u.gen && (d.refusedByte [.phys u.pa]).isSome
      let e := { d with tsrs := removeAt i d.tsrs }.tsrApply u
      let e := match u.by_ with
        | none => e
        | some (k, j, n) =>
          let after (p : PStore) : PStore := if p.seq = n then { p with sent := false } else p
          (e.modWarp k j fun w => { w with stores := w.stores.map after }).settle k j
      if refused then e.updateRefused u
      else match u.by_ with
        | some (k, j, _) => e.reap k j
        | none => e

end Dev

namespace Site

/-- Held while LDCNT is full (R23). -/
def countedLoad (x : Site) (f : Act) : Act := if 63 ≤ x.w.ld then .hold x.d .counter else f

/-- Held while STCNT is full, with the release of R142 (R23, R252). -/
def countedStore (x : Site) (f : Act) : Act := if x.w.st < 63 && !x.w.releasing then f else x.releaseThen .cluster fun d => .hold d .counter

/-- The record that a uniform index operand names, checked (R335): the device, the address of `n` bytes from word `word`
on, their place and key. -/
def recordPlace (x : Site) (idx : Opnd) (word n : Nat) (acc : Access) (f : Dev → Nat → Loc → BitVec 10 → Act) : Act :=
  let i := x.v.uniform idx
  match x.d.context x.w.ctx with
  | none => x.tsrRange i
  | some c =>
    if !c.tsrIndexOk i then x.tsrRange i
    else
      let va := c.tsrVa i + 4 * word
      match x.d.placeAt x.k x.j x.w .global va n true acc with
      | .error code => .fault x.d (.warpWide code x.p (BitVec.ofNat 64 va))
      | .ok (d, loc, key) => f d va loc key

/-! ### QNT -/

/-- The tags of QNT (R345). -/
def qntOk (x : Site) (o : D2) (f : Fmt) : Bool :=
  x.v.has (if f.count = 1 then .l32 else f.tag) 1 o.a && x.v.has .i32 1 o.b

/-- QNT in one lane (R345): the result and how many elements saturated. -/
def qntLane (x : Site) (o : D2) (f : Fmt) (rnd : Rnd) (s : Int) (l : Lane) : Word × Nat :=
  let src : Fmt := if f.count = 1 then .l32 else f
  let a := x.v.real src o.a l
  let rs := (List.range f.count).map fun j =>
    scaled f.elem ((x.rctx rnd .sat l a).turn j) s
      (.ofLog src.elem (a.toNat / 2 ^ (src.elem.bits * j) % 2 ^ src.elem.bits))
  (ofElems f (rs.map (·.1)), (rs.filter fun r => r.2 == Ev.of_ || r.2 == Ev.sat).length)

/-- The destination and the scale register of QNT as a load that its completion writes (R345). -/
def qntLoad (_ : Site) (o : D2) (ws : Fin 32) (f : Fmt) (s : Int) (rs : List (Lane × Word × Nat)) : PLoad :=
  { blankLoad o.d f.tag 1 with
    lanes := rs.map fun r => { lane := r.1, va := 0, l1 := false, bytes := (leBytes 4 r.2.1.toNat).map .held }
    also := some (ws, scaleCode s) }

/-- The reduction of QNT under the counting policy (R345): one update of OVFCNT, on its way. -/
def qntCount (x : Site) (d : Dev) (pa : Nat) (key : BitVec 10) (gen : Word) (sats : Nat) : Dev :=
  let send : TsrSend := {
    ctx := x.w.ctx, pa := pa, key := key, gen := gen, delta := TsrDelta.empty.countSat sats
    by_ := some (x.k, x.j, d.seq) }
  let d := (x.startStore d { blankStore with sent := true }).commit x.w.task
  { d with tsrs := d.tsrs ++ [send] }

/-- QNT after its record has been read (R345). -/
def qntWith (x : Site) (o : D2) (ws : Fin 32) (f : Fmt) (rnd : Rnd) (d : Dev) (loc : Loc) (key : BitVec 10)
    (rec : Nat) : Act :=
  let word (n : Nat) : Word := BitVec.ofNat 32 (rec / 2 ^ (32 * n))
  let s := scaleSteps (word 2) (word 1)
  let rs := (lanesOf (Dst.lanes o.d x.p)).map fun l => (l, x.qntLane o f rnd s l)
  let sats := rs.foldl (fun n r => n + r.2.2) 0
  let pa := match loc with
    | .phys pa => pa
    | .bank _ _ => 0
  if sats = 0 then .done (x.startLoad d (x.qntLoad o ws f s rs))
  else if flagsPol (word 1) then
    .fault d { code := Code.rescale, detail := x.v.uniform o.b
               lanes := (rs.filter fun r => r.2.2 != 0).map fun r => { lane := r.1, cause := Code.rescale, addr := 0 } }
  else x.countedStore (.done (x.qntCount (x.startLoad d (x.qntLoad o ws f s rs)) pa key (word 0) sats))

/-- QNT (R345). -/
def quantise (x : Site) (o : D2) (ws : Fin 32) (f : Fmt) (rnd : Rnd) : Act :=
  x.countedLoad <|
    if !x.qntOk o f then x.format
    else x.recordPlace o.b 0 16 .read fun d va loc key =>
      if Dev.writeHeld x.w ((List.range 16).map (Dev.locUp loc)) then .hold x.d .atomic
      else
        let (bs, d) := d.plainRead x.k x.j x.w va loc key 16
        x.qntWith o ws f rnd d loc key (leNat bs)

/-! ### STATRD, STATRST, STATMRG -/

/-- STATRD (R347): a plain read of one word, the same value in every lane. -/
def statRead (x : Site) (dst : Dst) (a : Opnd) (word : Fin 64) : Act :=
  x.countedLoad <|
    if !x.v.has .i32 1 a then x.format
    else x.recordPlace a word.val 4 .read fun d va loc key =>
      let tag : Tag := if word.val = 2 ∨ word.val = 3 then .l32 else .i32
      x.load d (blankLoad dst tag 1) 4
        ((lanesOf (Dst.lanes dst x.p)).map fun l => { lane := l, addr := BitVec.ofNat 64 va, loc := loc, key := key })

/-- STATRST (R342): the reset takes effect before the warp goes on. -/
def statReset (x : Site) (a : Opnd) : Act :=
  x.countedStore <|
    if !x.v.has .i32 1 a then x.format
    else x.recordPlace a 0 256 .write fun d _ loc key =>
      let locs := (List.range 256).map (Dev.locUp loc)
      if Dev.writeHeld x.w locs then .hold x.d .atomic
      else match loc with
        | .phys pa =>
          .done (((((d.capture x.k x.j locs).drainFor locs).tsrReset key pa).writtenBy (d.partOf x.w.ctx) d.regWrites.length).dropCopies
            x.k locs |>.commit x.w.task)
        | .bank _ _ => .done d

/-- A record that STATMRG names, translated whole under R139 (R350). -/
def mergeRecord (x : Site) (d : Dev) (va : Nat) (acc : Access) : Except (Nat × DWord × Nat) Dev :=
  match d.placeAt x.k x.j x.w .global va 256 true acc with
  | .error code => .error (code, BitVec.ofNat 64 va, 0)
  | .ok (d, _, _) => .ok d

/-- One lane of STATMRG (R349, R350): the checks of its operands, the translation of its local records, then its command. -/
def mergeLane (x : Site) (a b : Opnd) (dep : Dep) (d : Dev) (_ : Lane) : Checked CopyCmd :=
  let src := x.v.uniform a
  let dst := x.v.uniform b
  let port := fieldOf dst 22 20
  match x.d.context x.w.ctx with
  | none => laneParam d 32 (src.setWidth 64)
  | some c =>
    if !c.tsrIndexOk src then laneParam d 32 (src.setWidth 64)
    else if fieldOf dst 31 23 ≠ 0 ∨ 5 < port ∨ (port ≠ 0 ∧ c.peerpool port = 0) then laneParam d 33 (dst.setWidth 64)
    else if port = 0 ∧ !c.tsrIndexOk (dst &&& 0xFFFFF) then laneParam d 32 (dst.setWidth 64)
    else match x.mergeRecord d (c.tsrVa src) .read with
      | .error e => (d, .error e)
      | .ok d => match if port = 0 then x.mergeRecord d (c.tsrVa (dst &&& 0xFFFFF)) .write else .ok d with
        | .error e => (d, .error e)
        | .ok d => (d, .ok { x.command .merge dep with merge := (src, dst) })

/-- STATMRG (R349). -/
def statMerge (x : Site) (a b : Opnd) (dep : Dep) : Act :=
  x.enqueue true (x.v.has .i32 1 a && x.v.has .i32 1 b) (x.mergeLane a b dep)

end Site

def execQnt (c : Ctl) (o : D2) (ws : Fin 32) (imm : Word) (fmt : Fmt) (rnd : Rnd) (s : State) :
    Host.Outcome State Fault Refusal :=
  issue (.qnt c o ws imm fmt rnd) c imm (fun x => x.quantise o ws fmt rnd) s

def execStatrd (c : Ctl) (d : Dst) (a : Opnd) (word : Fin 64) (s : State) : Host.Outcome State Fault Refusal :=
  issue (.statrd c d a word) c 0 (fun x => x.statRead d a word) s

def execStatrst (c : Ctl) (a : Opnd) (imm : Word) (s : State) : Host.Outcome State Fault Refusal :=
  issue (.statrst c a imm) c imm (fun x => x.statReset a) s

def execStatmrg (c : Ctl) (a b : Opnd) (dep : Dep) (s : State) : Host.Outcome State Fault Refusal :=
  issue (.statmrg c a b dep) c 0 (fun x => x.statMerge a b dep) s

/-- TSR_UPDATE (R337): the i-th update arrives at its record's home; the store that waited for it is then complete. -/
def execTsrUpdate (i : Nat) (s : State) : Host.Outcome State Fault Refusal := agent (fun d => d.tsrArrive i) s

end Sys2Proof.Machine
end

