-- ==== Sys2Proof/Machine/Tree.lean ====
section
/-! DEFINITION. The arithmetic of the matrix engine (R316 to R322): the tables, one node, a chunk's tree, the product of two
operands, and weights in the codebook formats (R52 to R56). Logs are integers in units of 2^-12. -/

namespace Sys2Proof.Machine.Tree

/-! ### Tables -/

/-- T_sb (Table 13.4). -/
def sbTable : List Int :=
  [16384, 15382, 14425, 13511, 12641, 11814, 11030, 10287] ++ [9584, 8921, 8296, 7708, 7156, 6638, 6152, 5699] ++
  [5274, 4879, 4510, 4167, 3848, 3551, 3276, 3021] ++ [2784, 2565, 2362, 2175, 2002, 1842, 1695, 1559] ++
  [1433, 1317, 1211, 1113, 1022, 939, 862, 792] ++ [727, 668, 613, 563, 517, 474, 435, 399] ++
  [366, 336, 309, 283, 260, 238, 219, 201] ++ [184, 169, 155, 142, 130, 119, 110, 100] ++
  [92, 85, 78, 71, 65, 60, 55, 50] ++ [46, 42, 39, 36, 33, 30, 27, 25] ++ [23, 21, 19, 18, 16, 15, 14, 13] ++
  [12, 11, 10, 9, 8, 7, 7, 6] ++ [6, 5, 5, 4, 4, 4, 3, 3] ++ [3, 3, 2, 2, 2, 2, 2, 2] ++ [1]

/-- T_db (Table 13.5), from entry 4 on. -/
def dbTable : List Int :=
  [-29025, -24708, -21342, -18626] ++ [-16384, -14499, -12894, -11512, -10312, -9263, -8340, -7524] ++
  [-6800, -6155, -5579, -5062, -4598, -4181, -3804, -3464] ++ [-3156, -2878, -2625, -2396, -2187, -1998, -1826, -1669] ++
  [-1526, -1395, -1276, -1168, -1068, -978, -895, -820] ++ [-750, -687, -629, -577, -528, -484, -443, -406] ++
  [-372, -341, -313, -287, -263, -241, -221, -202] ++ [-185, -170, -156, -143, -131, -120, -110, -101] ++
  [-93, -85, -78, -71, -65, -60, -55, -50] ++ [-46, -42, -39, -36, -33, -30, -27, -25] ++
  [-23, -21, -19, -18, -16, -15, -14, -13] ++ [-12, -11, -10, -9, -8, -7, -7, -6] ++ [-6, -5, -5, -4, -4, -4, -3, -3] ++
  [-3, -3, -2, -2, -2, -2, -2, -2] ++ [-1]

/-- T_dc (Table 13.6). -/
def dcTable : List Int := [0, -510, -1017, -1519, -2018, -2514, -3005, -3493, -3978]

/-- An entry of a table. -/
def entry (t : List Int) (i : Nat) : Int := (t[i]?).getD 0

/-! ### One node -/

/-- V / d rounded to nearest, ties to even. -/
def nearest (v d : Int) : Int :=
  let q := v / d
  let r := v % d
  if 2 * r < d then q else if d < 2 * r then q + 1 else if q % 2 = 0 then q else q + 1

/-- interp() of R318 in T_sb. -/
def interpSb (d : Nat) : Int :=
  let i := d / 512
  nearest (entry sbTable i * 512 + (entry sbTable (i + 1) - entry sbTable i) * (d % 512 : Nat)) 2048

/-- interp() of R318 in T_db. -/
def interpDb (d : Nat) : Int :=
  let i := d / 512 - 4
  nearest (entry dbTable i * 512 + (entry dbTable (i + 1) - entry dbTable i) * (d % 512 : Nat)) 2048

/-- small() of R318: V is transcendental, so its floor decides the nearest integer. -/
def small (d : Nat) : Int :=
  let i := d / 256
  let v := Exact.log2Ln2 d + entry dcTable i * 256 + (entry dcTable (i + 1) - entry dcTable i) * (d % 256 : Nat)
  (v + 512) / 1024

/-- limit() of R318. -/
def limit (s : Bool) (l : Int) : Num :=
  if 2 ^ 19 ≤ l then .inf s else if l < -(2 ^ 19) then .zero s else .fin s l

/-- Two finite values, the one of the larger log first (R318). -/
def add (sh : Bool) (lh : Int) (sl : Bool) (ll : Int) : Num :=
  let d := (lh - ll).toNat
  if 57344 ≤ d then .fin sh lh
  else if sh = sl then limit sh (lh + interpSb d)
  else if d = 0 then .zero false
  else if 2048 ≤ d then limit sh (lh + interpDb d)
  else limit sh (lh + small d)

/-- The NaN of a tree; its payload is never seen. -/
def nan : Num := .nan false 0

/-- node() of R318, x the left operand. -/
def node (x y : Num) : Num :=
  match x, y with
  | .nan _ _, _ | _, .nan _ _ => nan
  | .inf s, .inf t => if s = t then x else nan
  | .inf _, _ => x
  | _, .inf _ => y
  | .zero s, .zero t => .zero (s && t)
  | .zero _, _ => y
  | _, .zero _ => x
  | .fin s l, .fin t m => if m ≤ l then add s l t m else add t m s l

/-- One level of a tree (R317). -/
def level : List Num → List Num
  | x :: y :: t => node x y :: level t
  | l => l

/-- The root of a tree of a number of levels (R317). -/
def root : Nat → List Num → Num
  | 0, l => l.headD (.zero false)
  | n + 1, l => root n (level l)

/-! ### Leaves -/

/-- The product of two operands (R316). -/
def product (a b : Num) : Num :=
  let s := a.neg != b.neg
  match a, b with
  | .nan _ _, _ | _, .nan _ _ => nan
  | .zero _, .inf _ | .inf _, .zero _ => nan
  | .inf _, _ | _, .inf _ => .inf s
  | .zero _, _ | _, .zero _ => .zero s
  | .fin _ l, .fin _ m => limit s (l + m)

/-- A value with its log multiplied. -/
def widen (n : Int) : Num → Num
  | .fin s l => .fin s (l * n)
  | x => x

/-- An operand in L8A, L8B or L16 by its format code (R316). -/
def operand (f x : Nat) : Num :=
  match f with
  | 0 => widen (2 ^ 9) (Num.ofCode .l8a x)
  | 1 => widen (2 ^ 10) (Num.ofCode .l8b x)
  | _ => widen (2 ^ 5) (Num.ofCode .l16 x)

/-- The logs of the CB4 levels in units of 1/128 (Table 2.4). -/
def cb4Levels : List Int := [-585, -381, -283, -216, -162, -113, -64, 0]

/-- A CB4 weight of an index, a block offset and a superscale (R52, R56). -/
def cb4 (idx off : Nat) (scale : Word) : Num :=
  let neg := idx.testBit 3
  match Num.ofCode .l32 scale.toNat with
  | .nan _ _ => nan
  | .inf s => .inf (neg != s)
  | .zero s => .zero (neg != s)
  | .fin s l =>
    limit (neg != s) (nearest (entry cb4Levels (idx % 8) * 2 ^ 15 + sextN 8 off * 2 ^ 19 + l) 1024)

/-- A CB3 weight of an index and its block's table set, for column n (R54, R56, R322). -/
def cb3 (idx n : Nat) (set : List Byte) : Num :=
  operand 2 (leNat ((set.drop (16 * n + 2 * idx)).take 2))

/-- Element e of a bit string of w-bit indices (R55). -/
def indexAt (w e : Nat) (bs : List Byte) : Nat := leNat ((bs.drop (w * e / 8)).take 2) / 2 ^ (w * e % 8) % 2 ^ w

/-- acc + root, rounded once as ATOM.gadd does (R321): a NaN root counts as 0x6000_0000. -/
def accumulate (acc : Word) (r : Num) : Word :=
  let y := match r with
    | .nan _ _ => Num.ofCode .l32 0x60000000
    | x => widen (2 ^ 10) x
  BitVec.ofNat 32 ((RealOp.add .l32 ⟨.rn, 0, false⟩ (Num.ofCode .l32 acc.toNat) y).1.code .l32)

/-- One element of an operation (R321): the rows and columns chunk by chunk. -/
def element (kc levels : Nat) (acc : Word) (a b : List Num) : Word :=
  let n := 2 ^ levels
  (List.range kc).foldl (fun acc c =>
    accumulate acc (root levels (List.zipWith product ((a.drop (c * n)).take n) ((b.drop (c * n)).take n)))) acc

end Sys2Proof.Machine.Tree
end

