-- ==== Sys2Proof/Machine/Matrix.lean ====
section
/-! DEFINITION. The matrix group (R307 to R330): the parameter block and its checks, MMA, TBLD, MZERO and MDRAIN, and the
steps of the engine: MATRIX_OP_START, MATRIX_OP_COMPLETION, MATRIX_OP_ERROR, TBLD_EXECUTE and TABLE_PULL. -/

namespace Sys2Proof.Machine

/-! ### The parameter block -/

/-- A matrix parameter block image (Table 13.1). -/
abbrev Mpb := BitVec 1024

namespace Mpb

def aaddr (m : Mpb) : Nat := fieldOf m 31 0
def astr (m : Mpb) : Nat := fieldOf m 63 32
/-- BADDR as a pair: a TLR's address, or a scratchpad address in its low word. -/
def baddr (m : Mpb) : Nat := fieldOf m 127 64
def bstr (m : Mpb) : Nat := fieldOf m 159 128
def bk0 (m : Mpb) : Nat := fieldOf m 191 160
def bn0 (m : Mpb) : Nat := fieldOf m 223 192
def saddr (m : Mpb) : Nat := fieldOf m 287 224
def sstr (m : Mpb) : Nat := fieldOf m 319 288
def taddr (m : Mpb) : Nat := fieldOf m 351 320
def afmt (m : Mpb) : Nat := fieldOf m 355 352
def bfmt (m : Mpb) : Nat := fieldOf m 359 356
/-- m, the tiles of the operation. -/
def tiles (m : Mpb) : Nat := fieldOf m 362 360 + 1
/-- kc, the chunks along K. -/
def kc (m : Mpb) : Nat := fieldOf m 366 363 + 1
def tile (m : Mpb) : Nat := fieldOf m 373 367
def bsrc (m : Mpb) : Bool := m.getLsbD 374
def tmode (m : Mpb) : Nat := fieldOf m 376 375
def tent (m : Mpb) : Nat := fieldOf m 379 377
def acc (m : Mpb) : Bool := m.getLsbD 380
def pin (m : Mpb) : Bool := m.getLsbD 381
def unpin (m : Mpb) : Bool := m.getLsbD 382
def tsr (m : Mpb) : BitVec 20 := m.extractLsb' 384 20
def tsrv (m : Mpb) : Bool := m.getLsbD 404
def cb4 (m : Mpb) : Bool := m.bfmt == 7
def cb3 (m : Mpb) : Bool := m.bfmt == 8

/-- K elements of a chunk (Table 13.2). -/
def chunk (m : Mpb) : Nat := if m.afmt = 2 then 256 else 512
/-- Levels of a chunk's tree (Table 13.2). -/
def levels (m : Mpb) : Nat := if m.afmt = 2 then 8 else 9
/-- Elements along K. -/
def kElems (m : Mpb) : Nat := m.kc * m.chunk
/-- Bytes of a row of A. -/
def aBytes (m : Mpb) : Nat := 512 * m.kc
/-- Bits of an element of B. -/
def bBits (m : Mpb) : Nat := if m.cb4 then 4 else if m.cb3 then 3 else if m.bfmt = 2 then 16 else 8
/-- Bytes of a column of B (Table 13.2). -/
def bBytes (m : Mpb) : Nat := m.kElems * m.bBits / 8
/-- Blocks of 128 elements along K, each with its table set (R322). -/
def blocks (m : Mpb) : Nat := m.kElems / 128

/-- MPB_RESERVED (Table 13.3). -/
def badReserved (m : Mpb) : Bool :=
  fieldOf m 1023 405 != 0 || m.getLsbD 383 || m.tmode == 3 ||
    (!m.bsrc && (m.baddr / 2 ^ 32 != 0 || m.bk0 != 0 || m.bn0 != 0)) || (m.bsrc && m.bstr != 0) ||
    (!m.cb4 && (m.saddr != 0 || m.sstr != 0)) || (m.tmode != 2 && m.taddr != 0) || (m.tmode != 1 && m.tent != 0)

/-- MPB_FORMAT (Tables 13.2 and 13.3). -/
def badFormat (m : Mpb) : Bool :=
  !((m.afmt ≤ 1 && (m.bfmt ≤ 1 || m.cb4 || m.cb3)) || (m.afmt == 2 && m.bfmt == 2)) || (m.cb3 == (m.tmode == 0))

/-- The conditions of B_RANGE on B's record (Table 13.3). -/
def badTlr (m : Mpb) (r : Tlr) : Bool :=
  r.badReserved .lg 0 || r.top != 0 || r.ring || r.ndim != 2 || r.mfmt != (if m.bfmt ≤ 2 then m.bfmt else 4) ||
    r.stat || r.qnt || r.addBit || r.db || r.pres || ((List.range 5).any fun i => r.box i != 0) ||
    !canonical r.base || r.base % 16 != 0 || r.stride 1 % 16 != 0 || m.bk0 % m.chunk != 0 ||
    m.saddr % 8 != 0 || m.sstr % 8 != 0

end Mpb

/-! ### Checks at issue -/

namespace Site

/-- Places of rows at a distance from each other, each wholly valid (R137, R312). -/
def rowRefs (x : Site) (addr str count bytes : Nat) : Option (List LocalRef) :=
  mapAll? (fun i => x.d.scratchRef x.k x.w (addr + i * str : Nat) bytes) (List.range count)

/-- The places of A (A_RANGE). -/
def aRefs (x : Site) (m : Mpb) : Option (List LocalRef) :=
  if m.aaddr % 16 ≠ 0 ∨ m.astr % 16 ≠ 0 then none else x.rowRefs m.aaddr m.astr (32 * m.tiles) m.aBytes

/-- The places of B in scratchpad and of its scale records there (B_RANGE). -/
def bRefs (x : Site) (m : Mpb) : Option (List LocalRef × List LocalRef) :=
  if m.baddr % 16 ≠ 0 ∨ m.bstr % 16 ≠ 0 ∨ m.saddr % 8 ≠ 0 ∨ m.sstr % 8 ≠ 0 then none
  else match x.rowRefs m.baddr m.bstr 64 m.bBytes with
    | none => none
    | some b =>
      if m.cb4 then (x.rowRefs (m.saddr % 2 ^ 32) m.sstr 64 (m.kElems / 256 * 8)).map fun s => (b, s) else some (b, [])

/-- The table buffer of TMODE 2 (TABLE). -/
def tableBuffer (x : Site) (m : Mpb) : Option (LocalRef × Nat) :=
  (x.d.scratchRef x.k x.w m.taddr 1).bind fun p => (x.d.bufferAt p).bind fun b =>
    if 1024 ≤ Dev.slotBytes b then some (p, b.id) else none

/-- The conditions of Table 13.3 in order: the first that fails, or the operation. -/
def mpbChecks (x : Site) (m : Mpb) (r : Tlr) : Except Nat MatCmd :=
  if m.badReserved then .error 16
  else if m.badFormat then .error 17
  else if 96 < m.tile + m.tiles then .error 18
  else match x.aRefs m with
    | none => .error 19
    | some a =>
      match if m.bsrc then (if m.badTlr r then none else some ([], [])) else x.bRefs m with
      | none => .error 20
      | some (b, s) =>
        if m.tmode = 2 then
          match x.tableBuffer m with
          | none => .error 21
          | some t => .ok (.op 0 x.issuer m r a b s (some t))
        else .ok (.op 0 x.issuer m r a b s none)

/-- One lane of MMA (R326), from the place of its MPB on. -/
def mmaLane (x : Site) (sp : Space) (addr : DWord) (d : Dev) : Checked MatCmd :=
  match d.placeAt x.k x.j x.w sp addr.toNat 128 (addr.toNat % 128 == 0) .read with
  | .error c => (d, .error (c, Site.addrField sp (x.firstFailing sp addr.toNat 128 c), 0))
  | .ok (d, loc, key) =>
    let (bs, d) := d.plainRead x.k x.j x.w addr.toNat loc key 128
    let m : Mpb := BitVec.ofNat 1024 (leNat bs)
    let tlrVa : DWord := BitVec.ofNat 64 m.baddr
    match if m.bsrc then x.readRecord d tlrVa tlrVa else .ok (d, 0) with
    | .error c => (d, .error c)
    | .ok (d, r) =>
      let range := match d.context x.w.ctx with
        | some c => c.tsrIndexOk (m.tsr.setWidth 32)
        | none => false
      if m.tsrv && !range then laneParam d 32 addr
      else match x.mpbChecks m r with
        | .error n => laneParam d n addr
        | .ok c => (d, .ok c)

/-- An entry of a matrix queue under a name. -/
def named (id : Nat) : MatCmd → MatCmd
  | .op _ b m r x y z t => .op id b m r x y z t
  | .tbld _ b s e => .tbld id b s e

/-- Slots of the matrix queue that are taken: a TBLD at its head has started (R314, R323). -/
def matTaken (c : Core) : Nat :=
  match c.matQ.head? with
  | some (.tbld _ _ _ _) => c.matQ.length - 1
  | _ => c.matQ.length

/-- The commands of an instruction's lanes enter the matrix queue and count (R314). -/
def enqueuedMat (x : Site) (d : Dev) (cs : List MatCmd) : Dev :=
  let d := cs.foldl (fun d c =>
    let (id, d) := d.freshId
    d.modCore x.k fun y => { y with matQ := y.matQ ++ [named id c] }) d
  d.modWarp x.k x.j fun w => { w with tl := w.tl + (lanesOf x.p).length }

/-- Issue of matrix commands (R176, R326, R327): held until every lane's command finds room, then each enters the matrix
queue and counts. -/
def enqueueMat (x : Site) (tags : Bool) (f : Dev → Lane → Checked MatCmd) : Act :=
  let n := (lanesOf x.p).length
  if 63 < x.w.tl + n then .hold x.d .counter
  else if 4 < matTaken (x.d.core x.k) + n then .hold x.d .queue
  else if !tags then x.format
  else match x.eachLane f with
    | (d, .error e) => .fault d e
    | (d, .ok cs) => .done (x.enqueuedMat d cs)

/-- A plain read at issue waits for the warp's own outstanding reductions (R268). -/
def afterAtomics (x : Site) (f : Act) : Act :=
  if (x.w.loads.any fun p => !p.atom.isEmpty) || x.w.stores.any fun p => !p.red.isEmpty then .hold x.d .atomic else f

/-- One lane of TBLD (R327). -/
def tbldLane (x : Site) (a b : Opnd) (d : Dev) (l : Lane) : Checked MatCmd :=
  let src := x.v.word a l
  let e := (x.v.word b l).toNat
  if h : e < 8 then
    if src.toNat % 16 ≠ 0 then laneParam d 21 (src.setWidth 64)
    else match x.d.scratchRef x.k x.w src.toNat 1024 with
      | none => laneParam d 21 (src.setWidth 64)
      | some r => (d, .ok (.tbld 0 x.issuer r ⟨e, h⟩))
  else laneParam d 21 (src.setWidth 64)

end Site

namespace Core

/-- The tiles of an entry of a matrix queue. -/
def cmdTiles : MatCmd → List Nat
  | .op _ _ m _ _ _ _ _ => (List.range (Mpb.tiles m)).map fun i => Mpb.tile m + i
  | .tbld _ _ _ _ => []

/-- The operations under way that name a tile (R309). -/
def opsOn (c : Core) (t : Nat) : List Nat :=
  ((c.matQ ++ c.running.toList).filter fun m => (cmdTiles m).contains t).map MatCmd.id

/-- MZERO of one tile at its place in the order of R309. -/
def orderZero (c : Core) (t : Nat) : Core :=
  let after := c.opsOn t
  if after.isEmpty then c.zeroTile t else { c with zeros := c.zeros ++ [{ after := after, first := t, count := 1 }] }

end Core

namespace Site

/-- MZERO (R328). -/
def matZero (x : Site) (a b : Opnd) : Act :=
  if !(x.v.has .i32 1 a && x.v.has .i32 1 b) then x.format
  else
    let first := x.v.uniform a
    let count := x.v.uniform b
    if count = 0 ∨ 96 < first.toNat + count.toNat then x.param 18 (first.setWidth 64)
    else .done (x.d.modCore x.k fun c => (List.range count.toNat).foldl (fun c i => c.orderZero (first.toNat + i)) c)

/-- One lane of MDRAIN (R329); which reason a record that breaks several conditions reports is `Tlr.reason`'s choice, then 32 and
last the operand's own, DESIGN CHOICE (log 119). -/
def drainLane (x : Site) (a b e : Opnd) (dep : Dep) (d : Dev) (l : Lane) : Checked CopyCmd :=
  let va := x.v.pair a l
  let o := x.v.pair e l
  let t := x.v.word b l
  let first := fieldOf t 6 0
  let cnt := fieldOf t 9 7 + 1
  match x.readRecord d va va with
  | .error c => (d, .error c)
  | .ok (d, r) =>
    match Tlr.reason .drain r none o cnt with
    | some n => laneParam d n va
    | none =>
      if !x.tsrOk r then laneParam d 32 va
      else if fieldOf t 31 10 ≠ 0 ∨ 96 < first + cnt then laneParam d 1 va
      else
        let after := (List.range cnt).flatMap fun i => (d.core x.k).opsOn (first + i)
        (d, .ok { x.command .drain dep with
          rec1 := r, recVa := va.toNat, origin := o, tiles := (first, cnt), after := after })

end Site

/-! ### The operation -/

namespace Dev

/-- Reads bytes of a resolved place, while its allocation is there (R315), filling the granules that it touches (R226). -/
def refRead (d : Dev) (r : LocalRef) (off n : Nat) : Except EngErr (Dev × List Byte) :=
  match d.refLoc r with
  | some (.bank k o) =>
    let from_ := o + off
    let steps := (List.range ((from_ % 256 + n + 255) / 256)).map fun i => max from_ (from_ / 256 * 256 + 256 * i)
    match steps.foldlM (fun d s => d.touchEngine k s 1) d with
    | .error e => .error e
    | .ok d => .ok (d, (List.range n).map fun i => d.readLoc (.bank k (from_ + i)) 0)
  | _ => .error (.fail Reason.localGone (BitVec.ofNat 64 (r.addr + off)))

/-- Reads bytes of one page of global memory for a weight or a scale record (R315): a window is an error. -/
def pageRead (d : Dev) (c : CtxIx) (va n : Nat) : Except EngErr (Dev × List Byte) :=
  if 2 ^ 64 ≤ va then .error (.fail Reason.noncanon (BitVec.ofNat 64 va))
  else match d.translate c va .read with
    | .error e => .error (engErr va e)
    | .ok t =>
      if isWindow t.pa then .error (.fail Reason.window (BitVec.ofNat 64 va))
      else .ok (d, d.readBytes t.key t.pa n)

/-- Reads bytes of global memory for a weight or a scale record, each page under its own translation (R312). -/
def weightRead (d : Dev) (c : CtxIx) (va n : Nat) : Except EngErr (Dev × List Byte) :=
  let here := 0x10000 - va % 0x10000
  if n ≤ here then d.pageRead c va n
  else match d.pageRead c va here with
    | .error e => .error e
    | .ok (d, bs) => (d.pageRead c (va + here) (n - here)).map fun r => (r.1, bs ++ r.2)

/-- What an operation reads of one column of B: its bytes and its scale records, and how many of its elements lie inside the
tensor (R312). -/
structure Column where
  bytes : List Byte
  scales : List Byte
  inside : Nat
  deriving DecidableEq, Repr

/-- The bytes of a run that an entry of the matrix queue has read already (R260, R314). -/
def earlyRun (x : Core) (id : Nat) (src : MatSrc) (i off n : Nat) : List (Option Byte) :=
  match x.early.filter fun b => b.id == id && b.src == src && b.index == i with
  | [] => List.replicate n none
  | bs => (List.range n).map fun j => (bs.find? fun b => b.off == off + j).map fun b => b.val

/-- Completes a run of bytes of which some have been read already. -/
def restOf (d : Dev) (early : List (Option Byte)) (read : Except EngErr (Dev × List Byte)) : Except EngErr (Dev × List Byte) :=
  if early.all Option.isSome then .ok (d, early.filterMap id)
  else read.map fun r => (r.1, (early.zip r.2).map fun p => p.1.getD p.2)

/-- A run of bytes of global memory, for an entry of the matrix queue of a core (R315). -/
def weightsOf (k : CoreIx) (id : Nat) (src : MatSrc) (i : Nat) (c : CtxIx) (va n : Nat) (d : Dev) :
    Except EngErr (Dev × List Byte) :=
  (List.range ((n + 15) / 16)).foldlM (fun (r : Dev × List Byte) j =>
    let m := min 16 (n - 16 * j)
    (r.1.restOf (earlyRun (r.1.core k) id src i (16 * j) m) (r.1.weightRead c (va + 16 * j) m)).map fun q => (q.1, r.2 ++ q.2))
    (d, [])

/-- A run of bytes from the start of a resolved place, for an entry of the matrix queue of a core. -/
def placesOf (k : CoreIx) (id : Nat) (src : MatSrc) (i : Nat) (p : LocalRef) (n : Nat) (d : Dev) :
    Except EngErr (Dev × List Byte) :=
  d.restOf (earlyRun (d.core k) id src i 0 n) (d.refRead p 0 n)

/-- The elements of column n of a weight tensor that an operation reads among the first `ke` along K, and where the column and
its first scale record start (R312). -/
def columnAt (m : Mpb) (r : Tlr) (ke n : Nat) : Nat × Nat × Nat :=
  let col := m.bn0 + n
  (if col < r.ext 1 then min ke (r.ext 0 - m.bk0) else 0, r.base + col * r.stride 1 + m.bk0 * m.bBits / 8,
    m.saddr + col * m.sstr + 8 * (m.bk0 / 256))

/-- Bytes of the scale records of some elements of a column (R312). -/
def scaleBytes (m : Mpb) (elems : Nat) : Nat := if m.cb4 then (elems + 255) / 256 * 8 else 0

/-- Column n of an operation, its first `ke` elements along K. -/
def readColumn (d : Dev) (k : CoreIx) (id : Nat) (c : CtxIx) (m : Mpb) (r : Tlr) (b s : List LocalRef) (ke n : Nat) :
    Except EngErr (Dev × Column) :=
  if m.bsrc then
    let (cnt, start, scale) := columnAt m r ke n
    match weightsOf k id .b n c start ((cnt * m.bBits + 7) / 8) d with
    | .error e => .error e
    | .ok (d, bs) => (weightsOf k id .s n c scale (scaleBytes m cnt) d).map fun q =>
      (q.1, { bytes := bs, scales := q.2, inside := cnt })
  else
    match b[n]? with
    | none => .error (.fail Reason.localGone 0)
    | some p => match placesOf k id .b n p ((ke * m.bBits + 7) / 8) d with
      | .error e => .error e
      | .ok (d, bs) => match s[n]? with
        | none => .ok (d, { bytes := bs, scales := [], inside := ke })
        | some q => (placesOf k id .s n q (scaleBytes m ke) d).map fun t => (t.1, { bytes := bs, scales := t.2, inside := ke })

/-- The table set of block b of an operation (R323, R324): the one staged, or, where a block has still to start, its entry. -/
def tableSet (x : Core) (m : Mpb) (b : Nat) : List Byte :=
  if m.tmode = 1 ∧ x.staging.length ≤ b then Sparse.getList (0 : Byte) x.tables ((m.tent + b) % 8 * 1024) 1024
  else (x.staging[b]?).getD []

/-- Weight k of column n (R312, R322): +0 outside the tensor. -/
def weight (x : Core) (m : Mpb) (c : Column) (n k : Nat) : Num :=
  if c.inside ≤ k then .zero false
  else if m.cb4 then
    let rec_ := c.scales.drop (k / 256 * 8)
    Tree.cb4 (Tree.indexAt 4 k c.bytes) ((rec_[4 + k % 256 / 64]?).getD 0).toNat (BitVec.ofNat 32 (leNat (rec_.take 4)))
  else if m.cb3 then Tree.cb3 (Tree.indexAt 3 k c.bytes) n (tableSet x m (k / 128))
  else
    let size := m.bBits / 8
    Tree.operand m.bfmt (leNat ((c.bytes.drop (k * size)).take size))

/-- A row of A (R312). -/
def aRow (m : Mpb) (bs : List Byte) : List Num :=
  let size := if m.afmt = 2 then 2 else 1
  (List.range m.kElems).map fun k => Tree.operand m.afmt (leNat ((bs.drop (k * size)).take size))

/-- Everything that an operation reads for its first `n` blocks: A's rows and B's columns. -/
def readOperands (d : Dev) (k : CoreIx) (id : Nat) (c : CtxIx) (m : Mpb) (r : Tlr) (a b s : List LocalRef) (n : Nat) :
    Except EngErr (Dev × List (List Byte) × List Column) :=
  let ke := 128 * n
  let rows := a.zipIdx.foldlM (fun (q : Dev × List (List Byte)) p =>
    match placesOf k id .a p.2 p.1 (ke * (if m.afmt = 2 then 2 else 1)) q.1 with
    | .error e => Except.error e
    | .ok (d, bs) => .ok (d, q.2 ++ [bs])) (d, [])
  match rows with
  | .error e => .error e
  | .ok (d, rs) =>
    match (List.range 64).foldlM (fun (q : Dev × List Column) j => match q.1.readColumn k id c m r b s ke j with
        | .error e => Except.error e
        | .ok (d, col) => .ok (d, q.2 ++ [col])) (d, []) with
    | .error e => .error e
    | .ok (d, cols) => .ok (d, rs, cols)

/-- Byte `off` of a row, a column, a column's scale records or a table set that an entry of a matrix queue reads. -/
def operandByte (d : Dev) (q : MatCmd) (src : MatSrc) (i off : Nat) : Option (Dev × Byte) :=
  let one (r : Except EngErr (Dev × List Byte)) : Option (Dev × Byte) :=
    match r with
    | .ok (d, [b]) => some (d, b)
    | _ => none
  let place (ps : List LocalRef) (n : Nat) : Option (Dev × Byte) :=
    if off < n then ps[i]?.bind fun p => one (d.refRead p off 1) else none
  match q with
  | .tbld _ _ p _ => if src = .t then place [p] 1024 else none
  | .op _ by_ mpb tlr a b s _ =>
    let m : Mpb := mpb
    let (cnt, start, scale) := columnAt m tlr m.kElems i
    match src with
    | .a => place a m.aBytes
    | .b =>
      if m.bsrc then (if i < 64 ∧ off < (cnt * m.bBits + 7) / 8 then one (d.weightRead by_.ctx (start + off) 1) else none)
      else place b m.bBytes
    | .s =>
      if m.bsrc then (if i < 64 ∧ off < scaleBytes m cnt then one (d.weightRead by_.ctx (scale + off) 1) else none)
      else place s (scaleBytes m m.kElems)
    | .t => none

/-- An entry of a matrix queue, waiting or running, reads one byte of its operands (R260, R314). -/
def pickOperand (d : Dev) (k : CoreIx) (id : Nat) (src : MatSrc) (i off : Nat) : Dev :=
  let x := d.core k
  if x.early.any fun b => b.id == id && b.src == src && b.index == i && b.off == off then d
  else match (x.running.toList ++ x.matQ).find? fun q => q.id == id with
    | none => d
    | some q => match d.operandByte q src i off with
      | none => d
      | some (d, b) =>
        d.modCore k fun x => { x with early := x.early ++ [{ id := id, src := src, index := i, off := off, val := b }] }

/-- The tiles of an operation after its last chunk (R321). -/
def opTiles (x : Core) (m : Mpb) (rows : List (List Byte)) (cols : List Column) : List Word :=
  let bs := cols.zipIdx.map fun c => (List.range m.kElems).map (weight x m c.1 c.2)
  rows.zipIdx.flatMap fun r =>
    let as := aRow m r.1
    bs.zipIdx.map fun b =>
      let old := if m.acc then tileElem x (m.tile + r.2 / 32) (r.2 % 32) b.2 else 0x40000000
      Tree.element m.kc m.levels old as b.1

/-- Whether the pin of a line is granted (R235), given the lines pinned on the die and those of the context. -/
def pinGranted (x : Context) (all own : List Nat) (line : Nat) : Bool :=
  let same (l : Nat) : Bool := sliceOf (l * 128) == sliceOf (line * 128) && bitsN (l * 128) 23 14 == bitsN (line * 128) 23 14
  (all.contains line || (all.filter same).length < 15) && (own.contains line || own.length < x.pinquota)

/-- The lines that an operation's columns read, by physical address, as far as they translate (R325). -/
def linesRead (d : Dev) (c : CtxIx) (m : Mpb) (r : Tlr) : List Nat :=
  let run (va n : Nat) : List Nat :=
    if n = 0 then [] else (List.range ((va + n - 1) / 128 - va / 128 + 1)).map fun i => max va ((va / 128 + i) * 128)
  let col (n : Nat) : List Nat :=
    let (cnt, start, scale) := columnAt m r m.kElems n
    run start ((cnt * m.bBits + 7) / 8) ++ run scale (scaleBytes m cnt)
  (((List.range 64).flatMap col).filterMap fun va => match d.translate c va .read with
    | .ok t => if isWindow t.pa then none else some (t.pa / 128)
    | .error _ => none).eraseDups

/-- The pins that an operation gains (R325), line by line: of every line that it reads, or, where it ends with an error, of as
many as it has read. -/
def pinLines (d : Dev) (k : CoreIx) (c : CtxIx) (m : Mpb) (r : Tlr) (whole : Bool) : Dev :=
  if !(m.pin && m.bsrc) then d
  else match d.context c with
    | none => d
    | some x =>
      let lines := d.linesRead c m r
      let (n, d) := if whole then (lines.length, d)
        else let (n, d) := d.drawn
          ((Config.freeWord n).toNat % (lines.length + 1), d)
      (lines.take n).foldl (fun d l =>
        let own := (d.cores.flatMap fun e => if e.2.ctxOwner == some c || e.1 == k.val then e.2.pins else []).eraseDups
        let all := (d.cores.flatMap fun e => e.2.pins).eraseDups
        if pinGranted x all own l && !(d.core k).pins.contains l then d.modCore k fun y => { y with pins := y.pins ++ [l] }
        else d) d

/-- The task's warp counts an operation down, and the trace takes its record (R314, R393). -/
def tlDone (d : Dev) (b : Issuer) (reason : Nat) (isOp : Bool) : Dev :=
  let d := (d.modWarp b.core b.slot fun w => if w.task = b.task then { w with tl := w.tl - 1 } else w).reap b.core b.slot
  if isOp then (d.count b.ctx 11 1).traceEngine b 7 reason false else d

/-- The running operation is over: the next may start, and MZERO acts where it waited for it. -/
def opOver (d : Dev) (k : CoreIx) (m : Mpb) : Dev :=
  d.modCore k fun c => Core.settleZeros <|
    let c := match c.running with
      | some q => c.endOp q
      | none => c
    { c with pins := if m.unpin then [] else c.pins }

/-- The table set of the next block of the running operation stands ready (R324). -/
def setReady (x : Core) (m : Mpb) : Bool := m.tmode != 2 || x.started < x.staging.length

/-- BLOCK START (R322 to R324): the running operation's next block starts, once its table set is staged and its operands can be
read; it takes the set of a table entry with it. -/
def nextBlock (d : Dev) (k : CoreIx) : Dev :=
  let x := d.core k
  match x.running with
  | some (.op id by_ mpb tlr a b s _) =>
    let m : Mpb := mpb
    if m.blocks ≤ x.started ∨ !setReady x m then d
    else match d.readOperands k id by_.ctx m tlr a b s (x.started + 1) with
      | .error _ => d
      | .ok (d, _) => d.modCore k fun x => { x with
        started := x.started + 1
        staging := if m.tmode = 2 then x.staging else x.staging ++ [if m.tmode = 1 then tableSet x m x.started else []] }
  | _ => d

/-- The running operation of a core, once its last block can end: with TMODE 2 every block has started (R324). -/
def runningOp (x : Core) : Option MatCmd :=
  match x.running with
  | some (.op id b m r a' b' s t) =>
    if Mpb.tmode m = 2 ∧ x.started < Mpb.blocks m then none else some (.op id b m r a' b' s t)
  | _ => none

/-- The table buffer of an operation is gone while a block still needs its set (R315). -/
def tableGone (d : Dev) (x : Core) : Option (MatCmd × LocalRef) :=
  match x.running with
  | some (.op id b m r a' b' s (some (p, buf))) =>
    if x.staging.length < Mpb.blocks m ∧ !((d.core p.core).bufs.any fun y => y.id == buf) then
      some (.op id b m r a' b' s (some (p, buf)), p)
    else none
  | _ => none

/-- The operation of a core waits for a page (R248, R315). -/
def opWaits (d : Dev) (k : CoreIx) (c : CtxIx) (va : Nat) : Dev :=
  (d.modCore k fun x => { x with opWait := some (c, pageOf va) }).request c va

/-- The matrix engine of a core waits for a page. -/
def opHeld (d : Dev) (k : CoreIx) : Bool := (d.core k).opWait.any fun w => d.requested w.1 w.2

/-- MATRIX_OP_COMPLETION (R314, R321). -/
def opDone (d : Dev) (k : CoreIx) : Dev :=
  match runningOp (d.core k) with
  | some (.op id by_ mpb tlr a b s _) =>
    let m : Mpb := mpb
    match d.readOperands k id by_.ctx m tlr a b s m.blocks with
    | .error (.wait va) => d.opWaits k by_.ctx va
    | .error (.fail _ _ _) => d
    | .ok (d, rows, cols) =>
      let d := d.pinLines k by_.ctx m tlr true
      let d := d.modCore k fun c => { c with
        tiles := Sparse.setList 0x40000000 (m.tile * 2048) (opTiles c m rows cols) c.tiles
        drec := if m.tsrv then (List.range m.tiles).foldl (fun l i => Sparse.put (m.tile + i) m.tsr l) c.drec else c.drec }
      (d.opOver k m).tlDone by_ 0 true
  | _ => d

/-- An operation ends with an error (R315). -/
def opError (d : Dev) (k : CoreIx) (by_ : Issuer) (m : Mpb) (tlr : Tlr) (reason : Nat) (addr : DWord) : Dev :=
  let d := (d.pinLines k by_.ctx m tlr false).modCore k fun c => { c with
    tiles := Sparse.setList 0x40000000 (m.tile * 2048) (List.replicate (m.tiles * 2048) 0x60000000) c.tiles }
  (((d.opOver k m).logError by_.ctx reason 7 addr (some by_)).tlDone by_ reason true)

/-- The blocks whose operands the running operation reads by now: those that have started, and the next where its set stands
ready. -/
def blocksRead (x : Core) (m : Mpb) : Nat :=
  if m.tmode = 2 then min m.blocks (if setReady x m then x.started + 1 else x.started) else m.blocks

/-- MATRIX_OP_ERROR (R315). -/
def opFailed (d : Dev) (k : CoreIx) : Dev :=
  match d.tableGone (d.core k) with
  | some (.op _ by_ mpb tlr _ _ _ _, p) => d.opError k by_ mpb tlr Reason.localGone (BitVec.ofNat 64 p.addr)
  | _ =>
    match (d.core k).running with
    | some (.op id by_ mpb tlr a b s _) =>
      match d.readOperands k id by_.ctx mpb tlr a b s (blocksRead (d.core k) mpb) with
      | .error (.wait va) => d.opWaits k by_.ctx va
      | .error (.fail reason addr _) => d.opError k by_ mpb tlr reason addr
      | .ok _ => d
    | _ => d

/-- MATRIX_OP_START (R314). -/
def opStart (d : Dev) (k : CoreIx) : Dev :=
  let c := d.core k
  match c.running, c.matQ with
  | none, .op id b m r x y z t :: rest => d.putCore k { c with running := some (.op id b m r x y z t), started := 0, matQ := rest }
  | _, _ => d

/-- The table entries that are due for a block of the running operation that has not finished (R323): the block that started last
runs until the next one starts. -/
def entriesDue (x : Core) : List Nat :=
  match x.running with
  | some (.op _ _ m _ _ _ _ _) =>
    if Mpb.tmode m = 1 then ((List.range (Mpb.blocks m)).drop (x.started - 1)).map fun b => (Mpb.tent m + b) % 8 else []
  | _ => []

/-- The engine of a core waits for a table set that no slot of the buffer holds, and every entry of its queue with it (R324). -/
def pullWaits (d : Dev) (x : Core) : Bool :=
  match x.running with
  | some (.op _ _ m _ _ _ _ (some (p, buf))) =>
    x.started < Mpb.blocks m && !setReady x m && (d.core p.core).bufs.any fun y => y.id == buf && y.filled == 0
  | _ => false

/-- TBLD_EXECUTE (R323): the TBLD at the queue's head writes its entry, once the running operation no longer needs it. A
source that is gone leaves the entry's bytes free (log 37). -/
def tbldRun (d : Dev) (k : CoreIx) : Dev :=
  let c := d.core k
  match c.matQ with
  | .tbld id by_ src e :: rest =>
    if (entriesDue c).contains e.val || d.pullWaits c then d
    else
      let put (d : Dev) (bs : List Byte) : Dev :=
        (d.modCore k fun c => Core.settleEarly { c with matQ := rest, tables := Sparse.setList (0 : Byte) (e.val * 1024) bs c.tables }).tlDone
          by_ 0 false
      match placesOf k id .t 0 src 1024 d with
      | .ok (d, bs) => put d bs
      | .error (.wait va) => d.request by_.ctx va
      | .error (.fail reason addr _) =>
        let bs := (List.range 1024).map fun i => Config.freeByte (d.draw + i)
        (put { d with draw := d.draw + 1024 } bs).logError by_.ctx reason 7 addr (some by_)
  | _ => d

/-- The operation whose next table set TABLE_PULL stages, once the block before has started (R324): the running one, or, after
its last block, the next queued one. -/
def pullFor (x : Core) : Option (LocalRef × Nat) :=
  match x.running with
  | some (.op _ _ m _ _ _ _ t) =>
    if x.staging.length ≠ x.started then none
    else if x.started < Mpb.blocks m then (if Mpb.tmode m = 2 then t else none)
    else match x.matQ.find? fun q => match q with
        | .op _ _ _ _ _ _ _ _ => true
        | .tbld _ _ _ _ => false with
      | some (.op _ _ n _ _ _ _ u) => if Mpb.tmode n = 2 then u else none
      | _ => none
  | _ => none

/-- TABLE_PULL (R324): a filled slot is acquired, copied and released. -/
def pull (d : Dev) (k : CoreIx) : Dev :=
  match pullFor (d.core k) with
  | none => d
  | some (p, id) => match (d.core p.core).bufs.find? fun b => b.id == id with
    | none => d
    | some b =>
      if b.filled = 0 then d
      else
        let at_ := b.start + b.head * slotBytes b
        let bs := (List.range 1024).map fun i => d.readLoc (.bank p.core (at_ + i)) 0
        let d := d.modCore p.core fun c => c.modBuf id fun y => y.acquire.release
        d.modCore k fun c => { c with staging := c.staging ++ [bs] }

end Dev

/-! ### The instructions and the steps -/

def execMmaGlob (c : Ctl) (a : Opnd) (imm : Word) (s : State) : Host.Outcome State Fault Refusal :=
  issue (.mmaGlob c a imm) c imm (fun x => x.afterAtomics <|
    x.enqueueMat (x.v.has .i64 2 a) fun d l => x.mmaLane .global (x.v.pair a l) d) s

def execMmaLoc (c : Ctl) (a : Opnd) (imm : Word) (s : State) : Host.Outcome State Fault Refusal :=
  issue (.mmaLoc c a imm) c imm (fun x => x.afterAtomics <|
    x.enqueueMat (x.v.has .i32 1 a) fun d l => x.mmaLane .scratch ((x.v.word a l).setWidth 64) d) s

def execMdrain (c : Ctl) (a b e : Opnd) (dep : Dep) (s : State) : Host.Outcome State Fault Refusal :=
  issue (.mdrain c a b e dep) c 0 (fun x =>
    x.enqueue true (x.v.has .i64 2 a && x.v.has .i32 1 b && x.v.has .i64 2 e) (x.drainLane a b e dep)) s

def execMzero (c : Ctl) (a b : Opnd) (imm : Word) (s : State) : Host.Outcome State Fault Refusal :=
  issue (.mzero c a b imm) c imm (fun x => x.matZero a b) s

def execTbld (c : Ctl) (a b : Opnd) (imm : Word) (s : State) : Host.Outcome State Fault Refusal :=
  issue (.tbld c a b imm) c imm (fun x =>
    x.enqueueMat (x.v.has .i32 1 a && x.v.has .i32 1 b) (x.tbldLane a b)) s

/-- MATRIX_OP_START (R314); the power clamp withholds it (R438). -/
def execMatrixOpStart (core : CoreIx) (s : State) : Host.Outcome State Fault Refusal :=
  agent (fun d => if s.board.holdMatrix then d else d.opStart core) s

/-- MATRIX_OP_COMPLETION (R321). -/
def execMatrixOpCompletion (core : CoreIx) (s : State) : Host.Outcome State Fault Refusal :=
  agent (fun d => if d.opHeld core then d else d.opDone core) s

/-- MATRIX_OP_ERROR (R315). -/
def execMatrixOpError (core : CoreIx) (s : State) : Host.Outcome State Fault Refusal := agent (fun d => if d.opHeld core then d else d.opFailed core) s

/-- TBLD_EXECUTE (R323). -/
def execTbldExecute (core : CoreIx) (s : State) : Host.Outcome State Fault Refusal := agent (fun d => d.tbldRun core) s

/-- TABLE_PULL (R324). -/
def execTablePull (core : CoreIx) (s : State) : Host.Outcome State Fault Refusal := agent (fun d => d.pull core) s

end Sys2Proof.Machine
end

