-- ==== Sys2Proof/Machine/Schedule.lean ====
section
/-! DEFINITION. Fetching an instruction from the instruction cache (R32, R44, R132, R133), what the choice of a pipe among its
warps compares (R155, R156), and placing an instruction to run next (log 34). -/

namespace Sys2Proof.Machine

/-- What a fetch finds. -/
inductive Fetch where
  | word (i : Instr)
  /-- The page cannot be fetched (R44). -/
  | bad (code : Nat)
  /-- The line is not present (R133). -/
  | absent
  /-- A word that no scan passes. -/
  | illegal (r : ScanReason)
  deriving DecidableEq, Repr

namespace Dev

/-- The line of the instruction cache that holds an address (R132). -/
def icacheFind (d : Dev) (k : CoreIx) (c : CtxIx) (va : Nat) : Option ILine :=
  (d.core k).icache.find? fun l => l.ctx == c && l.va == va57 va / 256 * 256

/-- The next instruction of a warp. -/
def fetch (d : Dev) (k : CoreIx) (w : Warp) : Fetch :=
  match (d.via k).fetchFault w.ctx w.pc.toNat with
  | some code => .bad code
  | none =>
    match d.icacheFind k w.ctx w.pc.toNat with
    | none => .absent
    | some l =>
      match decodeBytes (l.words.drop (w.pc.toNat % 256)) with
      | .ok i => .word i
      | .error r => .illegal r

/-- A warp asks for the line of its next instruction (R133): a demand joins the fill under way, takes a free slot, or waits in
order of arrival for one; the first 8 fills listed hold the slots. -/
def demandFill (d : Dev) (k : CoreIx) (j : SlotIx) (w : Warp) : Dev :=
  let line := va57 w.pc.toNat / 256 * 256
  let x := d.core k
  let d := d.putWarp k j { w with wait := some .fill }
  if x.fills.any fun f => f.ctx == w.ctx && f.va == line then d
  else d.modCore k fun y => { y with fills := y.fills ++ [{ ctx := w.ctx, va := line, demand := true }] }

/-- The control fields of a warp instruction. -/
def ctlOf (i : Instr) : Option Ctl := i.toRaw.map Raw.ctl

/-- A gang of the warp's task has a bind record that is not dispatched: no warp of the handle issues (R163). -/
def gangComing (d : Dev) (k : CoreIx) (w : Warp) : Bool :=
  (d.cluster (clusterOf k)).bands.any fun b => b.task == w.task && b.gang && !b.coming.isEmpty

/-- A warp runs, and no step of another agent has to come before its instruction. -/
def comes (d : Dev) (k : CoreIx) (w : Warp) : Bool :=
  w.status == .running && !w.hold && !awaits w.wait && !d.gangComing k w

/-- A warp may be ready (R155): nothing that stands of it holds back its next instruction. A fetch that fails is ready to
fault. -/
def isReady (d : Dev) (k : CoreIx) (w : Warp) : Bool :=
  d.comes k w && !heldBack w.wait &&
    match d.fetch k w with
    | .word i => match ctlOf i with
      | some c => d.canIssue w i c
      | none => false
    | .bad _ | .illegal _ => w.nextIssue ≤ d.clock
    | .absent => false

/-- The slots of a pipe (R152). -/
def pipeSlots (p : Fin 8) : List SlotIx := (List.finRange 8).map fun i => ⟨p.val + 8 * i.val, by omega⟩

/-- The cycle at which a warp that is ready became so, as far as time alone decided it (R155). -/
def readyTime (d : Dev) (k : CoreIx) (w : Warp) : Nat :=
  match d.fetch k w with
  | .word i => match ctlOf i with
    | some c => d.dueAt w i c
    | none => w.nextIssue
  | _ => w.nextIssue

/-- The better of two ready warps, the first of the lower slot (R156). -/
def prefer (now : Nat) (a b : SlotIx × Warp) : SlotIx × Warp :=
  let at_ (x : SlotIx × Warp) : Nat := x.2.readyAt.getD now
  if 57 ≤ a.2.age ∨ 57 ≤ b.2.age then (if a.2.age < b.2.age then b else a)
  else if a.2.prio ≠ b.2.prio then (if a.2.prio < b.2.prio then b else a)
  else if a.2.yielded ≠ b.2.yielded then (if a.2.yielded then b else a)
  else if at_ b < at_ a then b else a

end Dev

/-- The current slot's turn: the fetched instruction, or what the fetch meets instead; nothing where no warp can run. -/
inductive Turned where
  | run (i : Instr) (s : State)
  | pass (s : State)
  | stop (r : ScanReason)

/-- The current slot's warp comes to its next instruction (R44, R133). -/
def turnOf (s : State) : Turned :=
  let d := s.dev
  let k := d.curCore
  let j := d.curSlot
  match d.slot k j with
  | none => .pass s
  | some w =>
    if !d.comes k w then .pass s
    else match d.fetch k w with
      | .word i => .run i s
      | .bad code => .pass { s with dev := d.takeFault k j w (Dev.fetchInfo code w.m w.pc) }
      | .absent => .pass { s with dev := d.demandFill k j w }
      | .illegal r => .stop r

/-! ### Placing an instruction to run next (log 34) -/

/-- The context that `place` runs code of: number 0, tables at 0x20000. -/
def placedContext : Context where
  desc := BitVec.ofNat 2048 (0x20000 + 1023 * 2 ^ 1232)
  flipped := []
  poison := []
  stale := []
  objs := []
  bps := []
  ended := false

/-- A warp as it starts (R17). -/
def Warp.fresh (ctx : CtxIx) (task index : Nat) (prio : Fin 4) (pc : DWord) (m : Mask) (param : DWord) : Warp where
  ctx := ctx
  task := task
  index := index
  uid := 0
  prio := prio
  hold := false
  pc := pc
  m := m
  x := 0
  stack := []
  v := Vector.replicate 64 (Vector.replicate 32 0)
  vt := Vector.replicate 64 .undef
  w := ((Vector.replicate 32 (0 : Word)).set 0 (loWord param)).set 1 (hiWord param)
  wt := ((Vector.replicate 32 Tag.undef).set 0 .i64).set 1 .i64
  p := Vector.replicate 7 0
  ld := 0
  st := 0
  cp := 0
  tl := 0
  mode := 0
  chain := none
  carry := 0
  band := none
  status := .running
  wait := none
  record := none
  nested := none
  parkPc := 0
  inHandler := false
  skip := 0
  haltPend := false
  stepPend := false
  stepAfter := false
  pass := false
  haltAt := none
  preempt := false
  loads := []
  stores := []
  monitor := none
  hazards := []
  nextIssue := 0
  readyAt := none
  age := 0
  yielded := false
  ports := []
  alarm := none
  issuedAt := none
  walked := []
  flushing := []

/-- Puts a word at the page that `place` uses, virtual address 0x10000 of context 0 in frame 1, with the tables that map
it, the executable page and the line of the instruction cache, and makes the current slot's warp stand at it. -/
def Dev.place (d : Dev) (bytes : List Byte) : Dev :=
  let k := d.curCore
  let j := d.curSlot
  let line : List Byte := [1, 0, 0, 0] ++ bytes ++ List.replicate (252 - bytes.length) 0
  let mem := [(0x20000, 0x21001), (0x21000, 0x21801), (0x21800, 0x22001), (0x22000, 0x22801),
      (0x22808, 0x100000017)].foldl
    (fun m e => Sparse.setList (0 : Byte) e.1 (leBytes 8 e.2) m) d.mem
  let d := { d with mem := Sparse.setList (0 : Byte) 0x10000 (line.take 16) mem }
  let d := { d with tlb := d.tlb.filter fun t => t.ctx != 0 }.putContext 0 placedContext
  let d := d.modCluster (clusterOf k) fun c => { c with tlb := c.tlb.filter fun t => t.ctx != 0 }
  let page : ExecPage := {
    frame := 1, ctx := 0, va := 0x10000, codeId := 0, base := 0x10000, objLoaded := false, cls := 0, interlocked := true }
  let d := { d with exec := page :: d.exec.filter fun e => e.frame != 1 }
  let d := d.modCore k fun c => { c with
    tlb := c.tlb.filter fun t => t.ctx != 0
    icache := { ctx := 0, va := 0x10000, frame := 1, used := true, words := line } :: c.icache.filter fun l => !(l.ctx == 0 && l.va == 0x10000)
    busy := c.busy.set (j.val % 8) 0 }
  let w := (d.slot k j).getD (.fresh 0 0 0 0 0x10004 Mask.all 0)
  d.putWarp k j { w with
    ctx := 0, pc := 0x10004, m := if w.m = 0 then Mask.all else w.m, hold := false, status := .running, wait := none,
    nextIssue := 0, pass := true, hazards := [] }

end Sys2Proof.Machine
end

