-- ==== Sys2Proof/Machine/Place.lean ====
section
/-! DEFINITION. Placement of tasks: capture (R160), bind records and the slot table (R161 to R166), the change of a core's
context (R308), completion (R174), and work donation (R180 to R182). -/

namespace Sys2Proof.Machine

namespace Dev

/-! ### Capture -/

/-- The first byte of a parameter block that fails, with its code; a port that is down fails as LINK. -/
def paramFailure (d : Dev) (t : Task) : Option (Nat × Nat) :=
  ((List.range t.paramlen).findSome? fun i =>
    match d.translate t.ctx (t.paramVa + i) .read with
    | .error e => some (t.paramVa + i, e)
    | .ok r => if (portOf r.pa).any fun p => !(d.port p).up then some (t.paramVa + i, Code.link) else none)

/-- The bytes of a parameter copy (R160): zeros past PARAMLEN. -/
def paramBytes (d : Dev) (t : Task) : List Byte :=
  (List.range 256).map fun i =>
    if i < t.paramlen then match d.translate t.ctx (t.paramVa + i) .read with
      | .ok r => d.readPa r.key r.pa
      | .error _ => 0
    else 0

/-- A place of the parameter range that no live copy of the context uses, a free choice (R160, log 18). -/
def freeParam (d : Dev) (c : CtxIx) : Nat × Dev :=
  let (n, d) := d.drawn
  let used := (d.tasks.filter fun t => t.ctx == c).map (·.param)
  let at_ (n : Nat) : Nat := 0xFFFFFF0000000000 + 256 * n
  let any := at_ (Config.freeNat n % 2 ^ 32)
  (if used.contains any then at_ (((List.range (used.length + 1)).find? fun n => !used.contains (at_ n)).getD 0) else any, d)

/-- PARAM_CAPTURE (R160). -/
def captureParam (d : Dev) (t : Task) : Dev :=
  match d.paramFailure t with
  | some (va, code) =>
    if code = Code.notres then
      (d.modTask t.id fun x => { x with state := .captureWait, waitVa := pageOf va }).request t.ctx va
    else d.modTask t.id fun x => { x with launchErr := true, state := .completing }
  | none =>
    let (va, d) := d.freeParam t.ctx
    { d with mem := Sparse.setList (0 : Byte) (paramPa t.ctx va) (d.paramBytes t) d.mem }.modTask t.id fun x =>
      { x with param := va, state := .ready, waitVa := 0 }

/-! ### Cores and records -/

/-- A bind record (Table 6.5). -/
def bindRecord (t : Task) (index : Nat) (pipe : Fin 8) (band : Option (BitVec 8)) (hold : Bool) : BitVec 128 :=
  BitVec.ofNat 128 (va57 t.tcbVa + index * 2 ^ 64 + (band.getD 0).toNat * 2 ^ 80 + (if band.isSome then 2 ^ 88 else 0) +
    t.prio * 2 ^ 89 + pipe.val * 2 ^ 91 + (if hold then 2 ^ 94 else 0) + t.ctx.toNat * 2 ^ 96 + t.handle.toNat * 2 ^ 112)

/-- The bind records on their way to a core. -/
def recordsTo (d : Dev) (k : CoreIx) : List (BitVec 128) :=
  (d.core k).bindQ ++ (((d.cluster (clusterOf k)).binds.filter fun r => r.1 == k).map (·.2))

/-- Free slots of a core's pipe that no record on its way will take. -/
def pipeFree (d : Dev) (k : CoreIx) (p : Fin 8) : Nat :=
  let free := ((List.finRange 64).filter fun (j : SlotIx) => j.val % 8 == p.val && (d.slot k j).isNone).length
  free - ((d.recordsTo k).filter fun r => fieldOf r 93 91 == p.val).length

/-- Free slots of a core that no record on its way will take. -/
def coreFree (d : Dev) (k : CoreIx) : Nat := (List.finRange 8).foldl (fun n p => n + d.pipeFree k p) 0

/-- Free warp slots of a cluster. -/
def freeSlots (d : Dev) (cl : ClusterIx) : Nat := (coresOf cl).foldl (fun n k => n + d.coreFree k) 0

/-- PIPE of a record, a free choice (R162): among the pipes with a free slot, while there is one. -/
def choosePipe (d : Dev) (k : CoreIx) : Fin 8 × Dev :=
  let (n, d) := d.drawn
  let open_ := (List.finRange 8).filter fun p => d.pipeFree k p != 0
  let all : List (Fin 8) := if open_.isEmpty then List.finRange 8 else open_
  ((all[Config.freeNat n % all.length]?).getD 0, d)

/-- A core may take a warp of a context (R308). -/
def coreTakes (d : Dev) (k : CoreIx) (c : CtxIx) : Bool :=
  let x := d.core k
  let foreign (y : CopyCmd) : Bool := y.kind == .drain && y.by_.core == k && y.by_.ctx != c
  x.ctxOwner == none || x.ctxOwner == some c ||
    (x.slots.toList.all Option.isNone && (d.recordsTo k).isEmpty && x.matQ.isEmpty && x.running.isNone &&
      !(x.copyQ.any foreign) && !((d.cluster (clusterOf k)).engine.any foreign))

/-- A core's matrix state returns to its reset state at a change of its context (R308). -/
def takeCore (d : Dev) (k : CoreIx) (c : CtxIx) : Dev :=
  d.modCore k fun x =>
    if x.ctxOwner = some c then x
    else { x with tiles := [], drec := [], tables := [], staging := [], pins := [], zeros := [], ctxOwner := some c }

/-- The allocation of an owner on a core is there, made if it fits (R165, R218). -/
def ensureAlloc (d : Dev) (k : CoreIx) (o : Owner) (c : CtxIx) (bytes : Nat) : Option Dev :=
  if bytes = 0 ∨ (d.allocOf k o).isSome then some d
  else
    let (n, d) := d.drawn
    ((d.core k).carve bytes (Config.freeNat n)).map fun start =>
    let (id, d) := d.freshId
    d.modCore k fun x => x.allocate { id := id, owner := o, ctx := c, start := start, bytes := bytes }

/-- Stores under way reach their cores while the queues have room (R163). -/
def sendBinds (d : Dev) : List (CoreIx × BitVec 128) → Dev × List (CoreIx × BitVec 128)
  | [] => (d, [])
  | r :: rest =>
    if (d.core r.1).bindQ.length < 8 then (d.modCore r.1 fun x => { x with bindQ := x.bindQ ++ [r.2] }).sendBinds rest
    else (d, r :: rest)

/-- A cluster's stores of bind records go on. -/
def flushBinds (d : Dev) (cl : ClusterIx) : Dev :=
  let (d, rest) := d.sendBinds (d.cluster cl).binds
  d.modCluster cl fun c => { c with binds := rest }

/-- A record for a task's next warp is written (R161, R162). -/
def bindNext (d : Dev) (cl : ClusterIx) (t : Nat) (k : CoreIx) (band : Option (BitVec 8)) (hold : Bool) : Dev :=
  match d.task? t with
  | none => d
  | some x =>
    let (pipe, d) := d.choosePipe k
    let d := if x.placed = 0 then
        d.emit cl.val 0xFF 0xFF x.taskser [(2, BitVec.ofNat 128 (x.handle.toNat + x.warpCount * 2 ^ 16))]
      else d
    let d := d.modCluster cl fun c => { c with binds := c.binds ++ [(k, bindRecord x x.placed pipe band hold)] }
    d.modTask t fun x => { x with placed := x.placed + 1, state := .running }

/-- A core takes a warp of a task: its context, then its allocation; none where it may not. -/
def prepare (d : Dev) (t : Task) (o : Owner) (k : CoreIx) : Option Dev :=
  if d.coreTakes k t.ctx then (d.takeCore k t.ctx).ensureAlloc k o t.ctx t.spbytes else none

/-- The next launch band of a task (R164 to R166): all its warps on the cores named, one core where it is not a gang, where
every one of them has a free slot; its identifier is a free choice (log 31). -/
def startBand (d : Dev) (cl : ClusterIx) (t : Task) (ks : List CoreIx) : Option Dev :=
  let bands := (d.cluster cl).bands
  let (n, d) := d.drawn
  let ids := (List.range 256).filter fun n => !(bands.any fun b => b.id.toNat == n)
  match ids[Config.freeNat n % ids.length]? with
  | none => none
  | some n =>
    let id : BitVec 8 := BitVec.ofNat 8 n
    let cores := ks.eraseDups
    if !t.gang && cores.length != 1 then none
    else if cores.any fun k => d.coreFree k < (ks.filter (· == k)).length then none
    else
      (cores.foldl (fun (d : Option Dev) k => d.bind fun d => d.prepare t (.band id) k) (some d)).map fun d =>
        let band : Band := {
          id := id, task := t.id, ctx := t.ctx, gang := t.gang, home := ks.headD 0, members := [], coming := ks, arrived := []
          joins := [], generation := 0 }
        let d := d.modCluster cl fun c => { c with bands := c.bands ++ [band] }
        ks.foldl (fun d k => d.bindNext cl t.id k (some id) t.gang) d

/-- Places the next warps of a task on the cores named, while they may take them (R164). -/
def placeOn (d : Dev) (cl : ClusterIx) (t : Nat) : Nat → List CoreIx → Dev
  | 0, _ => d
  | fuel + 1, ks =>
    match d.task? t with
    | none => d
    | some x =>
      let left := x.warpCount - x.placed
      let n := if x.bandsz = 0 then 1 else min x.bandsz left
      if left = 0 ∨ ks.length < n then d
      else
        let placed := if x.bandsz = 0 then
            (ks.head?.bind fun k => (d.prepare x (.task t) k).map fun d => d.bindNext cl t k none false)
          else d.startBand cl x (ks.take n)
        match placed with
        | some d => d.placeOn cl t fuel (ks.drop n)
        | none => d

/-- A context's warps may be bound on a cluster (R374, R377, R417). -/
def mayBind (d : Dev) (cl : ClusterIx) (c : CtxIx) : Bool :=
  d.clusterOn cl && !((d.cluster cl).preempting.any fun p => p.1 == c) &&
    !(d.saved.any fun x => x.cluster == cl && x.ctx == c) && (d.context c).any fun x => !x.ended

/-- TASK_PLACEMENT: the capture of a ready task, then bind records for its next warps; nothing while an earlier store is
stalled. -/
def placeTask (d : Dev) (cl : ClusterIx) (t : Nat) (ks : List CoreIx) : Dev :=
  match d.task? t with
  | none => d
  | some x =>
    if x.home ≠ cl ∨ !d.mayBind cl x.ctx ∨ (d.cluster cl).binds ≠ [] then d
    else
      let d := if x.state = .readyToCapture then d.captureParam x else d
      if (d.task? t).any fun y => y.state == .ready || y.state == .running then
        (d.placeOn cl t (ks.length + 1) ks).flushBinds cl
      else d

/-! ### Dispatch -/

/-- The lowest free slot of a pipe (R163). -/
def lowestFree (d : Dev) (k : CoreIx) (p : Nat) : Option SlotIx :=
  (List.finRange 64).find? fun j => j.val % 8 == p && (d.slot k j).isNone

/-- Where a task's warps start (R161): ENTRY of its code object; free where the object is no longer loaded. -/
def entryPc (d : Dev) (t : Task) : DWord × Dev :=
  match (d.context t.ctx).bind fun x => x.objs.find? fun o => o.id == t.codeobj with
  | some o => (BitVec.ofNat 64 (canon57 (va57 (o.base + t.entry))), d)
  | none =>
    let (n, d) := d.drawn
    (Config.freeDWord n, d)

/-- The lanes with which a warp starts (R161). -/
def startMask (t : Task) (index : Nat) : Mask :=
  if index + 1 = t.warpCount ∧ t.tail ≠ 0 then BitVec.ofNat 32 (2 ^ t.tail - 1) else Mask.all

/-- A warp in its slot with the state of its start (R17, R163), in its band (R166); its window for plain reads opens (R255). -/
def startWarp (d : Dev) (k : CoreIx) (j : SlotIx) (t : Task) (r : BitVec 128) : Dev :=
  let index := fieldOf r 79 64
  let (pc, d) := d.entryPc t
  let (uid, d) := d.freshId
  let w := Warp.fresh t.ctx t.id index ⟨fieldOf r 90 89 % 4, Nat.mod_lt _ (by decide)⟩ pc (startMask t index)
    (BitVec.ofNat 64 t.param)
  let band : Option (BitVec 8) := if r.getLsbD 88 then some (r.extractLsb' 80 8) else none
  let d := (d.acquire k t.ctx .die).putWarp k j { w with
    uid := uid, hold := r.getLsbD 94, band := band, nextIssue := d.clock }
  match band with
  | some b => d.modBand (clusterOf k) b fun y => { y with
      members := y.members ++ [⟨k, j, uid⟩], coming := y.coming.erase k }
  | none => d

/-- A record has a reserved bit set (Table 6.5). -/
def recordBad (r : BitVec 128) : Bool := fieldOf r 111 108 != 0 || r.getLsbD 95 || fieldOf r 63 57 != 0

/-- The bits of each word of a fault record that the report of a bind record may use: those of Tables 16.3 to 16.5 and 5.1 that are
not reserved, without the words that only a handler's entry fills (R362 to R364). -/
def reportMask (i : Nat) : Word :=
  if i < 16 then (if i = 5 then 0x07FFFFFF else if i = 6 then 0x00FFFFFF else if i < 12 then 0xFFFFFFFF else 0)
  else if i < 144 then (if i % 4 = 2 then 0x1FFF else if i % 4 = 3 then 0 else 0xFFFFFFFF)
  else if i < 208 then (if i % 4 = 1 then 0x03FFFFFF else if i % 4 = 2 then 0 else 0xFFFFFFFF)
  else 0

/-- A malformed bind record is reported to the cluster's fault queue as a fault record (R163, R415): what its fields hold is not
given (log 114). -/
def reportBind (d : Dev) (cl : ClusterIx) (r : BitVec 128) : Dev :=
  { d with draw := d.draw + 256 }.sendRecord cl (r.extractLsb' 96 12)
    (Vector.ofFn fun i => Config.freeWord (d.draw + i.val) &&& reportMask i.val)

/-- BIND_RECORD_DISPATCH (R163): the head record, into the lowest free slot of its pipe; a malformed one is discarded and
reported. -/
def dispatch (d : Dev) (k : CoreIx) (j : SlotIx) : Dev :=
  match (d.core k).bindQ with
  | [] => d
  | r :: rest =>
    let pop (d : Dev) : Dev := (d.modCore k fun x => { x with bindQ := rest }).flushBinds (clusterOf k)
    if recordBad r then pop (d.reportBind (clusterOf k) r)
    else if (d.cluster (clusterOf k)).preempting.any fun p => p.1.toNat == fieldOf r 107 96 then d
    else if d.lowestFree k (fieldOf r 93 91) ≠ some j then d
    else match d.tasks.find? fun t => t.home == clusterOf k && t.handle.toNat == fieldOf r 127 112 with
      | none => pop d
      | some t => pop (d.startWarp k j t r)

/-- HOLD_RELEASE (R163): once every warp of the started gangs is placed, one release reaches every held warp of the task. -/
def releaseHold (d : Dev) (cl : ClusterIx) (t : Nat) : Dev :=
  if ((d.cluster cl).bands.any fun b => b.task == t && !b.coming.isEmpty) then d
  else match d.task? t with
    | none => d
    | some x =>
      if x.home ≠ cl then d
      else d.mapWarps fun _ _ w => some (if w.task = t then { w with hold := false } else w)

/-! ### Completion -/

/-- The status of a task (Table 6.6). -/
def taskStatus (t : Task) : Nat :=
  if t.launchErr then 5
  else if t.faulted then 4
  else if t.killed then 3
  else if t.inErr then (if t.errrun then 1 else 2)
  else 0

/-- Every warp of a task has ended and its slot is free, or none is to run. -/
def taskOver (t : Task) : Bool :=
  t.state == .completing || (t.state == .running && t.placed == t.warpCount && t.warpCount ≤ t.done)

/-- The completion record of a task, step 1 of R174: the device after it, and the address it waits for. -/
def completionRecord (d : Dev) (t : Task) : Dev × Option Nat :=
  if t.ctgt = 0 then (d, none)
  else
    let log (r : Nat) : Dev := d.logError t.ctx r 10 (BitVec.ofNat 64 t.ctgt) none
    if t.ctgt % 8 ≠ 0 then (log Reason.align, none)
    else match d.translate t.ctx t.ctgt .write with
      | .ok r => (d.sendTo r.key r.pa (recordBytes (BitVec.ofNat 32 t.cval) (taskStatus t)), none)
      | .error e => if e = Code.notres then (d, some t.ctgt) else (log (reasonOf t.ctgt e), none)

/-- TASK_COMPLETION (R174): record, decrement, release. -/
def completeTask (d : Dev) (cl : ClusterIx) (id : Nat) : Dev :=
  match d.task? id with
  | none => d
  | some t =>
    if t.home ≠ cl ∨ !taskOver t ∨ (t.waitVa ≠ 0 ∧ d.requested t.ctx t.waitVa) then d
    else match d.completionRecord t with
      | (d, some va) => (d.modTask id fun x => { x with waitVa := pageOf va, done := x.warpCount }).request t.ctx va
      | (d, none) =>
        let d := if t.cdep.getLsbD 15 then
            let r := depRef t.cdep
            d.sendDecs r.1 r.2 (taskStatus t != 0) 1 (some (384 + cl.val))
          else d
        let d := d.emit cl.val 0xFF 0xFF t.taskser [(3, BitVec.ofNat 128 (t.handle.toNat + taskStatus t * 2 ^ 16))]
        let d := d.dropScratch id
        { d with tasks := d.tasks.filter fun x => x.id != id }

/-- Firmware consumes an entry of a scheduler inbound queue (R177): of the completions, after which warps that have ended may
send theirs; room for the fault records that senders hold. -/
def serve (d : Dev) (cl : ClusterIx) (q : Fin 5) : Dev :=
  if q = 3 then
    let d := d.modCluster cl fun c => { c with counts := c.counts.set 3 (c.counts[3] - 1) }
    (d.warps.filter fun x => clusterOf x.1 == cl).foldl (fun d x => d.reap x.1 x.2.1) d
  else if q = 4 then
    match (d.cluster cl).faultHeld with
    | r :: rest =>
      if grants (d.cluster cl) 4 0 then d.modCluster cl fun c => { c with faultQ := c.faultQ ++ [r], faultHeld := rest } else d
    | [] => d
  else d

/-! ### Work donation -/

/-- A cluster's ready list is empty and it has STEALTHR free slots (R180); a task with a warp bound is no longer in that list, one
still to be captured is, DEDUCED (log 110). -/
def idle (d : Dev) (cl : ClusterIx) : Bool :=
  !(d.tasks.any fun t => t.home == cl && (t.state == .ready || t.state == .readyToCapture)) &&
    (d.cluster cl).stealThr.toNat ≤ d.freeSlots cl

/-- The next victim of a cluster (R180). -/
def nextVictim (d : Dev) (cl : ClusterIx) : ClusterIx :=
  ⟨(cl.val + 1 + (d.cluster cl).stealNext.val) % 8, Nat.mod_lt _ (by decide)⟩

/-- STEAL_REQUEST (R180): five entries reserved for each task, then the request; one that the victim's queue does not grant is
answered at once with 0 (R177). -/
def stealAsk (d : Dev) (thief victim : ClusterIx) (want : Nat) : Dev :=
  let c := d.cluster thief
  if !d.clusterOn thief || !d.idle thief || c.stealOut.isSome || want == 0 || 4 < want ||
      victim != d.nextVictim thief || !grantsAll c 1 (5 * want) then d
  else
    let n := d.draw
    let any := Config.freeBit (n + 1)
    let msg : StealMsg := {
      tag := (Config.freeWord n).setWidth 16, thief := thief, anyCtx := any
      ctx := if any then 0 else (Config.freeWord (n + 2)).setWidth 12, want := want }
    let d := { d with draw := n + 3 }.modCluster thief fun c => { c with
      counts := c.counts.set 1 (c.counts[1] + 5 * want), stealOut := some msg
      stealNext := ⟨(c.stealNext.val + 1) % 7, Nat.mod_lt _ (by decide)⟩ }
    if grants (d.cluster victim) 2 0 then
      d.modCluster victim fun c => { c with stealIn := c.stealIn ++ [msg], counts := c.counts.set 2 (c.counts[2] + 1) }
    else d.modCluster thief fun c => { c with replyIn := some (msg.tag, 0) }

/-- A victim may donate a task to the asker (R181). -/
def donatable (d : Dev) (victim : ClusterIx) (m : StealMsg) (t : Task) : Bool :=
  t.home == victim && t.state == .ready && t.placed == 0 && t.aborts == 0 && !t.nosteal &&
    (t.clmask == 0 || t.clmask.testBit m.thief.val) &&
    !(t.gang && d.freeSlots m.thief < min t.bandsz t.warpCount) && (m.anyCtx || t.ctx == m.ctx)

/-- One task goes before another (R181). -/
def outranks (a b : Task) : Bool := b.prio < a.prio || (a.prio == b.prio && a.readySince < b.readySince)

/-- A choice of tasks that R181 allows: distinct, each donatable, none outranked by a later one or by one left out. -/
def goodChoice (d : Dev) (victim : ClusterIx) (m : StealMsg) : List Task → List Task → Bool
  | _, [] => true
  | taken, t :: rest =>
    d.donatable victim m t && !(taken.any fun x => x.id == t.id) &&
      !(d.tasks.any fun x => d.donatable victim m x && outranks x t && !(taken.any fun y => y.id == x.id)) &&
      d.goodChoice victim m (t :: taken) rest

/-- The soredium packet of a task (R182, Table 6.11): its TCB image with the carriage word, and its parameter copy, PARAMLEN
bytes rounded up to a multiple of 64. -/
def soredium (d : Dev) (victim : ClusterIx) (m : StealMsg) (seq : Nat) (t : Task) : SorediumPacket :=
  { task := t.id
    image := BitVec.ofNat 512 (t.tcb.toNat % 2 ^ 448 +
      2 ^ 448 * (m.tag.toNat * 2 ^ 32 + seq * 2 ^ 16 + victim.val * 2 ^ 12 + t.ctx.toNat))
    param := d.rawBytes (paramPa t.ctx t.param) ((t.paramlen + 63) / 64 * 64) }

/-- STEAL_REQUEST_RECEIVE (R181): the chosen tasks leave the ready list in their packets, and the reply follows. -/
def stealAnswer (d : Dev) (victim : ClusterIx) (ids : List Nat) : Dev :=
  match (d.cluster victim).stealIn with
  | [] => d
  | m :: rest =>
    let ts := ids.filterMap d.task?
    if ts.length ≠ ids.length ∨ m.want < ts.length ∨ !d.goodChoice victim m [] ts then d
    else
      let d := d.modCluster victim fun c => { c with stealIn := rest, counts := c.counts.set 2 (c.counts[2] - 1) }
      let packets := ts.zipIdx.map fun t => d.soredium victim m t.2 t.1
      let d := ts.foldl (fun d t => d.modTask t.id fun x => { x with state := .donated }) d
      d.modCluster m.thief fun c => { c with packetsIn := c.packetsIn ++ packets, replyIn := some (m.tag, ids.length) }

/-- Flits of a soredium packet, of 64 bytes (R182). -/
def flits (p : SorediumPacket) : Nat := 1 + p.param.length / 64

/-- SOREDIUM_PACKET (R182): the task is ready at the thief, with the TCB and the parameters that the packet carries; the packets of
a victim arrive in the order sent (R239). -/
def stealArrive (d : Dev) (thief : ClusterIx) (i : Nat) : Dev :=
  match if i = 0 then (d.cluster thief).packetsIn[i]? else none with
  | none => d
  | some p =>
    let (h, d) := d.freeHandle thief
    let d := d.modCluster thief fun c => { c with
      packetsIn := removeAt i c.packetsIn, counts := c.counts.set 1 (c.counts[1] - flits p) }
    let d := match d.task? p.task with
      | some t => { d with mem := Sparse.setList (0 : Byte) (paramPa t.ctx t.param) p.param d.mem }
      | none => d
    d.modTask p.task fun t => { t with
      tcb := BitVec.ofNat 512 (p.image.toNat % 2 ^ 448), home := thief, handle := h, state := .ready, readySince := d.clock }

/-- STEAL_REPLY (R181): once its packets are in, the entries that none used are released. -/
def stealEnd (d : Dev) (thief : ClusterIx) : Dev :=
  let c := d.cluster thief
  match c.replyIn, c.packetsIn with
  | some _, [] => d.modCluster thief fun c => { c with replyIn := none, stealOut := none, counts := c.counts.set 1 0 }
  | _, _ => d

end Dev

/-! ### The steps -/

/-- DEPENDENCE_DECREMENT (R171): the i-th decrement on its way to a counter of a cluster reaches it, unless an earlier one of the
same source is on its way (R197, R239). -/
def execDependenceDecrement (cluster : ClusterIx) (i : Nat) (s : State) : Host.Outcome State Fault Refusal :=
  agent (fun d =>
    match (d.cluster cluster).decs[i]? with
    | none => d
    | some x =>
      if ((d.cluster cluster).decs.take i).any fun y => y.by_.isSome && y.by_ == x.by_ then d
      else (d.modCluster cluster fun c => { c with decs := removeAt i c.decs }).depDecs cluster x.index x.err x.times) s

/-- TASK_PLACEMENT (R160, R162). -/
def execTaskPlacement (cluster : ClusterIx) (task : Nat) (cores : List (Fin 48)) (s : State) :
    Host.Outcome State Fault Refusal :=
  agent (fun d => d.placeTask cluster task (cores.map (coreOf cluster))) s

/-- BIND_RECORD_DISPATCH (R163). -/
def execBindRecordDispatch (core : CoreIx) (slot : SlotIx) (s : State) : Host.Outcome State Fault Refusal :=
  agent (fun d => d.dispatch core slot) s

/-- HOLD_RELEASE (R163). -/
def execHoldRelease (cluster : ClusterIx) (task : Nat) (s : State) : Host.Outcome State Fault Refusal :=
  agent (fun d => d.releaseHold cluster task) s

/-- TASK_COMPLETION (R174). -/
def execTaskCompletion (cluster : ClusterIx) (task : Nat) (s : State) : Host.Outcome State Fault Refusal :=
  agent (fun d => d.completeTask cluster task) s

/-- STEAL_REQUEST (R180). -/
def execStealRequest (thief victim : ClusterIx) (want : Nat) (s : State) : Host.Outcome State Fault Refusal :=
  agent (fun d => d.stealAsk thief victim want) s

/-- STEAL_REQUEST_RECEIVE (R181). -/
def execStealRequestReceive (victim : ClusterIx) (tasks : List Nat) (s : State) : Host.Outcome State Fault Refusal :=
  agent (fun d => d.stealAnswer victim tasks) s

/-- SOREDIUM_PACKET (R182). -/
def execSorediumPacket (thief : ClusterIx) (i : Nat) (s : State) : Host.Outcome State Fault Refusal :=
  agent (fun d => d.stealArrive thief i) s

/-- STEAL_REPLY (R181). -/
def execStealReply (thief : ClusterIx) (s : State) : Host.Outcome State Fault Refusal :=
  agent (fun d => d.stealEnd thief) s

end Sys2Proof.Machine
end

