-- ==== Sys2Proof/Machine/Paging.lean ====
section
/-! DEFINITION. Fills of the instruction caches (R132, R133), page walks (R245, R246), residency (R248, R361, R368), delivery
of fault records and their answers (R368, R415), and uncorrectable errors (R237). -/

namespace Sys2Proof.Machine

namespace Dev

/-! ### Instruction caches -/

/-- The set of a line (R132). -/
def lineSet (va : Nat) : Nat := bitsN va 13 8

/-- A line enters an instruction cache: below the lines in use, above those filled before it and not used since; the last
line of a full set leaves (R132). -/
def putLine (ls : List ILine) (l : ILine) : List ILine :=
  let same (m : ILine) : Bool := lineSet m.va == lineSet l.va
  let ls := ls.filter fun m => !(m.ctx == l.ctx && m.va == l.va)
  let set := ls.filter same
  let ls := match set.getLast? with
    | some v => if 4 ≤ set.length then ls.filter (· != v) else ls
    | none => ls
  (ls.filter (·.used)) ++ l :: ls.filter fun m => !m.used

/-- Warps that wait for a line go on (R133). -/
def wakeFill (d : Dev) (k : CoreIx) (c : CtxIx) (va : Nat) : Dev :=
  d.modCore k fun x => { x with slots := x.slots.map fun s => s.map fun w =>
    if w.ctx == c && w.wait == some .fill && va57 w.pc.toNat / 256 * 256 == va then { w with wait := none } else w }

/-- IFETCH_FILL_COMPLETE (R133): the line of a fill slot enters the cache, unless its page can no longer be fetched; the first
demand that waits takes the slot. -/
def fillDone (d : Dev) (k : CoreIx) (i : Nat) : Dev :=
  match ((d.core k).fills.take 8)[i]? with
  | none => d
  | some f =>
    let d := d.modCore k fun x => { x with fills := removeAt i x.fills }
    let here := d.via k
    let d := match here.fetchPage f.ctx (canon57 f.va) with
      | .error _ => d
      | .ok _ =>
        let l : ILine := {
          ctx := f.ctx, va := f.va, used := false, words := here.codeBytes f.ctx (canon57 f.va) 256
          frame := ((d.context f.ctx).bind fun x => here.frameAt f.ctx x (canon57 f.va)).getD 0 }
        d.modCore k fun x => { x with icache := putLine x.icache l }
    d.wakeFill k f.ctx f.va

/-! ### Walks -/

/-- A PTE of a walk's leaf table: as the walk has read it, else as it stands (R245). -/
def walkRead (d : Dev) (got : Sparse DWord) (table i : Nat) : Nat :=
  match got.find? i with
  | some e => e.toNat
  | none => d.rawNat (table + 8 * i) 8

/-- The i-th walk under way reads the PTE of one page of its span (R245). -/
def walkStep (d : Dev) (i page : Nat) : Dev :=
  match d.walks[i]? with
  | none => d
  | some w =>
    match (d.context w.ctx).bind fun x => d.leafTable x w.va with
    | none => d
    | some t =>
      let read : Nat × DWord := (page, BitVec.ofNat 64 (d.rawNat (t + 8 * page) 8))
      if 64 ≤ i ∨ 256 ≤ page ∨ (w.got.any fun e => e.1 == page) then d
      else { d with walks := modifyAt (fun y => { y with got := y.got ++ [read] }) i d.walks }

/-- The entry that a walk for a page makes, with what it has read already (R245); none where the page is not resident or does not
translate (R246). -/
def walkEntry (d : Dev) (c : CtxIx) (x : Context) (va : Nat) (got : Sparse DWord) : Option TlbEntry :=
  match d.leafTable x va with
  | none => none
  | some t =>
    let pte (i : Nat) : Nat := d.walkRead got t i
    let j := bitsN va 23 16
    let e := pte j
    if !(pteOk x e && pteRes e) then none
    else
      let good (i : Nat) : Bool :=
        let y := pte i
        pteOk x y && pteRes y && pteAttr y == pteAttr e && (ptePfn y : Int) == (ptePfn e : Int) + i - j
      some {
        ctx := c, span := va / 2 ^ 24, attr := BitVec.ofNat 64 (pteAttr e), base := (ptePfn e : Int) - j
        mask := (List.range 256).foldl (fun m i => if good i then m ||| (1#256 <<< i) else m) 0 }

/-- The warps that wait for a walk of a span come to their instructions again (R246). -/
def walkOver (d : Dev) (c : CtxIx) (span : Nat) : Dev :=
  d.mapWarps fun _ _ w => some (if w.ctx = c ∧ w.wait = some .walk then { w with walked := span :: w.walked } else w)

/-- TLB_WALK_COMPLETE (R246): one of the 64 walks under way ends; an entry that it displaces is a free choice (log 9). -/
def walkDone (d : Dev) (i : Nat) : Dev :=
  match d.walks[i]? with
  | none => d
  | some w =>
    if 64 ≤ i then d
    else
      let d := { d with walks := removeAt i d.walks }.walkOver w.ctx (w.va / 2 ^ 24)
      match (d.context w.ctx).bind fun x => d.walkEntry w.ctx x w.va w.got with
      | none => d
      | some e =>
        let (n, d) := d.drawn
        { d with tlb := tlbPut 24576 n e d.tlb }

/-! ### Residency -/

/-- A submission that its LAUNCH packet reports (R159, R413). -/
def runSubmission (d : Dev) (s : Submission) : Dev :=
  let (d', refused) := d.submit s
  match s.packet with
  | none => d'
  | some (q, n) =>
    if refused then
      d'.completePacket q n (if d.readTcb s.ctx s.va = .failed Reason.link then PktStatus.link else PktStatus.badpkt)
    else if d'.submissions.any fun y => y.packet == s.packet then d'
    else d'.completePacket q n PktStatus.ok

/-- The pages whose absence a parked warp's record names. -/
def recordPages (r : Vector Word 256) : List Nat :=
  let at_ (n : Nat) : Nat := ((r[n]?).getD 0).toNat
  if (r[5]).getLsbD 24 then [pageOf (at_ 10 + at_ 11 * 2 ^ 32)]
  else (List.range 32).filterMap fun l =>
    let cause := at_ (18 + 4 * l) % 2 ^ 8
    if codeRank cause = 0 then some (pageOf (at_ (16 + 4 * l) + at_ (17 + 4 * l) * 2 ^ 32)) else none

/-- A parked warp that waits for a page, and for no other page requested (R368). -/
def resumesAt (d : Dev) (c : CtxIx) (page : Nat) (w : Warp) : Bool :=
  w.ctx == c && w.wait == some .resident &&
    match w.nested.or w.record with
    | some r => (recordPages r).contains page && !((recordPages r).any (d.requested c))
    | none => false

/-- A parked warp goes on. -/
def resumeAt (d : Dev) (k : CoreIx) (j : SlotIx) (skip : Mask) : Dev :=
  (d.modWarp k j fun w => resumeParked w skip).closeWarp k j

/-- Every wait on a page resumes (R248), those of warps that pre-emption has saved too. -/
def resolve (d : Dev) (c : CtxIx) (page : Nat) : Dev :=
  let d := { d with requests := d.requests.filter fun r => !(r.ctx == c && r.va == page) }
  let wake (t : Task) : Task :=
    if t.ctx ≠ c ∨ t.waitVa ≠ page then t
    else match t.state with
      | .aborted => { t with state := .ready, waitVa := 0, readySince := d.clock }
      | .captureWait => { t with state := .readyToCapture, waitVa := 0 }
      | _ => { t with waitVa := 0 }
  let d := { d with tasks := d.tasks.map wake }
  let due := d.submissions.filter fun s => s.ctx == c && pageOf s.va == page
  let d := { d with submissions := d.submissions.filter fun s => !(s.ctx == c && pageOf s.va == page) }
  let d := due.foldl runSubmission d
  let woken := d.warps.filter fun x => d.resumesAt c page x.2.2
  let d' := d.mapSaved fun _ _ w => if d.resumesAt c page w then resumeParked w 0 else w
  woken.foldl (fun d x => d.resumeAt x.1 x.2.1 0) d'

/-- Makes a page resident in the page table, where its entry is valid and well-formed. -/
def makeResident (d : Dev) (x : Context) (page : Nat) : Dev :=
  match d.walkPte x page, d.pteAddr x page with
  | some e, some a => if pteRes e then d else d.putRaw a (leBytes 8 (e + 2))
  | _, _ => d

/-- PAGE_RESIDENT (R248): Rhizome, as the resolver of the i-th request, makes its pages resident. -/
def rhizomeResolve (d : Dev) (i : Nat) : Dev :=
  match d.requests[i]? with
  | none => d
  | some r =>
    match d.context r.ctx with
    | none => { d with requests := removeAt i d.requests }
    | some x => ((r.va :: r.pages).eraseDups.foldl (fun d p => d.makeResident x p) d).resolve r.ctx r.va

/-! ### Fault rings -/

/-- A physical address of the device's own that it can reach. -/
def reachable (d : Dev) (pa : Nat) : Bool := !((portOf pa).any fun p => !(d.port p).up)

/-- A record has reached the host: its parked warp is forwarded (R368). -/
def markForwarded (d : Dev) (r : Vector Word 256) : Dev :=
  let mark (w : Warp) : Warp :=
    if w.status == .parked && w.wait != some Wait.resident && w.nested.or w.record == some r
    then { w with status := .forwarded } else w
  (d.mapWarps fun _ _ w => some (mark w)).mapSaved fun _ _ w => mark w

/-- Records that their senders hold enter the fault queue as far as the pool grants them entries (R177). -/
def takeHeld (d : Dev) (cl : ClusterIx) : Dev :=
  match (d.cluster cl).faultHeld with
  | [] => d
  | r :: rest =>
    if grants (d.cluster cl) 4 0 then d.modCluster cl fun c => { c with faultQ := c.faultQ ++ [r], faultHeld := rest } else d

/-- FAULT_RECORD_DELIVERY (R415): the head of a cluster's fault queue, once the partition's ring has room; Rhizome may be the
resolver of a class-A record itself (R248). -/
def deliverRecord (d : Dev) (cl : ClusterIx) : Dev :=
  match (d.cluster cl).faultQ with
  | [] => d
  | (f, r) :: rest =>
    let taken := (d.modCluster cl fun c => { c with faultQ := rest }).takeHeld cl
    let cls := (r[5]).toNat / 2 ^ 8 % 2 ^ 8
    let (n, taken) := if cls = 0 then taken.drawn else (0, taken)
    if cls = 0 ∧ Config.freeBit n then taken
    else
      let base := (d.fn f).fltbase.toNat
      let logn := (d.fn f).fltctl.toNat
      if logn < 2 ∨ 12 < logn ∨ !d.reachable base ∨ !d.fwSent base 16 then d
      else
        let taken := match portOf base with
          | some p => taken.drainPort p
          | none => taken
        let write := taken.rawNat base 8
        let read := taken.rawNat (base + 8) 8
        let entry := base + 1024 + 1024 * (write % 2 ^ logn)
        if 2 ^ logn ≤ (write + 2 ^ 64 - read) % 2 ^ 64 ∨ !d.fwSent entry 1024 then d
        else
          let bytes := r.toList.flatMap fun w => leBytes 4 w.toNat
          let d := (taken.putRaw entry bytes).putRaw base
            (leBytes 8 ((write + 1) % 2 ^ 64))
          d.markForwarded r

/-- An answer names this warp, in its slot, parked and forwarded in one of the function's contexts (R415). -/
def answers (d : Dev) (f : FnIx) (a : AnswerTo) (k : CoreIx) (j : SlotIx) (w : Warp) : Bool :=
  (clusterOf k).val == a.cluster.toNat && coreInCluster k == a.core.toNat && j.val == a.slot.toNat &&
    w.status == .forwarded && w.ctx == a.ctx && (d.context w.ctx).isSome && d.partOf w.ctx == f &&
    (d.task? w.task).any fun t => t.handle == a.taskh

/-- The warp that an answer names, where it stands in its slot. -/
def answered (d : Dev) (f : FnIx) (a : AnswerTo) : Option (CoreIx × SlotIx) :=
  if h : a.core.toNat < 48 then
    let k := coreOf ⟨a.cluster.toNat, a.cluster.isLt⟩ ⟨a.core.toNat, h⟩
    let j : SlotIx := ⟨a.slot.toNat, a.slot.isLt⟩
    if (d.slot k j).any (d.answers f a k j) then some (k, j) else none
  else none

/-- RESUME and SKIP of the host (R368, R369), to a warp that pre-emption has saved too. -/
def answerGo (d : Dev) (f : FnIx) (a : AnswerTo) (skip : Mask) : Dev :=
  match d.answered f a with
  | some (k, j) => d.resumeAt k j skip
  | none => d.mapSaved fun k j w => if d.answers f a k j w then resumeParked w skip else w

/-- A saved warp is killed: it ends at its restoration (R367). -/
def killSaved (d : Dev) (sel : CoreIx → SlotIx → Warp → Bool) : Dev :=
  let hit := d.saved.flatMap fun s => s.cores.flatMap fun c => (c.warps.filter fun w => sel c.core w.1 w.2).map fun w => w.2.task
  let cut (c : SavedCore) : SavedCore :=
    let own (l : L1Line) : Bool := c.warps.any fun w => sel c.core w.1 w.2 && l.owner == (w.1, w.2.task)
    { c with l1 := c.l1.filter fun l => !own l }
  let dead (w : Warp) : Warp := { w with
    status := .running, wait := none, stores := w.stores.map fun p => { p with lines := [] }, m := 0, stack := [], record := none
    nested := none, inHandler := false }
  let d : Dev := { d with saved := d.saved.map fun (s : Saved) => { s with cores := s.cores.map cut } }
  let d := d.mapSaved fun k j w => if sel k j w then dead w else w
  hit.foldl (fun d t => d.modTask t fun x => { x with killed := true }) d

/-- KILL of the host. -/
def answerKill (d : Dev) (f : FnIx) (a : AnswerTo) : Dev :=
  match d.answered f a with
  | some (k, j) => d.kill k j
  | none => d.killSaved (d.answers f a)

/-! ### Errors of the memory -/

/-- A notice to a partition's fault ring that names a physical address (R237, R405). -/
def notice (code : Nat) (pa : Nat) : Vector Word 256 :=
  Vector.ofFn fun i =>
    if i.val = 4 then 1
    else if i.val = 5 then BitVec.ofNat 32 (code + 2 * 2 ^ 8)
    else if i.val = 16 then BitVec.ofNat 32 pa
    else if i.val = 17 then BitVec.ofNat 32 (pa / 2 ^ 32)
    else if i.val = 18 then BitVec.ofNat 32 code
    else 0

/-- Sends a notice through the fault queue of cluster 0. -/
def sendNotice (d : Dev) (f : FnIx) (code pa : Nat) : Dev := d.modCluster 0 fun c => putFault c (f, notice code pa)

/-- A context's page tables name a frame. -/
def mapsFrame (d : Dev) (x : Context) (pfn : Nat) : Bool :=
  let next (t n : Nat) : List Nat := (List.range n).filterMap fun i => dirNext (d.rawNat (t + 8 * i) 8)
  let leaves := (((next x.ptroot 512).flatMap fun t => next t 256).flatMap fun t => next t 256).flatMap fun t => next t 256
  leaves.any fun t => (List.range 256).any fun i =>
    let e := d.rawNat (t + 8 * i) 8
    pteOk x e && (ptePfn e == pfn || (pteDb e && ptePfn e + 1 == pfn))

/-- The live contexts that may own the data at a physical address: those whose tables name its frame, else those that may use
the key of its line. -/
def owners (d : Dev) (pa : Nat) : List CtxIx :=
  let live := d.contexts.filter fun e => !e.2.ended
  let number (e : Nat × Context) : CtxIx := BitVec.ofNat 12 e.1
  let mapped := live.filter fun e => d.mapsFrame e.2 (pa / 0x10000)
  if !mapped.isEmpty then mapped.map number
  else (live.filter fun e => (List.range 1024).any fun n =>
    e.2.keyLo ≤ n && n ≤ e.2.keyHi && d.material (BitVec.ofNat 10 n) == d.lineMaterial pa).map number

/-- Ends one of some contexts with ECC, which one is a free choice; the error is reported with its physical address and logged
(R237). -/
def eccEnd (d : Dev) (pa : Nat) (log : CtxIx → Dev → Dev) : List CtxIx → Dev
  | [] => d.sendNotice 0 Code.ecc pa
  | c :: cs =>
    let (n, d) := d.drawn
    let c := ((c :: cs)[Config.freeNat n % (cs.length + 1)]?).getD c
    (log c ((d.traceEnd Code.ecc).sendNotice (d.partOf c) Code.ecc pa)).endContext c

/-- The entry of an error that no command meets, in a context's log. -/
def eccLog (pa : Nat) (c : CtxIx) (d : Dev) : Dev := d.logError c Reason.ecc 0 (BitVec.ofNat 64 pa) none

/-- ECC_ERROR (R237): the context that owns the data ends. -/
def eccError (d : Dev) (pa : Nat) : Dev := d.eccEnd pa (eccLog pa) (d.owners pa)

end Dev

/-! ### The steps -/

/-- IFETCH_FILL_COMPLETE (R133). -/
def execIfetchFillComplete (core : CoreIx) (i : Nat) (s : State) : Host.Outcome State Fault Refusal :=
  agent (fun d => d.fillDone core i) s

/-- TLB_WALK_COMPLETE (R246). -/
def execTlbWalkComplete (i : Nat) (s : State) : Host.Outcome State Fault Refusal := agent (fun d => d.walkDone i) s

/-- PAGE_RESIDENT (R248). -/
def execPageResident (i : Nat) (s : State) : Host.Outcome State Fault Refusal := agent (fun d => d.rhizomeResolve i) s

/-- FAULT_RECORD_DELIVERY (R415). -/
def execFaultRecordDelivery (cluster : ClusterIx) (s : State) : Host.Outcome State Fault Refusal :=
  agent (fun d => d.deliverRecord cluster) s

/-- FANSWER with RESUME (R415). -/
def execFanswerResume (fn : FnIx) (who : AnswerTo) (s : State) : Host.Outcome State Fault Refusal :=
  hostStep (fun d => d.answerGo fn who 0) s

/-- FANSWER with SKIP (R415). -/
def execFanswerSkip (fn : FnIx) (who : AnswerTo) (hskip : Mask) (s : State) : Host.Outcome State Fault Refusal :=
  hostStep (fun d => d.answerGo fn who hskip) s

/-- FANSWER with KILL (R415). -/
def execFanswerKill (fn : FnIx) (who : AnswerTo) (s : State) : Host.Outcome State Fault Refusal :=
  hostStep (fun d => d.answerKill fn who) s

/-- ECC_ERROR (R237). -/
def execEccError (pa : Nat) (s : State) : Host.Outcome State Fault Refusal := agent (fun d => d.eccError pa) s

end Sys2Proof.Machine
end

