-- ==== Sys2Proof/Machine/Debug.lean ====
section
/-! DEFINITION. Safe points (R34, R35), halts and their records (R378, R382 to R385), the debug control register (R381, R383,
R415), PC samples (R391), counter pages (R393, R394), and the PTP clock (R392). -/

namespace Sys2Proof.Machine

/-! ### Safe points -/

/-- A live-map entry that marks everything live (R443). -/
def allLive : BitVec 128 := BitVec.ofNat 128 (2 ^ 104 - 1)

namespace Dev

/-- The live-map entry of a safe point (R34, R443). -/
def liveAt (d : Dev) (c : CtxIx) (pc : Nat) : BitVec 128 :=
  match d.execAt c pc, d.context c with
  | some p, some x =>
    if !p.objLoaded then allLive
    else match x.objs.find? fun o => o.id == p.codeId with
      | some o => (o.live[d.ordinalAt c pc]?).getD allLive
      | none => allLive
  | _, _ => allLive

end Dev

/-- Registers that are not live hold zero, tagged UNDEF (R35); so does limb state that is not live. -/
def Warp.keepLive (w : Warp) (m : BitVec 128) : Warp :=
  { w with
    v := Vector.ofFn fun i => if m.getLsbD i.val then w.v[i.val] else Vector.replicate 32 0
    vt := Vector.ofFn fun i => if m.getLsbD i.val then w.vt[i.val] else .undef
    w := Vector.ofFn fun i => if m.getLsbD (64 + i.val) then w.w[i.val] else 0
    wt := Vector.ofFn fun i => if m.getLsbD (64 + i.val) then w.wt[i.val] else .undef
    p := Vector.ofFn fun i => if m.getLsbD (96 + i.val) then w.p[i.val] else 0
    chain := if m.getLsbD 103 then w.chain else none
    carry := if m.getLsbD 103 then w.carry else 0 }

/-! ### The image of a halt (R384) -/

/-- The image of the live registers: each value, a v register's lane by lane, and then the tag's byte; `t` is the byte that
follows a predicate and the limb state, which have no tag. -/
def haltImage (w : Warp) (m : BitVec 128) (t : Byte) : List Byte :=
  let word (x : Word) : List Byte := leBytes 4 x.toNat
  let tag (x : Tag) : List Byte := [BitVec.ofNat 8 x.code]
  ((List.finRange 64).flatMap fun i =>
      if m.getLsbD i.val then (w.v[i.val]).toList.flatMap word ++ tag w.vt[i.val] else []) ++
    ((List.finRange 32).flatMap fun i => if m.getLsbD (64 + i.val) then word w.w[i.val] ++ tag w.wt[i.val] else []) ++
    ((List.finRange 7).flatMap fun i => if m.getLsbD (96 + i.val) then word w.p[i.val] ++ [t] else []) ++
    (if m.getLsbD 103 then word (Dev.limbsWord w) ++ [t] ++ word w.carry ++ [t] else [])

/-- Bytes of an image. -/
def imageBytes (m : BitVec 128) : Nat :=
  129 * popCountN (fieldOf m 63 0) + 5 * popCountN (fieldOf m 102 64) + (if m.getLsbD 103 then 10 else 0)
where
  popCountN (n : Nat) : Nat := ((List.range 64).filter n.testBit).length

/-- The limb-chain binding that a word of %limbs stands for. -/
def chainOfWord (x : Word) : Option Chain :=
  if !x.getLsbD 16 then none
  else
    let seg := fieldOf x 15 13
    if h : seg < 5 then
      some { seg := ⟨seg, h⟩, first := ⟨fieldOf x 5 0 % 64, Nat.mod_lt _ (by decide)⟩, count := fieldOf x 12 6 }
    else none

/-- The next value of an image, if the host has changed it, and the bytes after it: each byte as it was written and as it is. -/
def takeWord (bs : List (Byte × Byte)) : Option Word × List (Byte × Byte) :=
  let b := bs.take 4
  (if b.all fun x => x.1 == x.2 then none else some (BitVec.ofNat 32 (leNat (b.map (·.2)))), bs.drop 4)

/-- The tag's byte, if the host has changed it. -/
def takeTag (bs : List (Byte × Byte)) : Option Tag × List (Byte × Byte) :=
  let b := bs.take 1
  (if b.all fun x => x.1 == x.2 then none else some ((Tag.ofCode (leNat (b.map (·.2)))).getD .undef), bs.drop 1)

/-- A register's lanes from an image. -/
def takeLanes : Nat → List (Byte × Byte) → List (Option Word) × List (Byte × Byte)
  | 0, bs => ([], bs)
  | n + 1, bs =>
    let (x, bs) := takeWord bs
    let (xs, bs) := takeLanes n bs
    (x :: xs, bs)

/-- The warp with the values that the host has changed in its image, the registers that are not live as R35 leaves them
(R384, log 66). -/
def loadImage (w : Warp) (m : BitVec 128) (bs : List (Byte × Byte)) : Warp :=
  let w := w.keepLive m
  let (w, bs) := (List.finRange 64).foldl (fun (s : Warp × List (Byte × Byte)) i =>
    if !m.getLsbD i.val then s
    else
      let (xs, bs) := takeLanes 32 s.2
      let (t, bs) := takeTag bs
      ({ s.1 with
        v := s.1.v.set i.val (Vector.ofFn fun l => ((xs[l.val]?).getD none).getD s.1.v[i.val][l.val])
        vt := s.1.vt.set i.val (t.getD s.1.vt[i.val]) }, bs)) (w, bs)
  let (w, bs) := (List.finRange 32).foldl (fun (s : Warp × List (Byte × Byte)) i =>
    if !m.getLsbD (64 + i.val) then s
    else
      let (x, bs) := takeWord s.2
      let (t, bs) := takeTag bs
      ({ s.1 with w := s.1.w.set i.val (x.getD s.1.w[i.val]), wt := s.1.wt.set i.val (t.getD s.1.wt[i.val]) }, bs)) (w, bs)
  let (w, bs) := (List.finRange 7).foldl (fun (s : Warp × List (Byte × Byte)) i =>
    if !m.getLsbD (96 + i.val) then s
    else
      let (x, bs) := takeWord s.2
      ({ s.1 with p := s.1.p.set i.val (x.getD s.1.p[i.val]) }, bs.drop 1)) (w, bs)
  if !m.getLsbD 103 then w
  else
    let (l, bs) := takeWord bs
    let (c, _) := takeWord (bs.drop 1)
    { w with chain := (l.map chainOfWord).getD w.chain, carry := c.getD w.carry }

/-! ### Halting -/

namespace Dev

/-- The enabled breakpoint entry that a warp's next safe point matches (R381). -/
def matchedBp (d : Dev) (w : Warp) : Option Nat :=
  match d.execAt w.ctx w.pc.toNat, d.context w.ctx with
  | some p, some x => x.bps.findIdx? fun b =>
      b.extractLsb' 32 32 == p.codeId && b.getLsbD 20 && fieldOf b 31 21 == 0 &&
        fieldOf b 19 0 == d.ordinalAt w.ctx w.pc.toNat
  | _, _ => none

/-- The cause of a halt, the lowest code of those that hold (Table 17.1). -/
def haltCause (d : Dev) (w : Warp) : Option Nat :=
  if w.haltPend then some 0 else if (d.matchedBp w).isSome then some 1 else if w.stepPend then some 2 else none

/-- A warp is about to issue a safe point (R34, R373). -/
def atSafePoint (d : Dev) (k : CoreIx) (w : Warp) : Bool :=
  w.status == .running && !w.hold && !heldAt w.wait && !w.pass &&
    match d.fetch k w with
    | .word i => (ctlOf i).any Ctl.stop
    | _ => false

/-- The halt record (Table 17.1). -/
def haltRecord (d : Dev) (k : CoreIx) (j : SlotIx) (w : Warp) (cause : Nat) : List Byte :=
  let place := d.codePlace w.ctx w.pc.toNat
  let t := d.task? w.task
  let handle := (t.map fun t => t.handle.toNat).getD 0
  let ser := (t.map fun t => t.taskser.toNat).getD 0
  let ncode := if w.inHandler then ((w.record.map fun r => (r[5]).toNat % 2 ^ 8).getD 0) else 0
  leBytes 8 place.1.toNat ++ leBytes 4 (d.ordinalAt w.ctx w.pc.toNat) ++ leBytes 8 0 ++
    leBytes 2 (if cause = 1 then (d.matchedBp w).getD 0xFFFF else 0xFFFF) ++
    [BitVec.ofNat 8 (clusterOf k).val, BitVec.ofNat 8 (coreInCluster k), BitVec.ofNat 8 j.val, BitVec.ofNat 8 cause,
      if w.inHandler then 3 else 0, BitVec.ofNat 8 ncode] ++
    leBytes 2 handle ++ leBytes 2 w.index ++ leBytes 4 ser ++ leBytes 4 w.m.toNat ++ leBytes 4 w.x.toNat ++ leBytes 12 0 ++
    leBytes 8 d.ptpNs

/-- Bytes that the debug area of a context holds for its halted warps, those saved by pre-emption included: start and length. -/
def haltPlaces (d : Dev) (c : CtxIx) : List (Nat × Nat) :=
  let all := d.warps.map (·.2.2) ++ d.saved.flatMap fun s => s.cores.flatMap fun k => k.warps.map (·.2)
  (all.filter fun w => w.ctx == c).filterMap fun w =>
    w.haltAt.map fun a => (a.1, 64 + imageBytes (d.liveAt c w.pc.toNat))

/-- The place of a new halt record in the debug area: a free choice among the 64-byte aligned places where the record and its
image fit beside those of the other halted warps, or among all aligned places when none does (R384 gives no place). -/
def haltPlace (d : Dev) (x : Context) (c : CtxIx) (bytes : Nat) : Nat × Dev :=
  let (n, d) := d.drawn
  let all := (List.range ((0x10000 - bytes) / 64 + 1)).map fun i => x.dbgarea + 64 * i
  let used := d.haltPlaces c
  let good := all.filter fun a => !(used.any fun u => a < u.1 + u.2 && u.1 < a + bytes)
  let from_ := if good.isEmpty then all else good
  ((from_[Config.freeNat n % from_.length]?).getD x.dbgarea, d)

/-- Rhizome may send `n` bytes from or to an address: over a port that is up and, to host memory, inside a window of FWWIN
(R407, R421). -/
def firmwareMay (d : Dev) (pa n : Nat) : Bool := d.reachable pa && d.fwSent pa n

/-- SAFE_POINT_HALT (R382 to R384): the warp halts before its safe point issues; a record that cannot be sent is lost (R407,
R421). -/
def haltWarp (d : Dev) (k : CoreIx) (j : SlotIx) : Dev :=
  match d.slot k j with
  | none => d
  | some w =>
    if !d.atSafePoint k w then d
    else match d.haltCause w, d.context w.ctx with
      | some cause, some x =>
        let m := d.liveAt w.ctx w.pc.toNat
        let rec_ := d.haltRecord k j w cause
        let (n, d) := d.drawn
        let (a, d) := d.haltPlace x w.ctx (64 + imageBytes m)
        let image := haltImage w m (Config.freeByte n)
        let sent := d.firmwareMay a (64 + image.length)
        let d := if sent then (d.drainFor [.phys a]).putRaw a (rec_ ++ image) else d
        d.modWarp k j fun w => { w with
          status := .halted, haltPend := false, stepPend := false, haltAt := if sent then some (a, image) else none, wait := none }
      | _, _ => d

/-! ### Debug control (R415) -/

/-- A warp is in the scope of a DBGCTL write of a function (R383, R415). -/
def inScope (d : Dev) (f : FnIx) (s : DebugScope) (w : Warp) : Bool :=
  w.ctx == s.ctx && (d.context w.ctx).isSome && d.partOf w.ctx == f && w.status != .ended &&
    (s.warp == 0xFFFF || w.index == s.warp.toNat) &&
    (s.taskh == 0xFFFF || (d.task? w.task).any fun t => t.handle == s.taskh)

/-- Changes the warps in scope, those saved by pre-emption included. -/
def mapScope (d : Dev) (f : FnIx) (s : DebugScope) (g : Warp → Warp) : Dev :=
  let h (w : Warp) : Warp := if d.inScope f s w then g w else w
  let d' := d.mapWarps fun _ _ w => some (h w)
  { d' with saved := d'.saved.map fun x => { x with cores := x.cores.map fun c =>
      { c with warps := c.warps.map fun w => (w.1, h w.2) } } }

/-- Ends a SLEEP or a WAITMON (R130, R270). -/
def endSleep (d : Dev) (k : CoreIx) (j : SlotIx) : Dev :=
  match (d.slot k j).bind (·.wait) with
  | some (.sleep _ _) => (d.stepPast k j).closeWarp k j
  | some (.waitmon _ _) => d.endWaitmon k j
  | _ => d

/-- Marks HALTPEND in the record of a warp that runs its handler (R378). -/
def markHaltPend (w : Warp) : Warp :=
  if w.inHandler then
    { w with record := w.record.map fun (r : Vector Word 256) => r.set 5 (r[5] ||| 0x04000000) }
  else w

/-- A halt request (R378, R383): it stays pending until the warp's next safe point, and ends a SLEEP or a WAITMON. -/
def haltRequest (d : Dev) (f : FnIx) (s : DebugScope) : Dev :=
  let hit := (d.warps.filter fun x => d.inScope f s x.2.2 && x.2.2.status != .halted).map fun x => (x.1, x.2.1)
  let d := d.mapScope f s fun w => if w.status = .halted then w else { markHaltPend w with haltPend := true }
  hit.foldl (fun d x => d.endSleep x.1 x.2) d

/-- A halted warp goes on at its safe point, with what the host has changed in its image (R35, R384, R385). -/
def unhalt (d : Dev) (step : Bool) (w : Warp) : Warp :=
  if w.status ≠ .halted then w
  else
    let m := d.liveAt w.ctx w.pc.toNat
    let w := match w.haltAt with
      | some (a, was) =>
        if d.firmwareMay a (64 + was.length) then loadImage w m (was.zip (d.rawBytes (a + 64) was.length)) else w.keepLive m
      | none => w.keepLive m
    { w with status := .running, haltAt := none, pass := true, stepPend := step, nextIssue := d.clock, readyAt := none }

/-- RESUME and STEP (R385); the reads of images push the writes before them home (R406). -/
def debugResume (d : Dev) (f : FnIx) (s : DebugScope) (step : Bool) : Dev :=
  let d := (d.haltPlaces s.ctx).foldl (fun d a => d.drainFor [.phys a.1]) d
  d.mapScope f s (d.unhalt step)

/-- BPSYNC (R381): the breakpoint table is loaded again, unless it lies behind a port that is down (R407). -/
def bpSync (d : Dev) (f : FnIx) (c : CtxIx) : Dev :=
  match d.context c with
  | none => d
  | some x =>
    if d.partOf c ≠ f ∨ (x.bpcount ≠ 0 ∧ !d.reachable x.bptab) then d
    else
      let d := d.drainFor [.phys x.bptab]
      d.putContext c { x with
      bps := (List.range (min x.bpcount 64)).map fun i => BitVec.ofNat 64 (d.rawNat (x.bptab + 8 * i) 8) }

/-! ### PC samples (R391) -/

/-- What holds a warp whose instruction waits for a release (Table 17.5). -/
def releaseReason (d : Dev) (k : CoreIx) (w : Warp) : Nat :=
  match d.fetch k w with
  | .word (.bar ..) | .word (.barv ..) | .word (.join ..) => 3
  | .word (.waitc ..) => 6
  | .word (.stg ..) | .word (.sts ..) | .word (.chst ..) | .word (.red ..) | .word (.qnt ..) | .word (.statrst ..) => 7
  | _ => 8

/-- The stall reason of a warp: the first row of Table 17.5 that holds (log 107 for what no row names). -/
def stallReason (d : Dev) (k : CoreIx) (j : SlotIx) (w : Warp) : Nat :=
  let held : Option Nat := match w.wait with
    | some .fill => some 2
    | some .barrier | some .joining => some 3
    | some (.waitmon _ _) => some 4
    | some (.sleep _ _) => some 5
    | some (.waitc _ _ _ _) => some 6
    | some .queue | some .commands | some .counter | some (.cbacq _ _) | some (.publish _ _) => some 7
    | some (.release _) => some (d.releaseReason k w)
    | some .atomic | some .resident | some .walk => some 8
    | some .depend => some 9
    | none => none
  if w.issuedAt = some d.clock then 0
  else if w.status ≠ .running ∨ w.hold then 1
  else match held with
    | some r => r
    | none =>
      if d.fetch k w = .absent then 2
      else if d.clock < d.readyTime k w || !d.isReady k w then 9
      else if !d.pipeOpen k j then 10 else 11

/-- PC_SAMPLE: the next occupied slot in ascending round-robin order, a warp that has ended skipped. -/
def pcSample (d : Dev) (k : CoreIx) : Dev :=
  match d.trace with
  | none => d
  | some t =>
    if !t.cats.getLsbD 6 then d
    else
      let order : List SlotIx := (List.finRange 64).map fun i => ⟨((d.core k).pcSlot + i.val) % 64, Nat.mod_lt _ (by decide)⟩
      match order.find? fun j => (d.slot k j).any fun w => w.status != .ended with
      | none => d
      | some j => match d.slot k j with
        | none => d
        | some w =>
          let place := d.codePlace w.ctx w.pc.toNat
          let reason := d.stallReason k j w
          let d := d.modCore k fun c => { c with pcSlot := (j.val + 1) % 64 }
          d.traceWarp k j w [(6, BitVec.ofNat 128
            (place.1.toNat + place.2.toNat * 2 ^ 32 + reason * 2 ^ 64 + w.m.toNat * 2 ^ 72))]

/-! ### Counter pages (R393, R394) -/

/-- The groups of a function that count now: at most two of those selected, in ascending order. -/
def activeGroups (d : Dev) (f : FnIx) : List (Fin 8) :=
  let gs := (List.finRange 8).filter fun g => (d.fn f).groups.contains g
  if gs.length ≤ 2 then gs
  else
    let at_ (i : Nat) : Fin 8 := (gs[(2 * d.rotation + i) % gs.length]?).getD 0
    [at_ 0, at_ 1]

/-- Brings the counts of the active groups up to the present: ACTIVE by the cycles passed, each event by a free amount, since
the manual leaves the events to the capability table (log 23). -/
def countGroups (d : Dev) (f : FnIx) : Dev :=
  let n := d.clock - (d.fn f).mark
  let d' := (d.activeGroups f).foldl (fun d g =>
    let d := d.countFn f (64 + 56 * g.val) n
    let d := (List.range 55).foldl (fun d i => d.countFn f (65 + 56 * g.val + i) (Config.freeNat (d.draw + i))) d
    { d with draw := d.draw + 55 }) d
  d'.modFn f fun x => { x with mark := d.clock }

/-- A refresh begins (R394): SEQ rises by one and becomes odd; the entries and SEQ's second rise are still to be written. What the
model does not count is a free amount (log 15). -/
def refreshStart (d : Dev) (f : FnIx) : Dev :=
  let d := d.countGroups f
  let free (i : Nat) : DWord := BitVec.ofNat 64 (Config.freeNat (d.draw + i))
  let old (i : Nat) : DWord := Sparse.get 0 (d.fn f).page i
  let at_ (i : Nat) : DWord :=
    if i = 1 then BitVec.ofNat 64 d.clock
    else if i = 2 then BitVec.ofNat 64 d.ptpNs
    else if 5 ≤ i ∧ i ≤ 9 then old i + free i
    else if i < 16 ∨ 64 ≤ i then Sparse.get 0 (d.fn f).counts i
    else 0
  { d with draw := d.draw + 10 }.modFn f fun x => { x with
    page := Sparse.set 0 0 (old 0 + 1) x.page
    refresh := ((List.range 511).map fun i => (i + 1, at_ (i + 1))) ++ [(0, old 0 + 2)] }

/-- COUNTER_PAGE_REFRESH (R394): a refresh begins, or the one under way writes some more entries, how many is free (log 71). -/
def refreshPage (d : Dev) (f : FnIx) : Dev :=
  if (d.fn f).refresh.isEmpty then d.refreshStart f
  else
    let (n, d) := d.drawn
    d.modFn f fun x =>
      let now := x.refresh.take (1 + Config.freeNat n)
      { x with page := now.foldl (fun m e => Sparse.set 0 e.1 e.2 m) x.page, refresh := x.refresh.drop now.length }

/-- The host selects a partition's groups (R394), by a way that the manual does not give (log 23). -/
def selectGroups (d : Dev) (f : FnIx) (gs : List (Fin 8)) : Dev :=
  (d.countGroups f).modFn f fun x => { x with groups := gs }

/-- COUNTER_GROUP_ROTATION (R394). -/
def rotateGroups (d : Dev) : Dev :=
  let d := (List.finRange 9).foldl countGroups d
  { d with rotation := d.rotation + 1 }

/-! ### The PTP clock (R392) -/

/-- PTPOFS: a positive offset steps the clock, a negative one adds to the amount to absorb. -/
def ptpOffset (d : Dev) (ns : DWord) : Dev :=
  if 0 ≤ ns.toInt then { d with ptp := (d.ptp + ns.toNat * 2 ^ 32) % 2 ^ 96 }
  else { d with ptpDue := d.ptpDue + (-ns.toInt).toNat * 2 ^ 32 }

/-- PTPRATE, in parts per 10^9 from −500,000 to +500,000; a value outside the range is not given an effect and leaves the rate
(log 38). -/
def ptpSetRate (d : Dev) (rate : Word) : Dev :=
  if -500000 ≤ rate.toInt ∧ rate.toInt ≤ 500000 then { d with ptpRate := rate.toInt } else d

end Dev

/-! ### The steps -/

/-- SAFE_POINT_HALT (R382). -/
def execSafePointHalt (core : CoreIx) (slot : SlotIx) (s : State) : Host.Outcome State Fault Refusal :=
  agent (fun d => d.haltWarp core slot) s

/-- DBGCTL with HALT (R383). -/
def execDbgctlHalt (fn : FnIx) (scope : DebugScope) (s : State) : Host.Outcome State Fault Refusal :=
  hostStep (fun d => d.haltRequest fn scope) s

/-- DBGCTL with RESUME (R385). -/
def execDbgctlResume (fn : FnIx) (scope : DebugScope) (s : State) : Host.Outcome State Fault Refusal :=
  hostStep (fun d => d.debugResume fn scope false) s

/-- DBGCTL with RESUME and STEP (R385). -/
def execDbgctlStep (fn : FnIx) (scope : DebugScope) (s : State) : Host.Outcome State Fault Refusal :=
  hostStep (fun d => d.debugResume fn scope true) s

/-- DBGCTL with BPSYNC (R381). -/
def execDbgctlBpsync (fn : FnIx) (scope : DebugScope) (s : State) : Host.Outcome State Fault Refusal :=
  hostStep (fun d => d.bpSync fn scope.ctx) s

/-- PC_SAMPLE (R391). -/
def execPcSample (core : CoreIx) (s : State) : Host.Outcome State Fault Refusal := agent (fun d => d.pcSample core) s

/-- COUNTER_PAGE_REFRESH (R394). -/
def execCounterPageRefresh (fn : FnIx) (s : State) : Host.Outcome State Fault Refusal := agent (fun d => d.refreshPage fn) s

/-- COUNTER_GROUP_ROTATION (R394). -/
def execCounterGroupRotation (s : State) : Host.Outcome State Fault Refusal := agent Dev.rotateGroups s

/-- PTPOFS (R392), of the PF only (R408). -/
def execPtpofsWrite (fn : FnIx) (ns : DWord) (s : State) : Host.Outcome State Fault Refusal :=
  hostStep (fun d => if fn = 0 then d.ptpOffset ns else d) s

/-- PTPRATE (R392), of the PF only (R408). -/
def execPtprateWrite (fn : FnIx) (rate : Word) (s : State) : Host.Outcome State Fault Refusal :=
  hostStep (fun d => if fn = 0 then d.ptpSetRate rate else d) s

end Sys2Proof.Machine
end

