-- ==== Sys2Proof/Machine/Host.lean ====
section
/-! DEFINITION. Host packets (R411 to R414): their consumption and completion; LAUNCH, SIGNAL, WAIT, TRACE_START, TRACE_STOP and
STAT_MERGE; the poll of a ring's commands that have not completed. -/

namespace Sys2Proof.Machine

/-- What a packet's command answers: a status at once, or work that completes later, with what follows once the ring holds
it. -/
inductive PktAct where
  | over (d : Dev) (status : Nat)
  | later (d : Dev) (w : RingWork) (go : Dev → Dev)

namespace Dev

/-- The cluster whose scheduler consumes a ring (R411). -/
def ringCluster (d : Dev) (q : RingIx) : Option ClusterIx :=
  ((List.finRange 8).map fun (i : Fin 8) => (⟨(q.ring.val + i.val) % 8, Nat.mod_lt _ (by decide)⟩ : ClusterIx)).find?
    fun c => d.clusterOn c

/-- A WAIT holds the ring (R414). -/
def ringHeld (d : Dev) (q : RingIx) : Bool :=
  (d.ring q).cmds.any fun c => match c.work with
    | .wait _ _ _ => true
    | _ => false

/-- The device can consume the packet at HEAD (R411, R414): the cluster that does. -/
def consumer (d : Dev) (q : RingIx) (barrier : Bool) : Option ClusterIx :=
  let r := d.ring q
  if !r.enable || r.head == r.tail || d.ringHeld q || (barrier && !r.cmds.isEmpty) || !d.reachable r.base.toNat then none
  else match d.ringCluster q with
    | some cl => if grants (d.cluster cl) 0 0 then some cl else none
    | none => none

/-- HEAD passes a packet (R411). -/
def passHead (d : Dev) (q : RingIx) : Dev := d.modRing q fun r => { r with head := r.head + 1 }

/-- A context that the function's packets may name (R408, R413). -/
def ownContext (d : Dev) (f : FnIx) (c : CtxIx) : Option Context :=
  match d.context c with
  | some x => if d.partOf c = f then some x else none
  | none => none

/-- Consumes a packet of a context (R412 to R414): NOCTX, ENDED, or its command. -/
def consume (d : Dev) (q : RingIx) (h : PktHdr) (f : Dev → ClusterIx → Nat → PktAct) : Dev :=
  match d.consumer q h.barrier with
  | none => d
  | some cl =>
    let n := (d.ring q).head.toNat
    let d := d.passHead q
    match d.ownContext q.fn h.ctx with
    | none => d
    | some x =>
      if x.ended then d.writeCaddr h PktStatus.ended false
      else match f d cl n with
        | .over d status => d.writeCaddr h status false
        | .later d w go => (go (d.modRing q fun r => { r with cmds := r.cmds ++ [{ n := n, hdr := h, work := w }] })).runSignals
            q ((d.ring q).cmds.length + 1)

/-- Consumes a PF-only packet (R408, R412): PERM from a VF, whose packets may not reach a physical address, so that no record is
written (R9, log 76); the PF's record's address is physical. -/
def consumePf (d : Dev) (q : RingIx) (h : PktHdr) (f : Dev → Dev × Nat) : Dev :=
  match d.consumer q h.barrier with
  | none => d
  | some _ =>
    let d := d.passHead q
    if q.fn ≠ 0 then d
    else
      let r := f d
      r.1.writeCaddr h r.2 true

/-- Consumes a packet whose form is refused: BADPKT and no other effect (R413); a VF's at a physical address has no record. -/
def consumeBad (d : Dev) (q : RingIx) (h : PktHdr) (physical : Bool) : Dev :=
  match d.consumer q h.barrier with
  | none => d
  | some _ =>
    let d := d.passHead q
    if (if physical then q.fn == 0 else (d.ownContext q.fn h.ctx).isSome) then d.writeCaddr h PktStatus.badpkt physical else d

/-! ### LAUNCH, SIGNAL, WAIT -/

/-- LAUNCH (R159, R413). -/
def launch (q : RingIx) (h : PktHdr) (tcb : DWord) (d : Dev) (cl : ClusterIx) (n : Nat) : PktAct :=
  if tcb.toNat % 64 ≠ 0 ∨ !canonical tcb.toNat then .over d PktStatus.badpkt
  else .later d .launch fun d =>
    d.runSubmission { ctx := h.ctx, va := tcb.toNat, cluster := cl, by_ := none, packet := some (q, n) }

/-- SIGNAL (R413). -/
def signalPacket (addr value : DWord) (add : Bool) (d : Dev) (_ : ClusterIx) (_ : Nat) : PktAct :=
  if addr.toNat % 8 ≠ 0 then .over d PktStatus.badpkt else .later d (.signal addr value add) id

/-- A read of a WAIT's word at home (R413): the status, once there is one. -/
def waitRead (d : Dev) (c : CtxIx) (addr value : DWord) (eq : Bool) : Dev × Option Nat :=
  if addr.toNat % 8 ≠ 0 then (d, some PktStatus.badpkt)
  else match d.translate c addr.toNat .read with
    | .error _ => (d, some PktStatus.badpkt)
    | .ok t =>
      if !d.reachable t.pa then (d, some PktStatus.link)
      else
        let d := match portOf t.pa with
          | some p => d.drainPort p
          | none => d
        let x := leNat (d.readBytes t.key t.pa 8)
        (d, if (if eq then x = value.toNat else value.toNat ≤ x) then some PktStatus.ok else none)

/-- WAIT (R413): over at once, or held. -/
def waitPacket (c : CtxIx) (addr value : DWord) (eq : Bool) (d : Dev) (_ : ClusterIx) (_ : Nat) : PktAct :=
  match d.waitRead c addr value eq with
  | (d, some status) => .over d status
  | (d, none) => .later d (.wait addr value eq) id

/-! ### The trace -/

/-- The pages of a range, in order. -/
def pagesOf (va count : Nat) : List Nat := (List.range count).map fun i => canon57 (va57 va + 0x10000 * i)

/-- A trace ring can be written throughout (R412). -/
def ringWritable (d : Dev) (c : CtxIx) (base bytes : Nat) : Bool :=
  canonical base && base % 8 == 0 && (List.range ((base % 0x10000 + bytes + 0xFFFF) / 0x10000)).all fun i =>
    match d.translate c (max base (base / 0x10000 * 0x10000 + 0x10000 * i)) .write with
    | .ok _ => true
    | .error _ => false

/-- TRACE_START (R386, R389): a second capture is refused. -/
def traceStart (c : CtxIx) (base : DWord) (bytes : Word) (k j : Byte) (cats : DWord) (d : Dev) (_ : ClusterIx) (_ : Nat) :
    PktAct :=
  let n := bytes.toNat
  if n < 4096 ∨ n ≠ 2 ^ n.log2 ∨ k.toNat < 4 ∨ 20 < k.toNat ∨ j.toNat < 8 ∨ 20 < j.toNat ∨
      !d.ringWritable c base.toNat n then .over d PktStatus.badpkt
  else if d.trace.isSome then .over d PktStatus.busy
  else
    let t : Trace := {
      ctx := c, base := base, bytes := n, k := k.toNat, j := j.toNat, cats := cats, written := 0, shown := 0, dropped := 0
      queue := [], closed := false, stopPut := false }
    .over ({ d with trace := some t }.emit 0xFF 0xFF 0xFF 0 [(10, cats.setWidth 128)]) PktStatus.ok

/-- TRACE_STOP (R386, R389): complete once the STOP record and those before it are at home; one that comes while an earlier
one waits runs on no capture. -/
def traceStop (d : Dev) (_ : ClusterIx) (_ : Nat) : PktAct :=
  match d.trace with
  | none => .over d PktStatus.ok
  | some t =>
    if t.closed then .over d PktStatus.ok
    else .later { d with trace := some { t with closed := true } }.traceOn (.home none) settleHome

/-! ### STAT_MERGE -/

/-- STAT_MERGE (R349, R413): a command of the engines of the ring's cluster, issued by no warp. -/
def statMergePacket (q : RingIx) (c : CtxIx) (src dst : Word) (d : Dev) (cl : ClusterIx) (n : Nat) : PktAct :=
  let port := fieldOf dst 22 20
  match d.context c with
  | none => .over d PktStatus.noctx
  | some x =>
    if !x.tsrIndexOk src || fieldOf dst 31 23 != 0 || 5 < port || (port != 0 && x.peerpool port == 0) ||
        (port == 0 && !x.tsrIndexOk (dst &&& 0xFFFFF)) then .over d PktStatus.badpkt
    else
      let (id, d) := d.freshId
      let who : Issuer := { core := coreOf cl 0, slot := 0, ctx := c, task := id }
      let cmd := { CopyCmd.blank .merge who with id := id, merge := (src, dst), packet := some (q, n) }
      .later d .statMerge fun d => d.modCluster cl fun y => { y with engine := y.engine ++ [cmd] }

/-- A cluster has an engine context free for a merge (R278). -/
def mergeRoom (d : Dev) (q : RingIx) : Bool :=
  match d.ringCluster q with
  | none => false
  | some cl => d.engineRoom cl (CopyCmd.blank .merge { core := coreOf cl 0, slot := 0, ctx := 0, task := 0 })

/-! ### Invalidation and the poll -/

/-- A context's accesses issued before an order number have returned their data or reached home (R247). -/
def accessesHome (d : Dev) (c : CtxIx) (before : Nat) : Bool :=
  let mine := d.warps.filter fun x => x.2.2.ctx == c
  (mine.all fun x => (x.2.2.loads.all fun p => before ≤ p.seq) &&
    x.2.2.stores.all fun p => before ≤ p.seq || (p.flight.isEmpty && p.red.isEmpty)) &&
    (d.tsrs.all fun u => u.ctx != c || u.by_.all fun b => before ≤ b.2.2) &&
    (mine.all fun x => x.2.2.flushing.isEmpty) &&
    (List.finRange 6).all fun p => (d.port p).posted.all fun w => w.by_.isNone || w.ctx != c || before ≤ w.seq

/-- Waits of a context on the pages of a range resume where the page is now resident (R248). -/
def resolveRange (d : Dev) (c : CtxIx) (va count : Nat) : Dev :=
  let first := va57 va
  let due := (d.requests.filter fun r => r.ctx == c && first ≤ r.va && r.va < first + 0x10000 * count).map (·.va)
  due.foldl (fun d page => match d.context c with
    | some x => if d.pageResident x page then d.resolve c page else d
    | none => d) d

/-- A packet's command has been lost with its context's work. -/
def workLost (d : Dev) (q : RingIx) (c : RingCmd) : Bool :=
  match c.work with
  | .launch => !(d.submissions.any fun s => s.packet == some (q, c.n))
  | .statMerge => !(d.clusters.toList.any fun cl => cl.engine.any fun x => x.packet == some (q, c.n))
  | _ => false

/-- One command of a ring, looked at again (R247, R413). -/
def pollCmd (d : Dev) (q : RingIx) (n : Nat) : Dev :=
  match (d.ring q).cmds.find? fun c => c.n == n with
  | none => d
  | some c =>
    match c.work, d.ownContext q.fn c.hdr.ctx with
    | .home _, _ => d
    | .signal _ _ _, some _ => d
    | _, none => d.finishPacket q n PktStatus.noctx
    | w, some x =>
      if x.ended ∨ d.workLost q c then d.finishPacket q n PktStatus.ended
      else match w with
        | .wait addr value eq => match d.waitRead c.hdr.ctx addr value eq with
          | (d, some status) => d.finishPacket q n status
          | (d, none) => d
        | .pages va count before =>
          if d.accessesHome c.hdr.ctx before then (d.resolveRange c.hdr.ctx va count).finishPacket q n PktStatus.ok else d
        | _ => d

/-- WAIT_POLL (R413): the commands of a ring that have not completed are looked at again. -/
def pollRing (d : Dev) (q : RingIx) : Dev :=
  let ns := (d.ring q).cmds.map (·.n)
  (ns.foldl (fun d n => d.pollCmd q n) d).runSignals q ns.length

end Dev

/-! ### The packets -/

def execLaunch (q : RingIx) (h : PktHdr) (tcb : DWord) (s : State) : Host.Outcome State Fault Refusal :=
  agent (fun d => d.consume q h (Dev.launch q h tcb)) s

def execSignalWrite (q : RingIx) (h : PktHdr) (addr value : DWord) (s : State) : Host.Outcome State Fault Refusal :=
  agent (fun d => d.consume q h (Dev.signalPacket addr value false)) s

def execSignalAdd (q : RingIx) (h : PktHdr) (addr value : DWord) (s : State) : Host.Outcome State Fault Refusal :=
  agent (fun d => d.consume q h (Dev.signalPacket addr value true)) s

def execWaitGe (q : RingIx) (h : PktHdr) (addr value : DWord) (s : State) : Host.Outcome State Fault Refusal :=
  agent (fun d => d.consume q h (Dev.waitPacket h.ctx addr value false)) s

def execWaitEq (q : RingIx) (h : PktHdr) (addr value : DWord) (s : State) : Host.Outcome State Fault Refusal :=
  agent (fun d => d.consume q h (Dev.waitPacket h.ctx addr value true)) s

/-- WAIT_POLL (R413). -/
def execWaitPoll (q : RingIx) (s : State) : Host.Outcome State Fault Refusal := agent (fun d => d.pollRing q) s

def execTraceStart (q : RingIx) (h : PktHdr) (base : DWord) (bytes : Word) (k j : Byte) (cats : DWord) (s : State) :
    Host.Outcome State Fault Refusal :=
  agent (fun d => d.consume q h (Dev.traceStart h.ctx base bytes k j cats)) s

def execTraceStop (q : RingIx) (h : PktHdr) (s : State) : Host.Outcome State Fault Refusal :=
  agent (fun d => d.consume q h Dev.traceStop) s

/-- STAT_MERGE: the packet waits at HEAD while the cluster's engines are full (R278). -/
def execStatMerge (q : RingIx) (h : PktHdr) (src dst : Word) (s : State) : Host.Outcome State Fault Refusal :=
  agent (fun d => if d.mergeRoom q then d.consume q h (Dev.statMergePacket q h.ctx src dst) else d) s

end Sys2Proof.Machine
end

