-- ==== Sys2Proof/Machine/Scanner.lean ====
section
/-! DEFINITION. The code-page scanner (R34, R36, R40 to R42, R77, R147). -/

namespace Sys2Proof.Machine

/-- What a scan knows of the page's object (R443): its class, its live-map table, and the page's digest at MAP CODE. -/
structure ScanOpts where
  cls : Nat
  live : Option (List (BitVec 128))
  digest : Option (List Byte)
  deriving DecidableEq, Repr

/-- A refusal: the reason, the slot field and the slab index (Table 1.8). -/
structure ScanFail where
  reason : ScanReason
  slot : Nat
  slab : Nat
  deriving DecidableEq, Repr

/-- A system register that a class may not name (Table 5.5, R177, R366). -/
def sysRegRefused (n : Nat) (write : Bool) (cls : Nat) : Bool :=
  if n = 0 then false
  else if n = 1 ∨ n = 2 then write
  else if 0x100 ≤ n ∧ n < 0x200 then
    cls != 1 || (write && !((0x1D0 ≤ n && n ≤ 0x1DC) || n == 0x1F0 || n == 0x1F1))
  else if 0x800 ≤ n ∧ n < 0x1000 then !(cls == 2 || cls == 3) || (write && n == 0x80A)
  else true

/-- The check of MFS and MTS that needs the class (R147). -/
def Instr.sysRegRefused (cls : Nat) : Instr → Bool
  | .mfs _ _ reg => Machine.sysRegRefused reg.toNat false cls
  | .mts _ _ reg => Machine.sysRegRefused reg.toNat true cls
  | _ => false

/-- The static target of a control instruction, as its displacement (R77). -/
def Instr.target : Instr → Option Word
  | .bra _ off | .callDirect _ _ off | .rcv _ off | .pfi _ _ off => some off
  | _ => none

/-- A valid program counter, of an exact address (R33). -/
def slotOffset (pc : Int) : Bool := [4, 16, 28, 40, 52].contains (pc % 64)

/-- The checks 0x04 to 0x0A on a word at a place of its page (R41). -/
def wordRefused (cls : Nat) (at_ : Nat) (bs : List Byte) : Option ScanReason :=
  match decodeBytes bs with
  | .error r => some r
  | .ok i =>
    if Instr.sysRegRefused cls i then some .imm
    else match Instr.target i with
      | some off => if slotOffset (at_ + off.toInt) then none else some .branchTarget
      | none => none

/-- STOP of an instruction word (Table 1.4). -/
def wordStops (bs : List Byte) : Bool := (leNat (bs.take 12)).testBit 86

/-- The live-map entry of an ordinal is refused (R41, MAP_ENTRY). -/
def entryRefused (o : ScanOpts) (ordinal : Nat) : Bool :=
  match o.live with
  | none => false
  | some l => match l[ordinal]? with
    | none => true
    | some e => fieldOf e 127 104 != 0

/-- The slots of a slab from one up: the running STOP count after them. -/
def scanSlots (o : ScanOpts) (slab : Nat) (bs : List Byte) : Nat → Nat → Nat → Except ScanFail Nat
  | 0, _, count => .ok count
  | n + 1, slot, count =>
    let at_ := 4 + 12 * slot
    let w := (bs.drop at_).take 12
    match wordRefused o.cls (64 * slab + at_) w with
    | some r => .error ⟨r, slot, slab⟩
    | none =>
      if !wordStops w then scanSlots o slab bs n (slot + 1) count
      else if entryRefused o count then .error ⟨.mapEntry, slot, slab⟩
      else scanSlots o slab bs n (slot + 1) (count + 1)

/-- A slab: its header, then its slots. -/
def scanSlab (o : ScanOpts) (slab : Nat) (bs : List Byte) (count : Nat) : Except ScanFail Nat :=
  let hdr := leNat (bs.take 4)
  if hdr % 16 ≠ 1 then .error ⟨.hdrVersion, 7, slab⟩
  else if hdr / 2 ^ 24 ≠ 0 then .error ⟨.hdrReserved, 7, slab⟩
  else if bitsN hdr 23 4 ≠ count then .error ⟨.mapBase, 7, slab⟩
  else scanSlots o slab bs 5 0 count

/-- The slabs of a page from one up, each line checked after its last slab; `line` is the count at the line's start. -/
def scanSlabs (o : ScanOpts) : Nat → Nat → List Byte → (line count : Nat) → Except ScanFail Nat
  | 0, _, _, _, count => .ok count
  | n + 1, slab, bs, line, count =>
    match scanSlab o slab (bs.take 64) count with
    | .error e => .error e
    | .ok c =>
      if slab % 4 ≠ 3 then scanSlabs o n (slab + 1) (bs.drop 64) line c
      else if c = line then .error ⟨.lineNoStop, 6, slab - 3⟩
      else scanSlabs o n (slab + 1) (bs.drop 64) c c

/-- The scan of a page (R41): the running STOP count after it, or the refusal. Without a count to start from, the scan takes
the map base of the first slab (R443). -/
def scanPage (o : ScanOpts) (start : Option Nat) (page : List Byte) : Except ScanFail Nat :=
  if o.digest.any fun x => x != Sha384.digest page then .error ⟨.digest, 5, 0⟩
  else
    let c := start.getD (bitsN (leNat (page.take 4)) 23 4)
    scanSlabs o 1024 0 page c c

/-- A scanner log entry (Table 1.8). -/
def scanEntry (codeId : Word) (f : ScanFail) (va : Nat) : Nat :=
  codeId.toNat * 2 ^ 96 + f.reason.code * 2 ^ 88 + f.slot * 2 ^ 80 + f.slab * 2 ^ 70 + (va % 2 ^ 57) / 0x10000 * 0x10000

end Sys2Proof.Machine
end

