-- ==== Sys2Proof/Machine/Maps.lean ====
section
/-! DEFINITION. The MAP and UNMAP packets (Table 19.5): pages (R247, R248), executable pages (R40, R405, R443), code objects
(R418 to R420), key slots (R241), contexts (R409) and fuses (R419). -/

namespace Sys2Proof.Machine

namespace Dev

/-! ### Pages -/

/-- The span of a MAP or UNMAP with SUB PAGES or EXEC (R413). -/
def spanOk (va : DWord) (count : Word) : Bool :=
  canonical va.toNat && va.toNat % 0x10000 == 0 && count != 0 && va57 va.toNat + 0x10000 * count.toNat ≤ 2 ^ 57

/-- A page of the 57-bit space lies in a range. -/
def inSpan (va count page : Nat) : Bool := va57 va ≤ page && page < va57 va + 0x10000 * count

/-- A TLB entry covers a page of a range. -/
def tlbCovers (t : TlbEntry) (va count : Nat) : Bool :=
  (List.range 256).any fun i => t.mask.getLsbD i && inSpan va count (t.span * 2 ^ 24 + i * 0x10000)

/-- MAP and UNMAP PAGES (R247, R413). -/
def invalidate (c : CtxIx) (va : DWord) (count : Word) (d : Dev) (_ : ClusterIx) (_ : Nat) : PktAct :=
  if !spanOk va count then .over d PktStatus.badpkt
  else
    let d := (d.tlbDrop fun t => t.ctx == c && tlbCovers t va.toNat count.toNat).dropLines fun l =>
      l.ctx == c && inSpan va.toNat count.toNat l.va
    let d := { d with walks := d.walks.map fun (w : Walk) => if w.ctx = c then { w with got := [] } else w }
    if d.accessesHome c d.seq then .over (d.resolveRange c va.toNat count.toNat) PktStatus.ok
    else .later d (.pages va.toNat count.toNat d.seq) id

/-! ### Executable pages -/

/-- Where a page to be scanned lies: a local frame that the context may read (R405, R412). -/
def scanPlace (d : Dev) (c : CtxIx) (va : Nat) : Option Trans :=
  match d.translate c va .read with
  | .ok t => if paKind t.pa = .dram then some t else none
  | .error _ => none

/-- An entry joins the executable pages in place of one for the same page (R405); no line from before stays (R135). -/
def putExec (d : Dev) (p : ExecPage) : Dev :=
  { d.dropLines fun l => l.frame == p.frame || (l.ctx == p.ctx && l.va / 0x10000 == p.va / 0x10000) with
    exec := p :: d.exec.filter fun q => !(q.frame == p.frame && q.ctx == p.ctx && q.va == p.va) }

/-- An entry of the context's scanner log (R42). -/
def logScan (d : Dev) (x : Context) (codeId : Word) (f : ScanFail) (va : Nat) : Dev :=
  d.ringAppend x.scanlog x.scancnt (scanEntry codeId f va)

/-- The pages of an object with this TARGET run in interlocked mode (R420). -/
def runsInterlocked (d : Dev) (asked : Bool) (target : Word) : Bool :=
  asked || target == 0 || target >>> 8 != steppingReg >>> 8 || d.forceInterlocked

/-- MAP EXEC of one page (R443): the scan, and its entry or its log entry; whether it passed. -/
def execPage (d : Dev) (c : CtxIx) (x : Context) (first : Nat) (codeId : Word) (asked : Bool) (va : Nat) : Dev × Bool :=
  match d.scanPlace c va with
  | none => (d, false)
  | some t =>
    let page := d.readBytes t.key t.pa 0x10000
    let obj := x.objs.find? fun o => o.id == codeId && o.cls ≤ 1
    let opts : ScanOpts := match obj with
      | some o => { cls := o.cls, live := some o.live, digest := none }
      | none => { cls := 0, live := none, digest := none }
    match scanPage opts none page with
    | .error f => (d.logScan x codeId f va, false)
    | .ok _ =>
      let e : ExecPage := match obj with
        | some o => {
          frame := t.pa / 0x10000, ctx := c, va := va57 va, codeId := codeId, base := va57 o.base, objLoaded := true
          cls := o.cls, interlocked := d.runsInterlocked asked o.target }
        | none => {
          frame := t.pa / 0x10000, ctx := c, va := va57 va, codeId := codeId, base := va57 first, objLoaded := false
          cls := 0, interlocked := true }
      (d.putExec e, true)

/-- MAP EXEC (R443): every page is scanned. -/
def mapExec (c : CtxIx) (va : DWord) (count codeId : Word) (asked : Bool) (d : Dev) (_ : ClusterIx) (_ : Nat) : PktAct :=
  let pages := pagesOf va.toNat count.toNat
  if !spanOk va count || !(pages.all fun a => (d.scanPlace c a).isSome) then .over d PktStatus.badpkt
  else match d.context c with
    | none => .over d PktStatus.noctx
    | some x =>
      let r := pages.foldl (fun (r : Dev × Bool) a =>
        let y := r.1.execPage c x va.toNat codeId asked a
        (y.1, r.2 && y.2)) (d, true)
      .over r.1 (if r.2 then PktStatus.ok else PktStatus.scan)

/-- A warp that has not ended, on the die or saved by pre-emption, stands in a range of a context (Table 19.5). -/
def pcInSpan (d : Dev) (c : CtxIx) (va count : Nat) : Bool :=
  let here (w : Warp) : Bool := w.ctx == c && w.status != .ended && inSpan va count (va57 w.pc.toNat)
  (d.warps.any fun x => here x.2.2) || d.saved.any fun s => s.cores.any fun k => k.warps.any fun w => here w.2

/-- UNMAP EXEC (R135, R405): the lines leave every instruction cache and the frames' executable bits are cleared. -/
def unmapExec (c : CtxIx) (va : DWord) (count : Word) (d : Dev) (_ : ClusterIx) (_ : Nat) : PktAct :=
  if !spanOk va count then .over d PktStatus.badpkt
  else if d.pcInSpan c va.toNat count.toNat then .over d PktStatus.busy
  else match d.context c with
    | none => .over d PktStatus.noctx
    | some x =>
      let frames := (pagesOf va.toNat count.toNat).filterMap (d.frameAt c x)
      let gone := d.exec.filter fun e => frames.contains e.frame
      let hit (y : CtxIx) (a : Nat) : Bool :=
        (y == c && inSpan va.toNat count.toNat a) || gone.any fun e => e.ctx == y && e.va == a / 0x10000 * 0x10000
      let d := (d.dropLines fun l => hit l.ctx l.va || frames.contains l.frame).mapCores fun _ k => { k with
        fills := k.fills.filter fun f => f.demand || !hit f.ctx f.va }
      .over { d with exec := d.exec.filter fun e => !frames.contains e.frame } PktStatus.ok

/-! ### Code objects -/

/-- Why a page of a range cannot be read for a packet, the first such page deciding: it does not translate, or it lies behind a
port that is down (R407, R412). -/
def unreadable (d : Dev) (c : CtxIx) (va n : Nat) : Option Nat :=
  (List.range ((va % 0x10000 + n + 0xFFFF) / 0x10000)).findSome? fun i =>
    match d.translate c (max va (va / 0x10000 * 0x10000 + 0x10000 * i)) .read with
    | .error _ => some PktStatus.badpkt
    | .ok t => if d.reachable t.pa then none else some PktStatus.link

/-- Bytes of a code object, read through its context (R420), or the status that their reading ends with. -/
def objectBytes (d : Dev) (c : CtxIx) (va off n : Nat) : Except Nat (List Byte) :=
  if 2 ^ 57 < va57 va + off + n then .error PktStatus.badpkt
  else
    let from_ := canon57 (va57 va + off)
    match d.unreadable c from_ n with
    | some status => .error status
    | none => match d.getVa c from_ n with
      | some bs => .ok bs
      | none => .error PktStatus.badpkt

/-- The device's read of a page in a window pushes the port's posted writes home (R406). -/
def behindVa (d : Dev) (c : CtxIx) (va : Nat) : Dev :=
  match d.translate c va .read with
  | .error _ => d
  | .ok t => match portOf t.pa with
    | some p => if (d.port p).up then d.drainPort p else d
    | none => d

end Dev

/-- The header of a code object (Table 19.8). -/
structure ObjHeader where
  bytes : List Byte

namespace ObjHeader

def at_ (h : ObjHeader) (off n : Nat) : Nat := leNat ((h.bytes.drop off).take n)
def cls (h : ObjHeader) : Nat := h.at_ 6 1
def svn (h : ObjHeader) : Nat := h.at_ 8 4
def npages (h : ObjHeader) : Nat := h.at_ 12 4
def nent (h : ObjHeader) : Nat := h.at_ 16 4
def nsafe (h : ObjHeader) : Nat := h.at_ 20 4
def codeoff (h : ObjHeader) : Nat := h.at_ 24 8
def entoff (h : ObjHeader) : Nat := h.at_ 32 8
def mapoff (h : ObjHeader) : Nat := h.at_ 40 8
def manoff (h : ObjHeader) : Nat := h.at_ 48 8
def sigoff (h : ObjHeader) : Nat := h.at_ 56 8
def target (h : ObjHeader) : Word := BitVec.ofNat 32 (h.at_ 64 4)

/-- Bytes of the manifest: the digests of the header, of two tables and of each code page. -/
def manBytes (h : ObjHeader) : Nat := 48 * (3 + h.npages)

/-- Bytes of the signature block. -/
abbrev sigBytes : Nat := 64 + 3309

/-- Step 1 of R420. -/
def wellFormed (h : ObjHeader) : Bool :=
  let size := h.codeoff + 0x10000 * h.npages
  h.at_ 0 4 == 0x424F5842 && h.at_ 4 2 == 1 && h.cls ≤ 3 && h.at_ 7 1 == 0 && h.at_ 68 60 == 0 && 1 ≤ h.npages &&
    h.codeoff % 0x10000 == 0 && 128 ≤ h.codeoff && h.entoff + 4 * h.nent ≤ size && h.mapoff + 16 * h.nsafe ≤ size &&
    h.manoff + h.manBytes ≤ size && (h.sigoff == 0 || h.sigoff + sigBytes ≤ size)

end ObjHeader

/-- A code object as MAP CODE reads it (R420). -/
structure ObjImage where
  hdr : ObjHeader
  ent : List Byte
  live : List Byte
  man : List Byte
  sig : List Byte
  pages : List (List Byte)

namespace ObjImage

/-- Digest `n` of the manifest. -/
def digest (o : ObjImage) (n : Nat) : List Byte := (o.man.drop (48 * n)).take 48

/-- Step 4 of R420. -/
def digestsMatch (o : ObjImage) : Bool :=
  ((o.hdr.bytes :: o.ent :: o.live :: o.pages).zipIdx).all fun x => Sha384.digest x.1 == o.digest x.2

/-- The live-map table's entries (Table 1.6). -/
def liveMap (o : ObjImage) : List (BitVec 128) :=
  (List.range o.hdr.nsafe).map fun i => BitVec.ofNat 128 (leNat ((o.live.drop (16 * i)).take 16))

end ObjImage

namespace Dev

/-- The image of an object, where every byte of it can be read. -/
def objectImage (d : Dev) (c : CtxIx) (va : Nat) (h : ObjHeader) : Except Nat ObjImage := do
  let ent ← d.objectBytes c va h.entoff (4 * h.nent)
  let live ← d.objectBytes c va h.mapoff (16 * h.nsafe)
  let man ← d.objectBytes c va h.manoff h.manBytes
  let sig ← if h.sigoff = 0 then .ok [] else d.objectBytes c va h.sigoff ObjHeader.sigBytes
  let pages ← (List.range h.npages).mapM fun i => d.objectBytes c va (h.codeoff + 0x10000 * i) 0x10000
  .ok ⟨h, ent, live, man, sig, pages⟩

/-- Step 7 of R420: the pages are scanned in order, the STOP count carried from page to page; at the first refusal no page of
the object is executable. -/
def scanObject (d : Dev) (c : CtxIx) (x : Context) (codeId : Word) (asked : Bool) (va : Nat) (o : ObjImage) : Dev × Nat :=
  let base := va57 va + o.hdr.codeoff
  let start : Dev × Nat × Option Nat := (d, 0, none)
  let r := (List.range o.hdr.npages).foldl (fun (r : Dev × Nat × Option Nat) i =>
    if r.2.2.isSome then r
    else
      let at_ := canon57 (base + 0x10000 * i)
      match r.1.scanPlace c at_ with
      | none => (d, 0, some PktStatus.badpkt)
      | some t =>
        let opts : ScanOpts := { cls := o.hdr.cls, live := some o.liveMap, digest := some (o.digest (3 + i)) }
        match scanPage opts (some r.2.1) (r.1.readBytes t.key t.pa 0x10000) with
        | .error f => (d.logScan x codeId f at_, 0, some (if f.reason = .digest then PktStatus.sig else PktStatus.scan))
        | .ok n =>
          (r.1.putExec {
            frame := t.pa / 0x10000, ctx := c, va := va57 at_, codeId := codeId, base := base, objLoaded := true
            cls := o.hdr.cls, interlocked := d.runsInterlocked asked o.hdr.target }, n, none)) start
  (r.1, r.2.2.getD PktStatus.ok)

/-- A loaded object takes its ID (R420). -/
def loadObject (d : Dev) (c : CtxIx) (codeId : Word) (va : Nat) (o : ObjImage) : Dev :=
  d.modContext c fun x => { x with objs := x.objs ++ [{
    id := codeId, base := canon57 (va57 va + o.hdr.codeoff), cls := o.hdr.cls, svn := o.hdr.svn, live := o.liveMap
    npages := o.hdr.npages, target := o.hdr.target }] }

/-- Steps 3 to 7 of R420. -/
def mapImage (d : Dev) (c : CtxIx) (x : Context) (fuses : Vector (Fin 65) 3) (codeId : Word) (asked : Bool) (va : Nat)
    (o : ObjImage) : Dev × Nat :=
  let k := o.hdr.cls
  if k ≠ 0 ∧ o.hdr.svn < ((fuses[k - 1]?).getD 0).val then (d, PktStatus.svn)
  else if !o.digestsMatch then (d, PktStatus.sig)
  else if (k ≠ 0 ∨ x.sigreq) ∧ (o.sig.isEmpty ∨ !Config.signaturesVerify (max k 1) o.man o.sig) then (d, PktStatus.sig)
  else if x.objs.any fun y => y.id == codeId then (d, PktStatus.busy)
  else
    let r := if 2 ≤ k then (d, PktStatus.ok) else d.scanObject c x codeId asked va o
    if r.2 = PktStatus.ok then (r.1.loadObject c codeId va o, PktStatus.ok) else r

/-- MAP CODE (R420). -/
def mapCode (f : FnIx) (c : CtxIx) (fuses : Vector (Fin 65) 3) (va : DWord) (codeId : Word) (asked : Bool) (d : Dev)
    (_ : ClusterIx) (_ : Nat) : PktAct :=
  let status := if va.toNat % 0x10000 ≠ 0 ∨ !canonical va.toNat then (d, PktStatus.badpkt)
    else let d := d.behindVa c va.toNat
      match d.context c, d.objectBytes c va.toNat 0 128 with
      | none, _ => (d, PktStatus.noctx)
      | some _, .error status => (d, status)
      | some x, .ok bs =>
        let h : ObjHeader := ⟨bs⟩
        if !h.wellFormed then (d, PktStatus.badpkt)
        else if h.cls ≠ 0 ∧ f ≠ 0 then (d, PktStatus.perm)
        else match d.objectImage c va.toNat h with
          | .ok o => d.mapImage c x fuses codeId asked va.toNat o
          | .error status => (d, status)
  .over status.1 status.2

/-- A task of a context is ready, running, parked or pre-empted (R409). -/
def liveTask (t : Task) : Bool :=
  match t.state with
  | .waiting | .completing => false
  | _ => true

/-- UNMAP CODE (R413): an ID not in use changes nothing. -/
def unmapCode (c : CtxIx) (codeId : Word) (d : Dev) (_ : ClusterIx) (_ : Nat) : PktAct :=
  if d.tasks.any fun t => t.ctx == c && t.codeobj == codeId && liveTask t then .over d PktStatus.busy
  else .over (d.modContext c fun x => { x with objs := x.objs.filter fun o => o.id != codeId }) PktStatus.ok

/-! ### Key slots -/

/-- Bytes at a physical address that some agent can hold. -/
def physOk (pa n : Nat) : Bool := (List.range n).all fun i => pa + i < 2 ^ 48 && paKind (pa + i) != .unassigned

/-- Loads a key slot (R241). -/
def setKey (d : Dev) (slot : Nat) (m : BitVec 512) : Dev := { d with keys := Sparse.set 0 slot m d.keys }

/-- MAP KEY (R241, R413); a body address that R421 keeps the firmware from is out of range (log 117). -/
def mapKey (slot : BitVec 16) (pa : DWord) (d : Dev) : Dev × Nat :=
  if 1024 ≤ slot.toNat ∨ !physOk pa.toNat 64 ∨ !d.fwSent pa.toNat 64 then (d, PktStatus.badpkt)
  else if !d.reachable pa.toNat then (d, PktStatus.link)
  else
    let d := match portOf pa.toNat with
      | some p => d.drainPort p
      | none => d
    (d.setKey slot.toNat (BitVec.ofNat 512 (leNat (d.rawBytes pa.toNat 64))), PktStatus.ok)

/-- UNMAP KEY. -/
def unmapKey (slot : BitVec 16) (d : Dev) : Dev × Nat :=
  if 1024 ≤ slot.toNat then (d, PktStatus.badpkt) else (d.setKey slot.toNat 0, PktStatus.ok)

/-! ### Contexts -/

/-- A number of log entries: a power of two from 16 to 65,536. -/
def logCount (n : Nat) : Bool := 16 ≤ n && n ≤ 65536 && n == 2 ^ n.log2

end Dev

/-- A descriptor with no reserved bit set and every value in its range (Table 19.3). -/
def Context.wellFormed (x : Context) : Bool :=
  let zero (hi lo : Nat) : Bool := x.field hi lo == 0
  zero 2047 1280 && zero 511 496 && zero 463 448 && zero 191 128 && zero 119 116 && zero 111 106 && zero 99 64 &&
    zero 1231 1226 && zero 1279 1242 &&
    Dev.logCount x.scancnt && x.scanlog % 16 == 0 && Dev.logCount x.errcnt && x.errlog % 16 == 0 &&
    x.dbgarea % 0x10000 == 0 && x.bptab % 8 == 0 && x.hspill % 4096 == 0 && x.bpcount ≤ 64 && x.tsrcount ≤ 2 ^ 20 &&
    x.tsrbase % 0x10000 == 0 && x.nbblock ≤ 8 && x.part ≤ 8 && x.ptroot % 4096 == 0 && paKind x.ptroot == .dram &&
    (List.finRange 5).all fun p => x.peerpool (p.val + 1) == 0 || paKind (x.peerpool (p.val + 1)) == .peer p

namespace Dev

/-- Removes what caches hold of a context's translations. -/
def dropTlb (d : Dev) (c : CtxIx) : Dev :=
  ({ d with walks := d.walks.filter fun w => w.ctx != c }.tlbDrop fun t => t.ctx == c).dropLines fun l => l.ctx == c

/-- MAP CONTEXT (R244, R299, R409, R413): the descriptor is read once; every selector picks frame PFN, every page is fresh. -/
def mapContext (number : BitVec 16) (pa : DWord) (d : Dev) : Dev × Nat :=
  let a := pa.toNat
  if 4096 ≤ number.toNat ∨ a % 256 ≠ 0 ∨ paKind a ≠ .dram then (d, PktStatus.badpkt)
  else
    let c : CtxIx := number.setWidth 12
    let old := d.context c
    let x : Context := {
      desc := BitVec.ofNat 2048 (d.rawNat a 256), flipped := [], poison := [], stale := []
      objs := (old.map Context.objs).getD [], bps := [], ended := false }
    if !x.wellFormed then (d, PktStatus.badpkt)
    else if d.tasks.any fun t => t.ctx == c && liveTask t then (d, PktStatus.busy)
    else if x.bpcount ≠ 0 ∧ !d.reachable x.bptab then (d, PktStatus.link)
    else (((d.putContext c x).dropTlb c).bpSync ⟨min x.part 8, by omega⟩ c, PktStatus.ok)

/-- UNMAP CONTEXT (R372, R413): the context ends and its number is free. -/
def unmapContext (number : BitVec 16) (d : Dev) : Dev × Nat :=
  if 4096 ≤ number.toNat then (d, PktStatus.badpkt)
  else
    let c : CtxIx := number.setWidth 12
    match d.context c with
    | none => (d, PktStatus.ok)
    | some _ =>
      let d := ((d.endContext c).dropTlb c).mapCores fun _ k => { k with
        fills := k.fills.filter fun f => f.ctx != c }
      ({ d with contexts := Sparse.erase c.toNat d.contexts, tlrs := d.tlrs.filter fun t => t.ctx != c }, PktStatus.ok)

/-! ### Fuses -/

/-- The counter that MAP FUSE raises, where its conditions hold (R419). -/
def fuseOk (d : Dev) (fuses : Vector (Fin 65) 3) (cls target : Byte) : Option (Fin 3 × Fin 65) :=
  let k := cls.toNat
  let n := target.toNat
  if h : k - 1 < 3 then
    if hn : n < 65 then
      if 1 ≤ k ∧ fuses[k - 1].val ≤ n ∧ (d.contexts.any fun e => e.2.objs.any fun o => o.cls == k && n ≤ o.svn) then
        some (⟨k - 1, h⟩, ⟨n, hn⟩)
      else none
    else none
  else none

/-- MAP FUSE's status (R413, R419). -/
def fuseStatus (d : Dev) (fuses : Vector (Fin 65) 3) (cls target : Byte) : Nat :=
  if cls.toNat < 1 ∨ 3 < cls.toNat then PktStatus.badpkt
  else if (d.fuseOk fuses cls target).isSome then PktStatus.ok else PktStatus.perm

end Dev

/-! ### The packets -/

def execMapPages (q : RingIx) (h : PktHdr) (va : DWord) (count : Word) (s : State) : Host.Outcome State Fault Refusal :=
  agent (fun d => d.consume q h (Dev.invalidate h.ctx va count)) s

def execUnmapPages (q : RingIx) (h : PktHdr) (va : DWord) (count : Word) (s : State) : Host.Outcome State Fault Refusal :=
  agent (fun d => d.consume q h (Dev.invalidate h.ctx va count)) s

def execMapExec (q : RingIx) (h : PktHdr) (va : DWord) (count codeId : Word) (interlocked : Bool) (s : State) :
    Host.Outcome State Fault Refusal :=
  agent (fun d => d.consume q h (Dev.mapExec h.ctx va count codeId interlocked)) s

def execUnmapExec (q : RingIx) (h : PktHdr) (va : DWord) (count : Word) (s : State) : Host.Outcome State Fault Refusal :=
  agent (fun d => d.consume q h (Dev.unmapExec h.ctx va count)) s

def execMapCode (q : RingIx) (h : PktHdr) (va : DWord) (codeId : Word) (interlocked : Bool) (s : State) :
    Host.Outcome State Fault Refusal :=
  agent (fun d => d.consume q h (Dev.mapCode q.fn h.ctx s.board.fuses va codeId interlocked)) s

def execUnmapCode (q : RingIx) (h : PktHdr) (codeId : Word) (s : State) : Host.Outcome State Fault Refusal :=
  agent (fun d => d.consume q h (Dev.unmapCode h.ctx codeId)) s

def execMapKey (q : RingIx) (h : PktHdr) (keySlot : BitVec 16) (pa : DWord) (s : State) :
    Host.Outcome State Fault Refusal :=
  agent (fun d => d.consumePf q h (Dev.mapKey keySlot pa)) s

def execUnmapKey (q : RingIx) (h : PktHdr) (keySlot : BitVec 16) (s : State) : Host.Outcome State Fault Refusal :=
  agent (fun d => d.consumePf q h (Dev.unmapKey keySlot)) s

def execMapContext (q : RingIx) (h : PktHdr) (number : BitVec 16) (pa : DWord) (s : State) :
    Host.Outcome State Fault Refusal :=
  agent (fun d => d.consumePf q h (Dev.mapContext number pa)) s

def execUnmapContext (q : RingIx) (h : PktHdr) (number : BitVec 16) (s : State) : Host.Outcome State Fault Refusal :=
  agent (fun d => d.consumePf q h (Dev.unmapContext number)) s

/-- The board with MAP FUSE's fuses blown, where the packet is consumed and its conditions hold. -/
def blowFuses (q : RingIx) (h : PktHdr) (cls target : Byte) (s : State) : State :=
  match s.dev.consumer q h.barrier, s.dev.fuseOk s.board.fuses cls target with
  | some _, some x => if q.fn = 0 then { s with board := { s.board with fuses := s.board.fuses.set x.1.val x.2 } } else s
  | _, _ => s

/-- MAP FUSE (R419). -/
def execMapFuse (q : RingIx) (h : PktHdr) (cls target : Byte) (s : State) : Host.Outcome State Fault Refusal :=
  agent (fun d => d.consumePf q h fun d => (d, d.fuseStatus s.board.fuses cls target))
    (if s.board.on then blowFuses q h cls target s else s)

end Sys2Proof.Machine
end

