-- ==== Sys2Proof/Machine/Registers.lean ====
section
/-! DEFINITION. Writes to the register pages (R404, R408, R411, R415, R421, R438), inbound requests at the BAR2 apertures (R404
to R406) and at BAR0 (R403, R416). -/

namespace Sys2Proof.Machine

namespace Dev

/-! ### Ring registers (Table 19.4) -/

/-- A write of the word that holds LOGN and ENABLE (R411). -/
def ringControl (r : Ring) (x : Word) : Ring :=
  let logn := fieldOf x 4 0
  if logn < 6 ∨ 16 < logn ∨ fieldOf x 7 5 ≠ 0 ∨ fieldOf x 31 9 ≠ 0 then r
  else { r with logn := if r.enable then r.logn else x.setWidth 5, enable := x.getLsbD 8 }

/-- A write to a ring's registers; HEAD is read-only. -/
def ringWrite (r : Ring) (off : Nat) (x : DWord) : Ring :=
  if off = 0 then (if r.enable then r else { r with base := x })
  else if off = 8 then ringControl r (loWord x)
  else if off = 16 then { r with tail := loWord x }
  else r

/-! ### Fault rings and debug control (R415) -/

/-- A write of FLTBASE. -/
def putFltbase (d : Dev) (f : FnIx) (x : DWord) : Dev :=
  if x.toNat % 4096 = 0 then d.modFn f fun g => { g with fltbase := x } else d

/-- A write of FLTCTL. -/
def putFltctl (d : Dev) (f : FnIx) (x : Word) : Dev :=
  if fieldOf x 31 4 = 0 ∧ 2 ≤ fieldOf x 3 0 ∧ fieldOf x 3 0 ≤ 12 then d.modFn f fun g => { g with fltctl := x } else d

/-- The warp that the first u64 of FANSWER names; bits outside its fields change nothing, DESIGN CHOICE (log 121). -/
def answerTo (x : DWord) : AnswerTo :=
  { ctx := x.setWidth 12, taskh := x.extractLsb' 16 16, cluster := x.extractLsb' 32 3, core := x.extractLsb' 40 6
    slot := x.extractLsb' 48 6 }

/-- The second u64 of FANSWER delivers the answer; ACTION 3 is discarded. -/
def deliverAnswer (d : Dev) (f : FnIx) (hskip : Mask) : Dev :=
  let x := (d.fn f).fanswer
  match fieldOf x 57 56 with
  | 0 => d.answerGo f (answerTo x) 0
  | 1 => d.answerGo f (answerTo x) hskip
  | 2 => d.answerKill f (answerTo x)
  | _ => d

/-- A write of DBGCTL: BPSYNC, then HALT, then RESUME; reserved bits read back as written and change nothing else, DESIGN CHOICE
(log 121). -/
def putDbgctl (d : Dev) (f : FnIx) (x : DWord) : Dev :=
  let s : DebugScope := { ctx := x.setWidth 12, taskh := x.extractLsb' 48 16, warp := x.extractLsb' 32 16 }
  let d := d.modFn f fun g => { g with dbgctl := x }
  let d := if x.getLsbD 19 then d.bpSync f s.ctx else d
  let d := if x.getLsbD 16 then d.haltRequest f s else d
  if x.getLsbD 17 then d.debugResume f s (x.getLsbD 18) else d

/-! ### PF registers whose places the manual does not give (R404, log 29) -/

/-- A write of PF register `n` of `Config.pfOffset`. -/
def putPf (d : Dev) (n : Nat) (x : DWord) : Dev :=
  if n = 0 then { d with pfkey := x.setWidth 10 }
  else if n ≤ 8 then d.modFn (vfFn (n - 1)) fun g => { g with inva := x }
  else if n ≤ 16 then d.modFn (vfFn (n - 9)) fun g => { g with inctx := x.setWidth 12 }
  else
    let p : Fin 5 := ⟨(n - 17) / 3 % 5, Nat.mod_lt _ (by decide)⟩
    let old := d.peers[p.val]
    let new := match (n - 17) % 3 with
      | 0 => { old with inbase := x }
      | 1 => { old with inlim := x }
      | _ => { old with key := x.setWidth 10 }
    { d with peers := d.peers.set p.val new }

/-- PWRLIM (R438): below 600 W it stores 600, above 1,800 W it stores 1,800. -/
def putPwrlim (d : Dev) (watts : BitVec 16) : Dev :=
  let x : BitVec 16 := if watts.toNat < 600 then 600 else if 1800 < watts.toNat then 1800 else watts
  { d with pwrlim := x, hostLim := x }

/-- FWLOCK (R421): a write of 1 freezes FWWIN until reset. -/
def putFwlock (d : Dev) (x : Word) : Dev := if x = 1 then { d with fwlock := true } else d

/-- FWWIN's eight windows, base at +0 and limit at +8 of 16 bytes each (log 29); frozen by FWLOCK. -/
def putFwwin (d : Dev) (off : Nat) (x : DWord) : Dev :=
  if d.fwlock then d
  else
    let i := off / 16 % 8
    let old := (d.fwwin[i]?).getD (0, 0)
    if off % 16 = 0 then { d with fwwin := d.fwwin.setIfInBounds i (x, old.2) }
    else if off % 16 = 8 then { d with fwwin := d.fwwin.setIfInBounds i (old.1, x) }
    else d

/-- A write to the PF's own registers (R408). -/
def putPfPage (d : Dev) (off : Nat) (x : DWord) : Dev :=
  if off = 0x210 then d.ptpOffset x
  else if off = 0x218 then d.ptpSetRate (loWord x)
  else if off = 0x230 then d.putFltbase 0 x
  else if off = 0x238 then d.putFltctl 0 (loWord x)
  else if off = 0x250 then d.putPwrlim (x.setWidth 16)
  else if 0x300 ≤ off ∧ off < 0x380 then d.putFwwin (off - 0x300) x
  else if off = 0x380 then d.putFwlock (loWord x)
  else if h : 0x400 ≤ off ∧ off < 0x490 then
    let f : FnIx := ⟨(off - 0x400) / 16, by omega⟩
    if off % 16 = 0 then d.putFltbase f x
    else if off % 16 = 8 then d.putFltctl f (loWord x)
    else d
  else match (List.finRange 32).find? fun n => Config.pfOffset n.val == off with
    | some n => d.putPf n.val x
    | none => d

/-- A function's write to a register page (R411, R415); a VF's to a PF-only register (R408), or one to a word that is no register,
is discarded. -/
def putRegister (d : Dev) (by_ f : FnIx) (off : Nat) (x : DWord) : Dev :=
  if h : off < 0x200 then d.modRing ⟨f, ⟨off / 32, by omega⟩⟩ fun r => ringWrite r (off % 32) x
  else if off = 0x200 then d.modFn f fun g => { g with fanswer := x }
  else if off = 0x208 then d.deliverAnswer f (loWord x)
  else if off = 0x220 then d.putDbgctl f x
  else if f = 0 ∧ by_ = 0 then d.putPfPage off x
  else d

/-- The register that a byte of a register page belongs to: its start, its width and its value, 0 where it is only written
(log 28). -/
def regSpan (d : Dev) (f : FnIx) (off : Nat) : Option (Nat × Nat × Nat) :=
  if 0x208 ≤ off ∧ off < 0x218 then some (off / 8 * 8, 8, 0) else d.regAt f off

/-- The oldest bytes that have come to one register, one after another, are written there as one value (log 28). -/
def takeRegister (d : Dev) : Dev :=
  match d.regWrites with
  | [] => d
  | (at_, _, by_) :: _ =>
    let f : FnIx := ⟨(at_ - 0x100000) / 0x10000 % 9, Nat.mod_lt _ (by decide)⟩
    match d.regSpan f (at_ % 0x10000) with
    | none => { d with regWrites := d.regWrites.drop 1 }
    | some (start, width, old) =>
      let base := at_ - at_ % 0x10000 + start
      let run := (d.regWrites.zipIdx.takeWhile fun w =>
        w.1.1 == at_ + w.2 && w.1.1 < base + width && w.1.2.2 == by_).map (·.1)
      let value := leNat ((List.range width).map fun i => ((run.find? fun w => w.1 == base + i).map (·.2.1)).getD (byteOf old i))
      { d with regWrites := d.regWrites.drop run.length }.putRegister by_ f start (BitVec.ofNat 64 value)

/-- Takes the register bytes that wait, up to `n` times. -/
def takeRegisters : Nat → Dev → Dev
  | 0, d => d
  | n + 1, d => takeRegisters n d.takeRegister

/-- A posted write from outside, as `f` performs it for a function: its register bytes take effect at once, those that wait
from the die staying behind (R406). -/
def inOrder (d : Dev) (by_ : FnIx) (f : Dev → Dev) : Dev :=
  let e := (f { d with regWrites := [] }).writtenBy by_ 0
  let e := takeRegisters e.regWrites.length e
  { e with regWrites := d.regWrites ++ e.regWrites }

/-- Where an offset of a function's BAR0 lies in the device register range (R403), opaque elsewhere. -/
def bar0Byte (d : Dev) (f : FnIx) (off : Nat) : Byte :=
  if off < 0x100000 then d.capByte off
  else if off < 0x110000 then d.regPageByte f (off - 0x100000)
  else if 0x200000 ≤ off ∧ off < 0x201000 then d.counterByte f (off - 0x200000)
  else Config.regByte off

/-- A posted write at a function's BAR0: to its register page; the rest is read-only (R393, R416). -/
def bar0Write (d : Dev) (f : FnIx) (off : Nat) (data : List Byte) : Dev :=
  d.inOrder f fun d => { d with
    regWrites := (data.zipIdx.filter fun b => 0x100000 ≤ off + b.2 && off + b.2 < 0x110000).map fun b =>
      (0x100000 + f.val * 0x10000 + (off + b.2 - 0x100000), b.1, f) }

end Dev

namespace State

/-- Changes the die. -/
def onDev (s : State) (f : Dev → Dev) : State := { s with dev := f s.dev }

/-- An answer of a port (log 1). -/
def reply (s : State) (r : Reply) : State := { s with replies := r :: s.replies }

end State

/-- A write of the host over port 0: none arrives while the port is down (R407). -/
def hostWrite (f : State → State) (s : State) : Host.Outcome State Fault Refusal :=
  if !s.board.answers then .fault .moduleOff else .next (if (s.dev.port 0).up then f s else s)

/-! ### Inbound requests -/

/-- The port at which a request arrives. -/
def inPort : InPath → PortIx
  | .pf | .vf _ => 0
  | .peer p => ⟨p.val + 1, by omega⟩

/-- What a byte of an inbound request reaches (Table 19.2, R405): a place under a key, a refusal with UR, or a protected frame. -/
inductive InPlace where
  | at_ (pa : Nat) (key : BitVec 10)
  | refused
  | guarded (pa : Nat)
  deriving DecidableEq, Repr

namespace Dev

/-- A byte of a protected frame, to be written. -/
def guard (d : Dev) (acc : Access) (pa : Nat) (key : BitVec 10) : InPlace :=
  if acc.writes && d.isProtected (pa / 0x10000) then .guarded pa else .at_ pa key

/-- The path of a VF (Table 19.2): through the page tables of its context; a frame in a window is no local memory. -/
def inVf (d : Dev) (v : Fin 8) (off : Nat) (acc : Access) : InPlace :=
  let f : FnIx := ⟨v.val + 1, by omega⟩
  let c := (d.fn f).inctx
  let va := ((d.fn f).inva.toNat + off) % 2 ^ 64
  match d.ownContext f c with
  | none => .refused
  | some x =>
    match d.translate c va acc with
    | .ok t => match paKind t.pa with
      | .dram | .regs => .at_ t.pa t.key
      | _ => .refused
    | .error e =>
      match d.frameAt c x va with
      | some pfn => if e = Code.violation then .guarded (pfn * 0x10000 + va % 0x10000) else .refused
      | none => .refused

/-- What a byte of a request reaches. -/
def inPlace (d : Dev) (path : InPath) (off : Nat) (acc : Access) : InPlace :=
  match path with
  | .pf => d.guard acc off d.pfkey
  | .vf v => d.inVf v off acc
  | .peer p =>
    let r := d.peers[p.val]
    if r.inbase.toNat ≤ off ∧ off ≤ r.inlim.toNat then d.guard acc off r.key else .refused

/-- The function to whose fault ring a refusal goes (R405). -/
def inFn : InPath → FnIx
  | .vf v => ⟨v.val + 1, by omega⟩
  | _ => 0

/-- The places of a whole request: all of them, else the refusal; nothing of a request is performed in part (R407). -/
def inPlaces (d : Dev) (path : InPath) (off n : Nat) (acc : Access) : Except InPlace (List (Nat × BitVec 10)) :=
  (List.range n).foldlM (fun ps i => match d.inPlace path (off + i) acc with
    | .at_ pa key => .ok (ps ++ [(pa, key)])
    | r => Except.error r) []

/-- A request that the link can carry: within the aperture, its port up (R402, R403). -/
def inOk (d : Dev) (path : InPath) (off n limit : Nat) : Bool :=
  (d.port (inPort path)).up && 1 ≤ n && n ≤ limit && off + n ≤ 0x2000000000

/-- A posted write (R404, R405): performed at home, or dropped. -/
def inWrite (d : Dev) (path : InPath) (off : Nat) (data : List Byte) : Dev :=
  if !d.inOk path off data.length 512 then d
  else match d.inPlaces path off data.length .write with
    | .ok ps => d.inOrder (inFn path) fun d => (ps.zip data).foldl (fun d x => d.writePa x.1.2 x.1.1 x.2) d
    | .error (.guarded pa) => d.sendNotice (inFn path) Code.violation pa
    | .error _ => d

/-- What an AtomicOp leaves at its place (Table 19.1). -/
def inResult (n : Nat) (op : InAtomic) (old : Nat) : Nat :=
  let cut (x : DWord) : Nat := x.toNat % 2 ^ (8 * n)
  match op with
  | .fetchAdd a => (old + cut a) % 2 ^ (8 * n)
  | .swap a => cut a
  | .cas cmp new => if old = cut cmp then cut new else old

/-- An AtomicOp (R404, R405): its effect and its completion. -/
def inAtomic (d : Dev) (path : InPath) (off n : Nat) (op : InAtomic) : Dev × Reply :=
  match d.inPlaces path off n .write with
  | .error (.guarded pa) => (d.sendNotice (inFn path) Code.violation pa, .abort)
  | .error _ => (d, .ur)
  | .ok ps =>
    match ps.head? with
    | some (pa, key) =>
      if paKind pa = .regs then (d, .ur)
      else
        let old := d.readBytes key pa n
        (d.writeBytes key pa (leBytes n (inResult n op (leNat old))), .data old)
    | none => (d, .ur)

end Dev

/-! ### The steps -/

/-- RING_DOORBELL (R411). -/
def execRingDoorbell (q : RingIx) (tail : Word) (s : State) : Host.Outcome State Fault Refusal :=
  hostWrite (fun s => s.onDev fun d => d.modRing q fun r => { r with tail := tail }) s

/-- PWRLIM_WRITE (R438): a VF's is discarded. -/
def execPwrlimWrite (fn : FnIx) (watts : Word) (s : State) : Host.Outcome State Fault Refusal :=
  hostWrite (fun s => if fn = 0 then s.onDev fun d => d.putPwrlim (watts.setWidth 16) else s) s

/-- FWLOCK_WRITE (R421): a VF's is discarded. -/
def execFwlockWrite (fn : FnIx) (value : Word) (s : State) : Host.Outcome State Fault Refusal :=
  hostWrite (fun s => if fn = 0 then s.onDev fun d => d.putFwlock value else s) s

/-- REGISTER_WRITE (R415). -/
def execRegisterWrite (fn : FnIx) (offset : Nat) (value : DWord) (s : State) : Host.Outcome State Fault Refusal :=
  hostWrite (fun s => s.onDev fun d => d.putRegister fn fn offset value) s

/-- What a request meets until step 7 of bring-up has finished (R442): ports 1 to 5 answer UR. -/
def inboundOff (path : InPath) (s : State) : Host.Outcome State Fault Refusal :=
  if (inPort path) ≠ 0 ∧ (s.dev.port (inPort path)).up then .next (s.reply .ur) else .fault .moduleOff

/-- INBOUND_READ (R404). -/
def execInboundRead (path : InPath) (offset : Nat) (bytes : Nat) (s : State) : Host.Outcome State Fault Refusal :=
  if !s.board.answers then inboundOff path s
  else if !s.dev.inOk path offset bytes 4096 then .next s
  else match s.dev.inPlaces path offset bytes .read with
    | .ok ps => .next (s.reply (.data (ps.map fun x => s.dev.readPa x.2 x.1)))
    | .error _ => .next (s.reply .ur)

/-- INBOUND_WRITE (R404): a posted write has no completion. -/
def execInboundWrite (path : InPath) (offset : Nat) (data : List Byte) (s : State) : Host.Outcome State Fault Refusal :=
  if !s.board.answers then
    (if (inPort path) ≠ 0 ∧ (s.dev.port (inPort path)).up then .next s else .fault .moduleOff)
  else .next (s.onDev fun d => d.inWrite path offset data)

/-- INBOUND_ATOMIC (R404): at 32 or 64 bits, at an aligned place. -/
def execInboundAtomic (path : InPath) (offset : Nat) (wide : Bool) (op : InAtomic) (s : State) :
    Host.Outcome State Fault Refusal :=
  let n := if wide then 8 else 4
  if !s.board.answers then inboundOff path s
  else if !s.dev.inOk path offset n 8 ∨ offset % n ≠ 0 then .next s
  else
    let r := s.dev.inAtomic path offset n op
    .next ({ s with dev := r.1 }.reply r.2)

/-- A request lies in the 16 MiB of BAR0 and is no longer than its link carries (R402, R403). -/
def bar0Fits (off : Nat) (req : Bar0Req) : Bool :=
  match req with
  | .read n => 1 ≤ n && n ≤ 4096 && off + n ≤ 0x1000000
  | .write data => 1 ≤ data.length && data.length ≤ 512 && off + data.length ≤ 0x1000000
  | .atomic => off < 0x1000000

/-- A request of the host at BAR0 (R403, R416): the capability table and the counter page are read-only, and an AtomicOp is not
performed. -/
def bar0Turn (f : FnIx) (off : Nat) (req : Bar0Req) (s : State) : Host.Outcome State Fault Refusal :=
  if !s.board.answers then .fault .moduleOff
  else if !(s.dev.port 0).up || !bar0Fits off req then .next s
  else match req with
    | .read n => .next (s.reply (.data ((List.range n).map fun i => s.dev.bar0Byte f (off + i))))
    | .write data => .next (s.onDev fun d => d.bar0Write f off data)
    | .atomic => .next (s.reply .ur)

/-- A 128-bit CAS of the host or of a peer is answered UR (R402). -/
def cas128Turn (path : InPath) (s : State) : Host.Outcome State Fault Refusal :=
  if !s.board.answers then inboundOff path s
  else .next (if (s.dev.port (inPort path)).up then s.reply .ur else s)

end Sys2Proof.Machine
end

