-- ==== Sys2Proof/Machine/Ecc.lean ====
section
/-! DEFINITION. Uncorrectable errors as their requesters meet them (R237, R292, R315). -/

namespace Sys2Proof.Machine

namespace Dev

/-- The contexts that hold something of a core: what an error in its SRAM may belong to. -/
def onCore (d : Dev) (k : CoreIx) : List CtxIx :=
  let x := d.core k
  ((d.warps.filter fun y => y.1 == k).map (fun y => y.2.2.ctx) ++ x.allocs.map (·.ctx) ++ x.l1.map (·.ctx) ++
    x.ctxOwner.toList).eraseDups

/-- The live contexts that may use a key ID. -/
def ofKey (d : Dev) (key : BitVec 10) : List CtxIx :=
  (d.contexts.filter fun e => !e.2.ended && e.2.keyLo ≤ key.toNat && key.toNat ≤ e.2.keyHi).map fun e => BitVec.ofNat 12 e.1

/-- A load reads a byte of a sector at home. -/
def readsSector (p : PLoad) (pa : Nat) : Bool :=
  let here (l : Loc) : Bool := match l with
    | .phys a => a / 32 == pa / 32
    | .bank _ _ => false
  (p.lanes.any fun l => l.bytes.any fun b => match b with
    | .home l _ => here l
    | .held _ => false) || p.atom.any fun a => here a.loc

/-- A load has ended with an error response: nothing reaches its destination. -/
def dropLoad (d : Dev) (k : CoreIx) (j : SlotIx) (i : Nat) : Dev :=
  (d.modWarp k j fun w => { w with loads := removeAt i w.loads, ld := w.ld - 1 }).reap k j

/-- A load meets an error in a sector that it reads at home. -/
def eccLoad (d : Dev) (k : CoreIx) (j : SlotIx) (i pa : Nat) : Dev :=
  match (d.slot k j).bind fun w => w.loads[i]? with
  | some p => if readsSector p pa then (d.dropLoad k j i).eccError pa else d
  | none => d

/-- The log entry and the records of a command that ends with ECC in its own context, which takes it along; another context has the
entry of an error that no command meets (R292, R388). -/
def eccCmdLog (c : CopyCmd) (pa : Nat) (x : CtxIx) (d : Dev) : Dev :=
  if x = c.by_.ctx then
    ((d.logError x Reason.ecc c.kind.number (BitVec.ofNat 64 pa) (if c.packet.isNone then some c.by_ else none)).count x 10 1).traceCmd c
      Reason.ecc
  else eccLog pa x d

/-- A command may end with an error. -/
def running (c : CopyCmd) : Bool := c.tile.isNone && c.error.isNone

/-- An accepted command ends with ECC, logged under its own kind (R292), and one of some contexts with it. -/
def eccCmdEnd (d : Dev) (cl : ClusterIx) (c : CopyCmd) (pa : Nat) (own : List CtxIx) : Dev :=
  (d.modCmd cl c.id fun x => { x with error := some (Reason.ecc, BitVec.ofNat 64 pa, x.kind.number) }).eccEnd pa (eccCmdLog c pa) own

/-- An accepted command meets an error at a place that it uses. -/
def eccCommand (d : Dev) (cl : ClusterIx) (id pa : Nat) : Dev :=
  match d.cmd? cl id with
  | some c => if running c && (d.cmdPlaces c).any fun a => a / 32 == pa / 32 then d.eccCmdEnd cl c pa (d.owners pa) else d
  | none => d

/-- The running operation of a core ends with ECC, its tiles NaN and its entry logged (R315), and one of some contexts with it. -/
def eccOpEnd (d : Dev) (k : CoreIx) (by_ : Issuer) (m : Mpb) (tlr : Tlr) (pa : Nat) (own : List CtxIx) : Dev :=
  (d.opError k by_ m tlr Reason.ecc (BitVec.ofNat 64 pa)).eccEnd pa (fun x d => if x = by_.ctx then d else eccLog pa x d) own

/-- The running operation of a core meets an error in a line of weights or scale records that it reads. -/
def eccOperation (d : Dev) (k : CoreIx) (pa : Nat) : Dev :=
  match (d.core k).running with
  | some (.op _ by_ mpb tlr _ _ _ _) =>
    if Mpb.bsrc mpb && (d.linesRead by_.ctx mpb tlr).contains (pa / 128) then d.eccOpEnd k by_ mpb tlr pa (d.owners pa) else d
  | _ => d

/-- The cores whose SRAM an operation reads: its own, with its tiles and tables, and those of A, of B, of its scale records and of its
table buffer in scratchpad (R312, R315). -/
def opCores (k : CoreIx) : MatCmd → List CoreIx
  | .op _ _ _ _ a b s t => k :: ((a ++ b ++ s).map LocalRef.core ++ (t.map fun x => x.1.core).toList)
  | .tbld _ _ p _ => [k, p.core]

/-- An error in the SRAM of a core: the address that is logged is not given. -/
def eccSram (d : Dev) (at_ : CoreIx) (f : Dev → Nat → List CtxIx → Dev) : Dev :=
  let (n, e) := d.drawn
  f e (Config.freeDWord n).toNat (d.onCore at_)

/-- An uncorrectable error met by a requester (R237): its request ends with an error response, and the context of the data ends. -/
def eccMet (d : Dev) (by_ : EccBy) (pa : Nat) : Dev :=
  match by_ with
  | .load k j i => d.eccLoad k j i pa
  | .command cl id => d.eccCommand cl id pa
  | .operation k => d.eccOperation k pa
  | .inbound => d.eccError pa
  | .writeBack key => if d.material key = d.lineMaterial pa then d.eccEnd pa (eccLog pa) (d.ofKey key) else d
  | .sram k => d.eccSram k fun d pa own => d.eccEnd pa (eccLog pa) own
  | .sramLoad k j i m =>
    if ((d.slot k j).bind fun w => w.loads[i]?).isSome then
      d.eccSram m fun d pa own => (d.dropLoad k j i).eccEnd pa (eccLog pa) own
    else d
  | .sramCommand cl id m => match d.cmd? cl id with
    | some c =>
      if running c && (c.place.any fun (p : LocalRef) => p.core == m) then
        d.eccSram m fun d pa own => d.eccCmdEnd cl c pa own
      else d
    | none => d
  | .sramOperation k m => match (d.core k).running with
    | some (.op id by_ mpb tlr a b s t) =>
      if (opCores k (.op id by_ mpb tlr a b s t)).contains m then
        d.eccSram m fun d pa own => d.eccOpEnd k by_ mpb tlr pa own
      else d
    | _ => d

end Dev

/-- An access meets an uncorrectable error; an inbound request is answered with an error, whose form is not given. -/
def eccTurn (by_ : EccBy) (pa : Nat) (s : State) : Host.Outcome State Fault Refusal :=
  agent (fun d => d.eccMet by_ pa) (if by_ = .inbound then
    (s.onDev fun d => { d with draw := d.draw + 1 }).reply (if Config.freeBit s.dev.draw then .ur else .abort) else s)

end Sys2Proof.Machine
end

