-- ==== Sys2Proof/Machine/Packets.lean ====
section
/-! DEFINITION. The bytes of a host packet (R412, R413, Table 19.5), and the packet at a ring's HEAD (R411). -/

namespace Sys2Proof.Machine

/-- A packet as its bytes give it: its header, whether it is of the PF-only ones, and its command where its form is right. -/
structure Packet where
  hdr : PktHdr
  pf : Bool
  cmd : Option Instr
  deriving DecidableEq, Repr

/-- A field of `n` bytes. -/
def pktField (bs : List Byte) (off n : Nat) : Nat := leNat ((bs.drop off).take n)

/-- The header of a packet. -/
def pktHdr (bs : List Byte) : PktHdr :=
  { ctx := BitVec.ofNat 12 (pktField bs 2 2), barrier := (pktField bs 4 1).testBit 0
    caddr := BitVec.ofNat 64 (pktField bs 8 8), cval := BitVec.ofNat 32 (pktField bs 16 4) }

/-- Bytes that no field of the packet uses are zero, the header's reserved bits among them. -/
def pktClear (bs : List Byte) (used : List (Nat × Nat)) : Bool :=
  pktField bs 2 2 / 2 ^ 12 == 0 && pktField bs 4 4 / 2 == 0 && pktField bs 20 4 == 0 &&
    (List.range 40).all fun i =>
      (used.any fun u => u.1 ≤ 24 + i && 24 + i < u.1 + u.2) || pktField bs (24 + i) 1 == 0

/-- The bytes that a packet's body uses (Table 19.5); none for an undefined TYPE or SUB. -/
def pktBody (type sub : Nat) : Option (List (Nat × Nat)) :=
  match type, sub with
  | 1, 0 => some [(24, 8)]
  | 2, 0 | 2, 1 | 3, 0 | 3, 1 => some [(24, 8), (32, 8)]
  | 4, 0 => some [(24, 8), (32, 4), (36, 1), (37, 1), (40, 8)]
  | 5, 0 => some []
  | 6, 0 | 7, 0 | 7, 1 => some [(24, 8), (32, 4)]
  | 6, 1 => some [(24, 8), (32, 4), (36, 4), (40, 1)]
  | 6, 2 => some [(24, 8), (32, 4), (40, 1)]
  | 6, 3 | 6, 4 => some [(24, 2), (32, 8)]
  | 6, 5 => some [(24, 1), (25, 1)]
  | 7, 2 => some [(32, 4)]
  | 7, 3 | 7, 4 => some [(24, 2)]
  | 8, 0 => some [(24, 4), (28, 4)]
  | _, _ => none

/-- The PF-only packets (R412). -/
def pktPf (type sub : Nat) : Bool := (type == 6 && 3 ≤ sub && sub ≤ 5) || (type == 7 && (sub == 3 || sub == 4))

/-- The command of a packet whose bytes are in form. -/
def pktCmd (q : RingIx) (bs : List Byte) : Option Instr :=
  let h := pktHdr bs
  let a := BitVec.ofNat 64 (pktField bs 24 8)
  let b := BitVec.ofNat 64 (pktField bs 32 8)
  let n := BitVec.ofNat 32 (pktField bs 32 4)
  let k := BitVec.ofNat 16 (pktField bs 24 2)
  let asked := (pktField bs 40 1).testBit 0
  match pktField bs 0 1, pktField bs 1 1 with
  | 1, 0 => some (.launch q h a)
  | 2, 0 => some (.signalWrite q h a b)
  | 2, 1 => some (.signalAdd q h a b)
  | 3, 0 => some (.waitGe q h a b)
  | 3, 1 => some (.waitEq q h a b)
  | 4, 0 => some (.traceStart q h a n (BitVec.ofNat 8 (pktField bs 36 1)) (BitVec.ofNat 8 (pktField bs 37 1))
      (BitVec.ofNat 64 (pktField bs 40 8)))
  | 5, 0 => some (.traceStop q h)
  | 6, 0 => some (.mapPages q h a n)
  | 6, 1 => some (.mapExec q h a n (BitVec.ofNat 32 (pktField bs 36 4)) asked)
  | 6, 2 => some (.mapCode q h a n asked)
  | 6, 3 => some (.mapKey q h k b)
  | 6, 4 => some (.mapContext q h k b)
  | 6, 5 => some (.mapFuse q h (BitVec.ofNat 8 (pktField bs 24 1)) (BitVec.ofNat 8 (pktField bs 25 1)))
  | 7, 0 => some (.unmapPages q h a n)
  | 7, 1 => some (.unmapExec q h a n)
  | 7, 2 => some (.unmapCode q h n)
  | 7, 3 => some (.unmapKey q h k)
  | 7, 4 => some (.unmapContext q h k)
  | 8, 0 => some (.statMerge q h (BitVec.ofNat 32 (pktField bs 24 4)) (BitVec.ofNat 32 (pktField bs 28 4)))
  | _, _ => none

/-- The interlocked byte of MAP EXEC and MAP CODE holds 0 or 1. -/
def pktFlag (type sub : Nat) (bs : List Byte) : Bool := !(type == 6 && (sub == 1 || sub == 2)) || pktField bs 40 1 ≤ 1

/-- A packet from its 64 bytes (R412, R413). -/
def readPacket (q : RingIx) (bs : List Byte) : Packet :=
  let type := pktField bs 0 1
  let sub := pktField bs 1 1
  let ok := match pktBody type sub with
    | some used => pktClear bs used && pktFlag type sub bs
    | none => false
  { hdr := pktHdr bs, pf := pktPf type sub, cmd := if ok then pktCmd q bs else none }

namespace Dev

/-- The packet at a ring's HEAD (R411), where the firmware can read it (R407, R421). -/
def headPacket (d : Dev) (q : RingIx) : Option Packet :=
  let r := d.ring q
  let pa := r.base.toNat + 64 * (r.head.toNat % 2 ^ r.logn.toNat)
  if !r.enable || r.head == r.tail || !d.reachable r.base.toNat || !d.fwSent pa 64 then none
  else some (readPacket q (d.rawBytes pa 64))

/-- Reading a ring in a window pushes the port's posted writes home (R406). -/
def behindRing (d : Dev) (q : RingIx) : Dev :=
  match portOf (d.ring q).base.toNat with
  | some p => if (d.port p).up then d.drainPort p else d
  | none => d

end Dev

/-- An instruction that a packet carries. -/
def isPacket : Instr → Bool
  | .launch _ _ _ | .signalWrite _ _ _ _ | .signalAdd _ _ _ _ | .waitGe _ _ _ _ | .waitEq _ _ _ _
  | .traceStart _ _ _ _ _ _ _ | .traceStop _ _ | .mapPages _ _ _ _ | .mapExec _ _ _ _ _ _ | .mapCode _ _ _ _ _
  | .mapKey _ _ _ _ | .mapContext _ _ _ _ | .mapFuse _ _ _ _ | .unmapPages _ _ _ _ | .unmapExec _ _ _ _
  | .unmapCode _ _ _ | .unmapKey _ _ _ | .unmapContext _ _ _ | .statMerge _ _ _ _ => true
  | _ => false

end Sys2Proof.Machine
end

