-- ==== Sys2Proof/Machine/Band.lean ====
section
/-! DEFINITION. The band and task group (Table 3.8): JOIN, LEAVE, BAR and BARV (R191 to R195), SPAWN (R196) and DEPDEC
(R197). -/

namespace Sys2Proof.Machine

namespace Site

/-- BAND with its reason (Table 7.1). -/
def bandFault (x : Site) (reason : Nat) : Act :=
  .fault x.d (.warpWide Code.band x.p 0 (BitVec.ofNat 32 reason))

/-- The warp's task. -/
def task (x : Site) : Option Task := x.d.task? x.w.task

/-- SPBYTES of the warp's task. -/
def spbytes (x : Site) : Nat :=
  match x.task with
  | some t => t.spbytes
  | none => 0

/-- Makes an allocation of SPBYTES on the warp's core for an owner, where it fits (R218). -/
def carveFor (x : Site) (d : Dev) (o : Owner) : Option Dev :=
  if x.spbytes = 0 then some d
  else
    let (n, d) := d.drawn
    ((d.core x.k).carve x.spbytes (Config.freeNat n)).map fun start =>
    let (id, d) := d.freshId
    d.modCore x.k fun c => c.allocate { id := id, owner := o, ctx := x.w.ctx, start := start, bytes := x.spbytes }

/-- JOIN with −1 (R192). -/
def joinNew (x : Site) (wd : Fin 32) : Act :=
  let bands := (x.d.cluster x.cl).bands
  match (List.range 256).find? fun n => !(bands.any fun b => b.id.toNat == n) with
  | none => x.bandFault 5
  | some n =>
    let id : BitVec 8 := BitVec.ofNat 8 n
    match x.carveFor x.d (.band id) with
    | none => x.bandFault 6
    | some d =>
      let band : Band := {
        id := id, task := x.w.task, ctx := x.w.ctx, gang := x.task.any Task.gang, home := x.k, members := [⟨x.k, x.j, x.w.uid⟩]
        coming := [], arrived := [], joins := [], generation := 0 }
      let d := d.modCluster x.cl fun c => { c with bands := c.bands ++ [band] }
      .done (d.modWarp x.k x.j fun w => { w with band := some id }.setW wd (id.setWidth 32) .i32)

/-- The most members that a band may have with one more on a core (R165). -/
def bandLimit (b : Band) (k : CoreIx) : Nat :=
  if b.gang && !(b.coming ++ b.members.map (·.core) ++ b.joins.map (·.1.core)).all (· == k) then 512 else 64

/-- JOIN of a live band (R192): a pending join, for which the warp waits. -/
def joinLive (x : Site) (wd : Fin 32) (id : Word) : Act :=
  match if 255 < id.toNat then none else x.d.band? x.cl (id.setWidth 8) with
  | none => x.bandFault 3
  | some b =>
    let held := (x.d.allocOf x.k (.band b.id)).isSome || (x.d.allocOf x.k (.reserved b.id)).isSome
    if b.task ≠ x.w.task then x.bandFault 3
    else if bandLimit b x.k < b.members.length + b.coming.length + b.joins.length + 1 then x.bandFault 4
    else match if held then some x.d else x.carveFor x.d (.reserved b.id) with
      | none => x.bandFault 6
      | some _ =>
        if !b.gang && b.home != x.k then x.bandFault 7
        else x.releaseThen (Dev.bandScope b) fun d =>
          match if held then some d else x.carveFor d (.reserved b.id) with
          | none => x.bandFault 6
          | some d =>
            .wait (d.modBand x.cl b.id fun y => { y with joins := y.joins ++ [(⟨x.k, x.j, x.w.uid⟩, wd)] }) .joining

/-- JOIN (R192, R195). -/
def joinBand (x : Site) (wd : Fin 32) (a : Opnd) : Act :=
  if !x.v.has .i32 1 a then x.format
  else if x.w.band.isSome then x.bandFault 2
  else
    let id := x.v.uniform a
    if id = 0xFFFFFFFF#32 then x.joinNew wd else x.joinLive wd id

/-- The warp arrives after its release and waits for the generation's end (R191, R194). -/
def arriveAndWait (x : Site) (a : Arrival) : Act :=
  match x.d.bandOf x.k x.w with
  | none => x.bandFault 1
  | some b => x.releaseThen (Dev.bandScope b) fun d =>
      .placed ((d.modWarp x.k x.j fun w => { w with wait := some .barrier }).arrive x.k x.j b.id a)

/-- LEAVE (R193). -/
def leaveBand (x : Site) : Act :=
  match x.d.bandOf x.k x.w with
  | none => x.bandFault 1
  | some b => x.releaseThen (Dev.bandScope b) fun d =>
      let d := (d.modWarp x.k x.j fun w => { w with band := none }).acquire x.k x.w.ctx (Dev.bandScope b)
      .done (d.arrive x.k x.j b.id .leave)

/-- SPAWN (R196). -/
def spawnTasks (x : Site) (a : Opnd) : Act :=
  if !x.v.has .i64 2 a then x.format
  else match x.places .global a 0 64 .read (lanesOf x.p) with
    | .error f => .fault x.d f
    | .ok (d, ps) => { x with d := d }.releaseThen .die fun d =>
        if !(Dev.grantsAll (d.cluster x.cl) 3 ps.length) then .hold d .queue
        else .done (ps.foldl (fun (d : Dev) (p : Place) => (d.submit {
          ctx := x.w.ctx, va := p.addr.toNat, cluster := x.cl, by_ := some x.issuer, packet := none }).1)
          ((d.commit x.w.task).takeEntries x.cl 3 ps.length))

/-- DEPDEC (R197). -/
def decrement (x : Site) (a b : Opnd) : Act :=
  if !(x.v.has .i32 1 a && x.v.has .i32 1 b) then x.format
  else
    let ref := x.v.uniform a
    let n := x.v.uniform b
    let bad (reason : Nat) : Act := x.param reason (pairOf ref n)
    let r := Dev.depRef (ref.setWidth 16)
    if fieldOf ref 31 16 ≠ 0 ∨ fieldOf n 31 17 ≠ 0 then bad 1
    else if !ref.getLsbD 15 then bad 2
    else if !x.d.clusterOn r.1 then bad 3
    else x.releaseThen .die fun d =>
      .done ((d.commit x.w.task).sendDecs r.1 r.2 (n.getLsbD 16) (n.toNat % 2 ^ 16)
        (some x.k.val))

end Site

def execJoin (c : Ctl) (d : Fin 32) (a : Opnd) (imm : Word) (s : State) : Host.Outcome State Fault Refusal :=
  issue (.join c d a imm) c imm (fun x => x.joinBand d a) s

def execLeave (c : Ctl) (s : State) : Host.Outcome State Fault Refusal :=
  issue (.leave c) c 0 (fun x => x.leaveBand) s

def execBar (c : Ctl) (s : State) : Host.Outcome State Fault Refusal :=
  issue (.bar c) c 0 (fun x => x.arriveAndWait .bar) s

def execBarv (c : Ctl) (any : Bool) (pd pa : Fin 8) (s : State) : Host.Outcome State Fault Refusal :=
  issue (.barv c any pd pa) c 0 (fun x => x.arriveAndWait (.vote any pd x.p (x.v.r.pred pa))) s

def execSpawn (c : Ctl) (a : Opnd) (imm : Word) (s : State) : Host.Outcome State Fault Refusal :=
  issue (.spawn c a imm) c imm (fun x => x.spawnTasks a) s

def execDepdec (c : Ctl) (a b : Opnd) (imm : Word) (s : State) : Host.Outcome State Fault Refusal :=
  issue (.depdec c a b imm) c imm (fun x => x.decrement a b) s

end Sys2Proof.Machine
end

