-- ==== Sys2Proof/Machine/Control.lean ====
section
/-! DEFINITION. The control group (Table 3.4, R122 to R134): transfers of control, the reconvergence stack, traps and the
handler's return, waiting and sleeping. -/

namespace Sys2Proof.Machine

/-- The PC that an offset names (R77). -/
def pcPlus (pc : DWord) (off : Word) : DWord := pc + off.signExtend 64

/-! ### Transfers (R123) -/

/-- Lanes with their common destination, in order of each group's lowest lane. -/
def groupLanes (dest : Lane → DWord) : List Lane → List (DWord × Mask)
  | [] => []
  | l :: t =>
    let rest := groupLanes dest t
    let mine := (rest.find? fun g => g.1 == dest l).elim 0 (·.2)
    (dest l, mine ||| (1#32 <<< l.val)) :: rest.filter fun g => g.1 != dest l

/-- Pushes a group's pending entry, or joins it to a pending top entry of the same PC. -/
def pushPending (s : List StackEntry) (g : DWord × Mask) : List StackEntry :=
  match s with
  | e :: t => if e.pending && e.pc == g.1 then { e with mask := e.mask ||| g.2 } :: t
      else { mask := g.2, pending := true, pc := g.1 } :: s
  | [] => [{ mask := g.2, pending := true, pc := g.1 }]

/-- The common step of a transfer; none where the stack would hold more than 16 entries. -/
def Warp.transfer (w : Warp) (dest : Lane → DWord) : Option Warp :=
  let w := { w with wait := none, skip := 0, pass := false }
  match (groupLanes dest (lanesOf w.m)).filter fun g => w.jpc != some g.1 with
  | [] => some (w.toPc (w.jpc.getD w.pc))
  | g :: rest =>
    let s := rest.reverse.foldl pushPending w.stack
    if 16 < s.length then none else some ({ w with stack := s, m := g.2 }.toPc g.1)

/-- The program counter that a 64-bit target names: a zero-extended one is that program counter (Table 5.2, log 45). -/
def targetPc (a : DWord) : DWord := if a.toNat < 2 ^ 57 then BitVec.ofNat 64 (canon57 a.toNat) else a

/-- A transfer of the guarded lanes to a target, the other lanes of M going on (R123). -/
def Site.jump (x : Site) (w : Warp) (target : Lane → DWord) : Act :=
  let dest (l : Lane) : DWord := if x.p.getLsbD l.val then targetPc (target l) else Dev.nextPc x.w.pc
  match FaultInfo.ofLanes ((lanesOf x.w.m).filterMap fun l =>
      ((x.d.via x.k).fetchFault x.w.ctx (dest l).toNat).map fun c => { lane := l, cause := c, addr := dest l }) with
  | some f => .fault x.d f
  | none =>
    match w.transfer dest with
    | some w => .goto (x.put w)
    | none => .fault x.d (.warpWide Code.stack x.p)

/-- CALL's write of the next program counter, 57 bits zero-extended (R121, R123). -/
def Site.link (x : Site) (d : Dst) : Warp :=
  x.w.setPair d x.p (fun _ => BitVec.ofNat 64 (va57 (Dev.nextPc x.w.pc).toNat)) .i64

/-- NOP (R131). -/
def execNop (c : Ctl) (s : State) : Host.Outcome State Fault Refusal :=
  issue (.nop c) c 0 (fun x => .done x.d) s

/-- BRA (Table 5.2). -/
def execBra (c : Ctl) (off : Word) (s : State) : Host.Outcome State Fault Refusal :=
  issue (.bra c off) c 0 (fun x => x.jump x.w fun _ => pcPlus x.w.pc off) s

/-- BRX (Table 5.2). -/
def execBrx (c : Ctl) (a : Opnd) (imm : Word) (s : State) : Host.Outcome State Fault Refusal :=
  issue (.brx c a imm) c imm (fun x => if x.v.isInt true a then x.jump x.w (x.v.pair a) else x.format) s

/-- CALL.direct (Table 5.2). -/
def execCallDirect (c : Ctl) (d : Dst) (off : Word) (s : State) : Host.Outcome State Fault Refusal :=
  issue (.callDirect c d off) c 0 (fun x => x.jump (x.link d) fun _ => pcPlus x.w.pc off) s

/-- CALL.indirect (Table 5.2): the target is read before the return address is written. -/
def execCallIndirect (c : Ctl) (d : Dst) (a : Opnd) (imm : Word) (s : State) : Host.Outcome State Fault Refusal :=
  issue (.callIndirect c d a imm) c imm
    (fun x => if x.v.isInt true a then x.jump (x.link d) (x.v.pair a) else x.format) s

/-- RET (Table 5.2). -/
def execRet (c : Ctl) (a : Opnd) (imm : Word) (s : State) : Host.Outcome State Fault Refusal :=
  issue (.ret c a imm) c imm (fun x => if x.v.isInt true a then x.jump x.w (x.v.pair a) else x.format) s

/-! ### The stack and the warp's end -/

/-- RCV (R124). -/
def Site.recv (x : Site) (label : DWord) : Act :=
  match x.w.stack with
  | e :: _ =>
    if !e.pending && e.pc == label then .done x.d
    else if 16 ≤ x.w.stack.length then .fault x.d (.warpWide Code.stack x.p)
    else .done (x.put { x.w with stack := { mask := x.w.m, pending := false, pc := label } :: x.w.stack })
  | [] => .done (x.put { x.w with stack := [{ mask := x.w.m, pending := false, pc := label }] })

def execRcv (c : Ctl) (off : Word) (s : State) : Host.Outcome State Fault Refusal :=
  issue (.rcv c off) c 0 (fun x => x.recv (pcPlus x.w.pc off)) s

/-- EXIT (R125), with the release of a warp that ends (R142, R252, R371). -/
def Site.leaveLanes (x : Site) : Act :=
  let w : Warp := { x.w with
    x := x.w.x ||| x.p, m := x.w.m &&& ~~~x.p, wait := none, skip := 0, pass := false }
  if w.m ≠ 0 then
    match x.d.seqFault x.k x.w with
    | some code => .fault x.d (Dev.fetchInfo code w.m (Dev.nextPc x.w.pc))
    | none => .goto (x.put (w.toPc (Dev.nextPc x.w.pc)))
  else
    let w := Warp.settlePath 32 w
    if w.isOver then
      x.releaseThen .cluster fun d => .goto (d.modWarp x.k x.j fun y => { y with
        x := w.x, m := 0, stack := [], wait := none, skip := 0, pass := false })
    else .goto (x.put w)

def execExit (c : Ctl) (s : State) : Host.Outcome State Fault Refusal := issue (.exit c) c 0 Site.leaveLanes s

/-- YIELD (R131): the preference is set at issue. -/
def execYield (c : Ctl) (s : State) : Host.Outcome State Fault Refusal :=
  issue (.yield c) c 0 (fun x => .done x.d) s

/-! ### Traps -/

/-- A trap with its code, the instruction complete (R126). -/
def Site.trap (x : Site) (kind : Nat) (code : Word) : Act :=
  .fault x.d { FaultInfo.warpWide kind x.p 0 code with complete := true }

def execTrap (c : Ctl) (code : BitVec 16) (s : State) : Host.Outcome State Fault Refusal :=
  issue (.trap c code) c 0 (fun x => x.trap Code.trap (code.setWidth 32)) s

def execBrk (c : Ctl) (code : BitVec 16) (s : State) : Host.Outcome State Fault Refusal :=
  issue (.brk c code) c 0 (fun x => x.trap Code.brk (code.setWidth 32)) s

/-- RTE (R128, R367): the state of the record returns, and HACT decides. -/
def Site.ret (x : Site) : Act :=
  match x.w.inHandler, x.w.record with
  | true, some r =>
    let w : Warp := { Dev.restoreRecord x.w r with
      pc := x.w.parkPc, inHandler := false, record := none, wait := none, skip := 0, pass := false }
    let go (skip : Mask) : Act :=
      .goto (x.put (if Dev.recordComplete r then w.finish else { w with skip := skip }))
    match (r[240]).toNat % 4 with
    | 0 => go 0
    | 1 => go r[241]
    | 2 => .goto ((x.put w).kill x.k x.j)
    | _ => .goto ((x.put { w with record := some r, status := .parked }).sendRecord x.cl x.w.ctx r)
  | _, _ => x.trap Code.trap 0x10000

def execRte (c : Ctl) (s : State) : Host.Outcome State Fault Refusal := issue (.rte c) c 0 Site.ret s

/-! ### Prefetch, waiting and sleeping -/

/-- Asks for a line of the instruction cache (R133, R134): nothing where it is present, being filled, or cannot be
fetched, or no fill slot is free. -/
def Dev.prefetchCode (d : Dev) (k : CoreIx) (c : CtxIx) (va : Nat) : Dev :=
  let line := va57 va / 256 * 256
  let x := d.core k
  let there := (x.icache.any fun l => l.ctx == c && l.va == line) || x.fills.any fun f => f.ctx == c && f.va == line
  match (d.via k).fetchPage c (canon57 line) with
  | .error _ => d
  | .ok _ => if there || 8 ≤ x.fills.length then d
      else d.modCore k fun y => { y with fills := y.fills ++ [{ ctx := c, va := line, demand := false }] }

/-- PFI (R134). -/
def execPfi (c : Ctl) (lines : Fin 4) (off : Word) (s : State) : Host.Outcome State Fault Refusal :=
  issue (.pfi c lines off) c 0 (fun x =>
    .done ((List.range (lines.val + 1)).foldl
      (fun d i => d.prefetchCode x.k x.w.ctx ((pcPlus x.w.pc off).toNat / 256 * 256 + 256 * i)) x.d)) s

/-- WAITC (R24, R129), with the release of a wait on STCNT (R142, R252), which goes on to its end once it has begun. -/
def Site.waitCounters (x : Site) (ld st cp tl : Nat) : Act :=
  let done (w : Warp) : Bool := w.ld ≤ ld && w.st ≤ st && w.cp ≤ cp && w.tl ≤ tl
  let wait (d : Dev) : Act := if (d.slot x.k x.j).any done then .done d else .hold d (.waitc ld st cp tl)
  if st < x.w.st || x.w.releasing then x.releaseThen .cluster wait else wait x.d

def execWaitc (c : Ctl) (ld st cp tl : BitVec 6) (s : State) : Host.Outcome State Fault Refusal :=
  issue (.waitc c ld st cp tl) c 0 (fun x => x.waitCounters ld.toNat st.toNat cp.toNat tl.toNat) s

/-- SLEEP (R130): SLEEP_EXPIRY ends it, and so does a pre-emption or halt request, one pending at its issue included (R373). -/
def execSleep (c : Ctl) (cycles : BitVec 24) (s : State) : Host.Outcome State Fault Refusal :=
  issue (.sleep c cycles) c 0
    (fun x => if cycles = 0 ∨ x.w.preempt ∨ x.w.haltPend then .done x.d else .wait x.d (.sleep x.d.clock cycles.toNat)) s

end Sys2Proof.Machine
end

