-- ==== Sys2Proof/Machine/Conv.lean ====
section
/-! DEFINITION. Conversions and moves of packed elements (Table 3.7, R115 to R118). -/

namespace Sys2Proof.Machine

/-- Bits of a conversion type's value. -/
def typBits : Typ → Nat
  | .l8a | .l8b | .e4m3 | .e5m2 => 8
  | .l16 | .f16 | .bf16 => 16
  | .i64 | .n64 => 64
  | _ => 32

/-- The tag that a conversion's result takes (R115). -/
def typTag (t : Typ) : Tag :=
  match t.fmt? with
  | some f => f.tag
  | none => match t with
    | .i32 | .n32 => .i32
    | .i64 | .n64 => .i64
    | _ => .raw

namespace Site

/-- The tags of a conversion's source (R115). -/
def cvtOk (x : Site) (st : Typ) (a : Opnd) : Bool :=
  match st.fmt? with
  | some f => x.isReal f a
  | none => match st with
    | .i32 | .n32 => x.v.isInt false a
    | .i64 | .n64 => x.v.isInt true a
    | _ => x.v.defined 1 a

/-- The source bits of a conversion (R115). -/
def cvtBits (x : Site) (st : Typ) (a : Opnd) (l : Lane) : Nat :=
  match st.fmt? with
  | some f => (x.v.real f a l).toNat % 2 ^ typBits st
  | none => if st.is64 then (x.v.pair a l).toNat else (x.v.word a l).toNat % 2 ^ typBits st

end Site

/-- CVT (R115, R116). -/
def execCvt (c : Ctl) (o : D1) (dst src : Typ) (rnd : Rnd) (ov : Ov) (s : State) : Host.Outcome State Fault Refusal :=
  issue (.cvt c o dst src rnd ov) c (BitVec.ofNat 32 ov.code) (fun x =>
    if x.cvtOk src o.a then
      x.eventful o.d 0
        (fun l => convert dst src (x.rctx rnd ov l 0) (modeSubIn x.v.r.mode) false (x.cvtBits src o.a l))
        (fun r => x.w.setStar dst.is64 o.d x.p r (typTag dst))
    else x.format) s

/-- PACK (R117). -/
def execPack (c : Ctl) (o : D3) (imm : Word) (fmt : Fmt) (half : Bool) (s : State) :
    Host.Outcome State Fault Refusal :=
  issue (.pack c o imm fmt half) c imm (fun x =>
    let e := fmt.elem
    let n := e.bits
    let k := if half then 2 else 0
    x.regs (checked x.v (x.isReal e o.a && x.isReal e o.b && x.isReal fmt o.c)
      (x.w.setDst o.d 0 x.p (fun l =>
        let a := (x.v.real e o.a l).toNat % 2 ^ n
        let b := (x.v.real e o.b l).toNat % 2 ^ n
        let r := (x.v.real fmt o.c l).toNat
        BitVec.ofNat 32 ((List.range fmt.count).foldl (fun w j =>
          w + (if j = k then a else if j = k + 1 then b else r / 2 ^ (n * j) % 2 ^ n) * 2 ^ (n * j)) 0)) fmt.tag))) s

/-- UNPK (R118). -/
def execUnpk (c : Ctl) (o : D1) (imm : Word) (fmt : Fmt) (elem : Fin 4) (s : State) :
    Host.Outcome State Fault Refusal :=
  issue (.unpk c o imm fmt elem) c imm (fun x =>
    let n := fmt.elem.bits
    x.regs (checked x.v (x.isReal fmt o.a)
      (x.w.setDst o.d 0 x.p (fun l =>
        BitVec.ofNat 32 ((x.v.real fmt o.a l).toNat / 2 ^ (n * elem.val) % 2 ^ n)) fmt.elem.tag))) s

end Sys2Proof.Machine
end

