-- ==== Sys2Proof/Machine/Lane.lean ====
section
/-! DEFINITION. The lane group (Table 3.7, R183 to R190): reads of other lanes, votes and reductions. -/

namespace Sys2Proof.Machine

/-- The source lane of LPICK (R185). -/
def pickLane (mode : PickMode) (l : Lane) (b : Word) : Lane :=
  let c := b.toNat % 256
  match mode with
  | .idx => ⟨c % 32, Nat.mod_lt _ (by decide)⟩
  | .up => if h : c ≤ l.val then ⟨l.val - c, by omega⟩ else l
  | .down => if h : l.val + c ≤ 31 then ⟨l.val + c, by omega⟩ else l
  | .xor => ⟨(l.val ^^^ c % 32) % 32, Nat.mod_lt _ (by decide)⟩

/-- LPICK (R185). -/
def execLpick (c : Ctl) (o : D2) (imm : Word) (mode : PickMode) (w : Bool) (s : State) :
    Host.Outcome State Fault Refusal :=
  issue (.lpick c o imm mode w) c imm (fun x =>
    let t (i : Nat) : Tag := (x.v.tagAt o.a i).getD (if w then .i64 else .i32)
    x.regs (checked x.v (x.v.isBits w o.a && x.v.isInt false o.b)
      (x.move o.d w (fun l => x.moved w o.a (pickLane mode l (x.v.word o.b l))) (t 0) (t 1)))) s

/-- The partner of a lane along lane bit k (R186). -/
def partner (k : Fin 5) (l : Lane) : Lane := ⟨(l.val ^^^ 2 ^ k.val) % 32, Nat.mod_lt _ (by decide)⟩

/-- BFLY (R186). -/
def execBfly (c : Ctl) (d a b : Fin 64) (k : Fin 5) (s : State) : Host.Outcome State Fault Refusal :=
  issue (.bfly c d a b k) c 0 (fun x =>
    let t := x.v.r.vTag a
    x.regs (checked x.v (t == x.v.r.vTag b && t != .undef)
      (x.w.setDst (.v d) 0 x.p (fun l =>
        tagHeld t (if l.val.testBit k.val = a.val.testBit k.val then x.v.r.vAt a l else x.v.r.vAt b (partner k l))) t))) s

/-- PREDX (R187). -/
def execPredx (c : Ctl) (form : PredxForm) (pa : Fin 8) (s : State) : Host.Outcome State Fault Refusal :=
  issue (.predx c form pa) c 0 (fun x =>
    let on := x.v.r.pred pa &&& x.p
    let all (b : Bool) : Mask := if b then Mask.all else 0
    .done (x.put (match form with
      | .all pd => x.w.setPred pd x.p (all (on == x.p))
      | .any pd => x.w.setPred pd x.p (all (on != 0))
      | .uni pd => x.w.setPred pd x.p (all (on == x.p || on == 0))
      | .map d => x.w.setDst d 0 x.p (fun _ => on) .i32))) s

/-! ### The reduction tree (R188) -/

/-- One level of the tree: neighbouring pairs, absent values passing the other through; the events of its nodes. -/
def treeLevel {α : Type} (node : Nat → α → α → α × Events) : Nat → List (Option α) → List (Option α) × Events
  | i, x :: y :: t =>
    let rest := treeLevel node (i + 1) t
    match x, y with
    | some a, some b => let r := node i a b; (some r.1 :: rest.1, r.2 ||| rest.2)
    | some a, none => (some a :: rest.1, rest.2)
    | none, b => (b :: rest.1, rest.2)
  | _, l => (l, 0)

/-- The tree over the lanes of a mask, levels 1 to 5; node takes its level and position. -/
def treeReduce {α : Type} (node : Nat → Nat → α → α → α × Events) (p : Mask) (a : Lane → α) : Option α × Events :=
  let leaves := (List.finRange 32).map fun l => if p.getLsbD l.val then some (a l) else none
  let r := [1, 2, 3, 4, 5].foldl (fun (x : List (Option α) × Events) v =>
    let y := treeLevel (node v) 0 x.1
    (y.1, x.2 ||| y.2)) (leaves, 0)
  (r.1.head?.join, r.2)

/-- A node of an integer reduction (R188). -/
def redNode (k : RedInt) (wide uns : Bool) (a b : Nat) : Nat :=
  let n := starBits wide
  let val (z : Nat) : Int := if uns then z else sextN n z
  match k with
  | .iadd => (a + b) % 2 ^ n
  | .imin => if val b < val a then b else a
  | .imax => if val a < val b then b else a
  | .and => a &&& b
  | .or => a ||| b
  | .xor => a ^^^ b

/-- A reduction of reals with its node operation on the codes of its operands (R47, R188, log 97). -/
def Site.redReal (x : Site) (o : D1) (f : Fmt) (node : Nat → Nat → Word → Word → Word × Events) : Act :=
  if x.isReal f o.a then
    let r := treeReduce node x.p (x.v.realCode f o.a)
    if trapped x.v.r.mode r.2 then .fault x.d (.arith ((lanesOf x.p).map fun l => (l, r.2)))
    else .done (x.put (x.w.setDst o.d 0 x.p (fun _ => r.1.getD 0) f.tag))
  else x.format

/-- REDX (R188, R189). -/
def execRedx (c : Ctl) (o : D1) (imm : Word) (op : RedOp) (s : State) : Host.Outcome State Fault Refusal :=
  issue (.redx c o imm op) c imm (fun x =>
    match op with
    | .int k wide uns =>
      let ok := match k with
        | .iadd | .imin | .imax => x.v.isInt wide o.a
        | .and | .or | .xor => x.v.isBits wide o.a
      let r := treeReduce (fun _ _ a b => (redNode k wide uns a b, 0)) x.p (x.v.bits wide o.a)
      x.regs (checked x.v ok (x.w.setStar wide o.d x.p fun _ => r.1.getD 0))
    | .gadd f rnd =>
      x.redReal o f fun v i a b =>
        let sr := mix (x.v.sp[11] ^^^ x.v.sp[10]) (a ^^^ b.rotateLeft 11 ^^^ (BitVec.ofNat 32 (2 ^ v * i) <<< 24))
        let r := RealOp.add f (rctxOf x.v.r.mode rnd .dflt sr) (elemOf f a 0) (elemOf f b 0)
        (ofElems f [r.1], r.2)
    | .gmin f => x.redReal o f fun _ _ a b => (ofElems f [RealOp.pick f false (elemOf f a 0) (elemOf f b 0)], 0)
    | .gmax f => x.redReal o f fun _ _ a b => (ofElems f [RealOp.pick f true (elemOf f a 0) (elemOf f b 0)], 0)) s

/-- ELECT (R190). -/
def execElect (c : Ctl) (pd : Fin 8) (s : State) : Host.Outcome State Fault Refusal :=
  issue (.elect c pd) c 0 (fun x =>
    .done (x.put (x.w.setPred pd x.p (match lowestLane x.p with
      | some l => 1#32 <<< l.val
      | none => 0)))) s

end Sys2Proof.Machine
end

