-- ==== Sys2Proof/Machine/Power.lean ====
section
/-! DEFINITION. Ports (R304, R407, R442), the power clamp and the trip (R438, R439), cold reset (R441), and the watchdogs of the
firmware cores (R422). -/

namespace Sys2Proof.Machine

namespace Dev

/-! ### Ports -/

/-- The oldest posted write of a port reaches its target (R406). -/
def arriveOne (d : Dev) (p : PortIx) : Dev :=
  match (d.port p).posted with
  | [] => d.settleHome
  | w :: rest =>
    ((w.bytes.foldl (fun d b => d.writePa 0 b.1 b.2) d).modPort p fun x => { x with
      posted := rest, zreads := x.zreads.map fun z => (z.1 - 1, z.2) }).settleHome

/-- A link goes down under its posted writes: how many of the oldest have reached home is free, the others are lost. -/
def losePosted (d : Dev) (p : PortIx) : Dev × List Posted :=
  let (n, d) := d.drawn
  let ps := (d.port p).posted
  let m := Config.freeNat n % (ps.length + 1)
  let d := (ps.take m).foldl (fun d w => w.bytes.foldl (fun d b => d.writePa 0 b.1 b.2) d) d
  (d, ps.drop m)

/-- A warp's window accesses that a link's end fails (R407): their lanes and addresses, if it has one. -/
def failedLanes (d : Dev) (p : PortIx) (lost : List Posted) (k : CoreIx) (j : SlotIx) (w : Warp) : Option (List LaneCause) :=
  let cause (x : PortIx × Lane × DWord) : LaneCause := { lane := x.2.1, cause := Code.link, addr := x.2.2 }
  let mine := ((w.loads.flatMap (·.win)) ++ w.stores.flatMap (·.win)).filter fun x => x.1 == p
  if !mine.isEmpty then some (mine.map cause)
  else if ((d.port p).zreads.any fun z => z.2 == some (k, j)) ||
      (w.ports.contains p && lost.any fun x => x.by_ == some (k, j)) then
    some ((lanesOf w.m).map fun l => { lane := l, cause := Code.link, addr := Config.freeDWord (d.draw + (k.val * 64 + j.val) * 32 + l.val) })
  else none

/-- LINK of a warp whose task has not ended (R372). -/
def failWarp (d : Dev) (x : CoreIx × SlotIx × Nat × List LaneCause) : Dev :=
  match d.slot x.1 x.2.1 with
  | some w =>
    if w.task == x.2.2.1 && (d.task? w.task).any fun t => !t.faulted then
      d.takeFault x.1 x.2.1 w { code := Code.link, lanes := x.2.2.2 }
    else d
  | none => d

/-- The first place of a command behind a port. -/
def cmdBehind (d : Dev) (c : CopyCmd) (p : Option PortIx) : Option Nat :=
  (d.cmdPlaces c).find? fun pa => match p with
    | some p => portOf pa == some p
    | none => isWindow pa

/-- An accepted command ends with error LINK (R304, R407): COPY_ERROR completes its end. -/
def failCmd (d : Dev) (cl : ClusterIx) (id : Nat) (pa : Nat) : Dev :=
  d.modCmd cl id fun x =>
    if x.error.isSome ∨ x.tile.isSome then x else { x with error := some (Reason.link, BitVec.ofNat 64 pa, x.kind.number) }

/-- Accepted commands that use a port: whether an access is outstanding as the link goes down is free (log 10). -/
def failCmds (d : Dev) (p : PortIx) : Dev :=
  (List.finRange 8).foldl (fun d cl => (d.cluster cl).engine.foldl (fun d c =>
    match d.cmdBehind c (some p) with
    | none => d
    | some pa =>
      let (n, d) := d.drawn
      if Config.freeBit n then d.failCmd cl c.id pa else d) d) d

/-- Commands of rings whose own writes a link has lost complete with LINK. -/
def failHome (d : Dev) (p : PortIx) : Dev :=
  let due : List (RingIx × Nat) := (List.finRange 9).flatMap fun f => (List.finRange 16).flatMap fun r =>
    ((d.ring ⟨f, r⟩).cmds.filter fun c => match c.work with
      | .home q => q.all (· == p)
      | _ => false).map fun c => (⟨f, r⟩, c.n)
  due.foldl (fun d x => d.completePacket x.1 x.2 PktStatus.link) d

/-- A port goes down (R304, R407). -/
def linkLost (d : Dev) (p : PortIx) : Dev :=
  let (d, lost) := d.losePosted p
  let hit := d.warps.filterMap fun x => (d.failedLanes p lost x.1 x.2.1 x.2.2).map fun ls => (x.1, x.2.1, x.2.2.task, ls)
  let d := { d with draw := d.draw + 384 * 64 * 32 }.modPort p fun x => { x with up := false, posted := [], zreads := [] }
  let d := { d with tsrs := d.tsrs.filter fun u => !(u.by_.any fun b => lost.any fun w => w.by_.isSome && w.seq == b.2.2) }
  let d := (hit.foldl failWarp d).failCmds p
  let d := if lost.any fun w => w.by_.isNone then d.failHome p else d
  d.settleHome

/-- A window load of a warp is answered UR, Completer Abort or poison (R406): as on a port that is down. -/
def refuseLoad (d : Dev) (k : CoreIx) (j : SlotIx) (i : Nat) : Dev :=
  match d.slot k j with
  | none => d
  | some w => match w.loads[i]? with
    | none => d
    | some l =>
      if l.win.isEmpty then d
      else d.takeFault k j w { code := Code.link, lanes := l.win.map fun x =>
        { lane := x.2.1, cause := Code.link, addr := x.2.2 } }

/-- A window access of an accepted command is answered so. -/
def refuseCmd (d : Dev) (cl : ClusterIx) (i : Nat) : Dev :=
  match (d.cluster cl).engine[i]? with
  | none => d
  | some c => match d.cmdBehind c none with
    | some pa => d.failCmd cl c.id pa
    | none => d

/-! ### Firmware watchdogs -/

/-- Cuts off the command of a packet that will never report it: whether it goes on is free, but an engine's goes on (R422). -/
def cutWork (d : Dev) (q : RingIx) (c : RingCmd) : Dev :=
  let (n, d) := d.drawn
  match c.work with
  | .launch =>
    if Config.freeBit n then d else { d with submissions := d.submissions.filter fun s => s.packet != some (q, c.n) }
  | .signal addr value add => if Config.freeBit n then (d.signal c.hdr.ctx addr value add).1 else d
  | .pages va count _ => if Config.freeBit n then d.resolveRange c.hdr.ctx va count else d
  | .statMerge | .wait _ _ _ | .home _ => d

/-- Every packet that a ring has consumed and not completed completes with FWRESET (R422). -/
def resetRing (d : Dev) (q : RingIx) : Dev :=
  (d.ring q).cmds.foldl (fun d c => (d.cutWork q c).finishPacket q c.n PktStatus.fwreset) d

/-- A watchdog resets the scheduler core of a cluster (R422). -/
def resetScheduler (d : Dev) (cl : ClusterIx) : Dev :=
  (List.finRange 9).foldl (fun d f => (List.finRange 16).foldl (fun d r =>
    if d.ringCluster ⟨f, r⟩ == some cl then d.resetRing ⟨f, r⟩ else d) d) d

/-- Whether and how far the management core has come with a packet when its watchdog resets it (R422): one of those that R411 passes
on to it is consumed and completes with FWRESET, a MAP form without effect. -/
def resetManaged (d : Dev) (q : RingIx) : Dev :=
  let (n, d) := d.drawn
  let (m, d) := d.drawn
  let e := d.behindRing q
  if !Config.freeBit n then d
  else match (e.headPacket q).bind Packet.cmd with
    | some (.mapCode _ h _ _ _) => e.consume q h fun d _ _ => .over d PktStatus.fwreset
    | some (.unmapCode _ h id) => e.consume q h fun d cl n => match unmapCode h.ctx id d cl n with
      | .over d' _ => .over (if Config.freeBit m then d' else d) PktStatus.fwreset
      | .later d _ _ => .over d PktStatus.fwreset
    | some (.mapKey _ h _ _) | some (.mapFuse _ h _ _) => e.consumePf q h fun d => (d, PktStatus.fwreset)
    | some (.unmapKey _ h k) => e.consumePf q h fun d => (if Config.freeBit m then (unmapKey k d).1 else d, PktStatus.fwreset)
    | _ => d

/-- A watchdog resets the management core (R422). -/
def resetManagement (d : Dev) : Dev :=
  (List.finRange 9).foldl (fun d f => (List.finRange 16).foldl (fun d r => d.resetManaged ⟨f, r⟩) d) d

/-! ### Reset -/

/-- Links go: the ports are down, and their traffic is lost. -/
def portsDown (d : Dev) : Dev := { d with ports := Vector.replicate 6 { Port.reset with up := false } }

/-- Ports train their links (R442). -/
def train (d : Dev) (trained : BitVec 6) : Dev :=
  { d with ports := Vector.ofFn fun p => { d.port p with up := (d.port p).up || trained.getLsbD p.val } }

/-- What step `n` of bring-up, counted from 0, does to the die (Table 21.4): step 5 zeroes memory and key slots, what is outside the
module staying; step 6 gives all other state its reset value; step 7 takes the capability table as ROM holds it. -/
def bringUpStep (d : Dev) (n : Nat) : Dev :=
  match n with
  | 4 => { d with mem := d.mem.filter fun x => isWindow x.1, keys := [], lineKey := [] }
  | 5 =>
    { Dev.reset with
      mem := d.mem, keys := d.keys, lineKey := d.lineKey, ports := d.ports, errata := d.errata, draw := d.draw }
  | 6 => { d with errata := [] }
  | _ => d

/-- The die without power: all its state is lost (R439). -/
def unpowered (d : Dev) : Dev :=
  { Dev.reset with
    mem := d.mem.filter fun x => isWindow x.1
    ports := Vector.replicate 6 { Port.reset with up := false }
    draw := d.draw }

end Dev

/-- Failure code of bring-up step `n`, counted from 0 (Table 21.4): two steps have none. -/
def failureCode (n : Nat) : Option (BitVec 8) := if n = 5 ∨ 7 ≤ n then none else some (BitVec.ofNat 8 (n + 1))

namespace State

/-- PERST# is released with supply and coolant in their limits (R439, R441): no step of bring-up has finished, and no link is
trained. -/
def perst (s : State) : State :=
  { s with
    dev := s.dev.portsDown
    board := { s.board with power := true, stage := 0, failure := 0, holdMatrix := false, holdVector := false } }

/-- The next step of bring-up finishes, or fails and reports its code, which stops bring-up (R441). -/
def bringUp (s : State) (fails : Bool) : State :=
  let n := s.board.stage
  if !s.board.power || s.board.failure != 0 then s
  else if h : n.val < 8 then
    match fails, failureCode n.val with
    | true, some code => { s with board := { s.board with failure := code } }
    | _, _ => { s with dev := s.dev.bringUpStep n.val, board := { s.board with stage := ⟨n.val + 1, by omega⟩ } }
  else s

end State

/-! ### The steps -/

/-- PORT_DOWN (R407). -/
def execPortDown (port : PortIx) (s : State) : Host.Outcome State Fault Refusal :=
  if s.board.on then .next (s.onDev fun d => d.linkLost port)
  else .next (s.onDev fun d => d.modPort port fun x => { x with up := false })

/-- PORT_UP (R407), during bring-up too (R442); a port without power stays down (R439). -/
def execPortUp (port : PortIx) (s : State) : Host.Outcome State Fault Refusal :=
  .next (if s.board.power then s.onDev fun d => d.modPort port fun x => { x with up := true } else s)

/-- CONFIG_REQUEST (R441, R442): retry at port 0 until step 7 has finished, unless bring-up has failed; no answer over a port that is
down. -/
def execConfigRequest (port : PortIx) (s : State) : Host.Outcome State Fault Refusal :=
  .next (if !(s.dev.port port).up then s
    else s.reply (if s.board.answers then .ok else if port = 0 ∧ s.board.failure = 0 then .retry else .ur))

/-- COLD_RESET (R441): bring-up as a whole, its steps in order up to one that fails, with the ports that train meanwhile; the fuses
stay. -/
def execColdReset (failsAt : Option (Fin 7)) (trained : BitVec 6) (s : State) : Host.Outcome State Fault Refusal :=
  let s := s.perst.onDev fun d => d.train trained
  .next ((List.range 8).foldl (fun s n => s.bringUp (failsAt.any fun f => f.val == n)) s)

/-- JUNCTION_TRIP (R439): power leaves the die, and all state but the fuses is lost. -/
def execJunctionTrip (s : State) : Host.Outcome State Fault Refusal :=
  .next { s with
    dev := s.dev.unpowered
    board := { power := false, stage := 0, failure := 0, holdMatrix := false, holdVector := false, fuses := s.board.fuses } }

/-- The clamp's choice at a sample (R438, Table 21.1): issue is withheld from the matrix engines, then from the vector pipes too,
until power is below the limit and the junction below its clamp. -/
def Board.clamp (b : Board) (pwrlim : BitVec 16) (watts celsius : Nat) : Board :=
  let limit := min pwrlim.toNat 1800
  if limit < watts ∨ 105 ≤ celsius then { b with holdMatrix := true, holdVector := b.holdMatrix }
  else if watts < limit then { b with holdMatrix := false, holdVector := false }
  else b

/-- The management core lowers PWRLIM, never above the host's last value (R421, R438). -/
def Dev.lowerLimit (d : Dev) (watts : BitVec 16) : Dev :=
  { d with pwrlim := if watts.toNat < 600 then 600 else if d.hostLim.toNat < watts.toNat then d.hostLim else watts }

/-- POWER_CLAMP_SAMPLE (R438). -/
def execPowerClampSample (watts celsius : Nat) (s : State) : Host.Outcome State Fault Refusal :=
  if !s.board.on then .fault .moduleOff else .next { s with board := s.board.clamp s.dev.pwrlim watts celsius }

/-- FIRMWARE_WATCHDOG_RESET (R422): cores 0 to 7 are the clusters' scheduler cores, core 8 the management core. -/
def execFirmwareWatchdogReset (firmwareCore : Fin 9) (s : State) : Host.Outcome State Fault Refusal :=
  agent (fun d => if h : firmwareCore.val < 8 then d.resetScheduler ⟨firmwareCore.val, h⟩ else d.resetManagement) s

end Sys2Proof.Machine
end

