-- ==== Sys2Proof/Machine/Preempt.lean ====
section
/-! DEFINITION. Pre-emption of a context on a cluster and its restoration (R373 to R378). -/

namespace Sys2Proof.Machine

namespace Dev

/-- The warps of a context on a cluster. -/
def warpsOf (d : Dev) (cl : ClusterIx) (c : CtxIx) : List (CoreIx × SlotIx × Warp) :=
  d.warps.filter fun x => clusterOf x.1 == cl && x.2.2.ctx == c

/-- A wait site (R373). -/
def atWaitSite (w : Warp) : Bool :=
  match w.wait with
  | some .barrier | some .joining | some (.waitc _ _ _ _) | some (.cbacq _ _) | some .queue | some .counter => true
  | _ => false

/-- A warp stands where pre-emption may save it (R373): a halt due at its safe point comes first (R383). -/
def mayStop (d : Dev) (k : CoreIx) (w : Warp) : Bool :=
  w.status != .running || w.hold || atWaitSite w || (d.atSafePoint k w && (d.haltCause w).isNone)

/-- PREEMPT_CONTEXT's first steps (R374): no more binding, and every warp is signalled, which ends its SLEEP or WAITMON. -/
def signalPreempt (d : Dev) (cl : ClusterIx) (c : CtxIx) : Dev :=
  let d := d.modCluster cl fun x => { x with preempting := x.preempting ++ [(c, d.clock)] }
  let ws := d.warpsOf cl c
  let d := ws.foldl (fun d x => d.modWarp x.1 x.2.1 fun w => { w with preempt := true }) d
  ws.foldl (fun d x => d.endSleep x.1 x.2.1) d

/-- Writes home each dirty line of a context on a core whose translation stands; the others stay dirty. -/
def writeHome (d : Dev) (k : CoreIx) (c : CtxIx) : Dev :=
  (d.dirtyLines k fun l => l.ctx == c).foldl (fun d l =>
    match d.writeBack k fun m => m.ctx == l.ctx && m.va == l.va with
    | .ok d => d
    | .error _ => d) d

/-- A context's stores have reached home, but for dirty lines that do not translate (R374). -/
def storesHome (ws : List (CoreIx × SlotIx × Warp)) : Bool :=
  ws.all fun x => x.2.2.loads.isEmpty && x.2.2.stores.all fun p =>
    p.flight.isEmpty && p.red.isEmpty && p.stat.isNone && !p.sent

/-- An accepted command has written an element of its destination, or SCALE of its record. -/
def hasWritten (c : CopyCmd) : Bool :=
  c.scaled || c.tile.isNone && c.moved.any fun n => !Tlr.writes c.kind true || (dstAddr c n).isSome

/-- The engines of a cluster have settled for a context (R375): no operation of it runs, and no accepted command of it has met
an error, taken a slot of a window ring, or written anything. -/
def settledEngines (d : Dev) (cl : ClusterIx) (c : CtxIx) : Bool :=
  ((coresOf cl).all fun k => !((d.core k).running.any fun m => m.by_.ctx == c)) &&
    (d.cluster cl).engine.all fun x => x.by_.ctx != c || (x.error.isNone && x.ringSlot.isNone && !hasWritten x)

/-- What a stopped warp keeps: at a safe point its live registers (R35), elsewhere all of them. -/
def savedWarp (d : Dev) (k : CoreIx) (w : Warp) : Warp :=
  let w' : Warp := { w with preempt := false, monitor := none, hazards := [], walked := [], flushing := [] }
  if w.status = .halted then w'.keepLive (d.liveAt w.ctx w.pc.toNat)
  else if d.atSafePoint k w then { w'.keepLive (d.liveAt w.ctx w.pc.toNat) with wait := none }
  else w'

/-- What is saved of a core (Table 16.6). -/
def saveCore (d : Dev) (cl : ClusterIx) (k : CoreIx) (c : CtxIx) : SavedCore :=
  let x := d.core k
  let allocs := x.allocs.filter fun a => a.ctx == c
  let ours (a : Nat) : Bool := allocs.any fun y => y.id == a
  let mine := x.ctxOwner == some c
  let back := (d.cluster cl).engine.filter fun y => y.by_.ctx == c && y.by_.core == k && y.tile.isNone && y.packet.isNone
  { core := k
    warps := (d.warpsOf cl c).filterMap fun y => if y.1 = k then some (y.2.1, d.savedWarp k y.2.2) else none
    allocs := allocs
    bufs := x.bufs.filter fun b => ours b.alloc
    regions := x.regions.filter fun r => ours r.alloc
    sram := x.sram.filter fun b => allocs.any fun a => a.start ≤ b.1 && b.1 < a.start + a.bytes
    l1 := (x.l1.filter fun l => l.ctx == c && l.dirty != 0).map fun l => { l with valid := l.dirty }
    copyQ := back.map (fun y => { y with waiting := none, moved := [], sel := [] }) ++ x.copyQ.filter fun y => y.by_.ctx == c
    matQ := x.matQ.filter fun m => m.by_.ctx == c
    zeros := if mine then x.zeros else []
    tiles := if mine then x.tiles else []
    drec := if mine then x.drec else []
    tables := if mine then x.tables else []
    staging := if mine then x.staging else []
    early := if mine then x.early else [] }

/-- A core after its part of a context has been saved: slots, banks and the accumulator store are released. -/
def clearCore (x : Core) (c : CtxIx) : Core :=
  let mine := x.ctxOwner == some c
  let x : Core := { x with
    slots := x.slots.map fun (s : Option Warp) => s.filter fun w => w.ctx != c
    bindQ := x.bindQ.filter fun r => fieldOf r 107 96 != c.toNat
    l1 := x.l1.filter fun l => l.ctx != c
    copyQ := x.copyQ.filter fun y => y.by_.ctx != c
    matQ := x.matQ.filter fun m => m.by_.ctx != c }
  let x : Core := (x.allocs.filter fun (a : Alloc) => a.ctx == c).foldl (fun (x : Core) a => x.releaseAlloc a.id) x
  if mine then
    { x with zeros := [], tiles := [], drec := [], tables := [], staging := [], early := [], pins := [], ctxOwner := none }
  else x

/-- The save (R374 step 4, R376). -/
def saveContext (d : Dev) (cl : ClusterIx) (c : CtxIx) : Dev :=
  let mine (k : CoreIx) : Bool :=
    let s := d.saveCore cl k c
    !(s.warps.isEmpty && s.allocs.isEmpty && s.copyQ.isEmpty && s.matQ.isEmpty) || (d.core k).ctxOwner == some c
  let cores := ((coresOf cl).filter fun k => (Sparse.find? d.cores k.val).isSome && mine k).map fun k => d.saveCore cl k c
  let ofCtx (r : BitVec 128) : Bool := fieldOf r 107 96 == c.toNat
  let binds := (coresOf cl).flatMap (fun k => ((d.core k).bindQ.filter ofCtx).map fun r => (k, r)) ++
    (d.cluster cl).binds.filter fun r => ofCtx r.2
  let held (y : CopyCmd) : Bool := y.by_.ctx == c && y.packet.isNone
  let s : Saved := {
    cluster := cl, ctx := c, cores := cores, binds := binds
    engine := (d.cluster cl).engine.filter fun y => held y && y.tile.isSome }
  let d := d.mapCores fun k x => if clusterOf k = cl then clearCore x c else x
  let d := d.modCluster cl fun x => { x with
    binds := x.binds.filter fun r => !ofCtx r.2
    engine := x.engine.filter fun y => !held y
    preempting := x.preempting.filter fun p => p.1 != c }
  { d with
    saved := d.saved ++ [s]
    monitors := d.monitors.filter fun m => (d.slot m.core m.slot).isSome }.count c 14 1

/-- PREEMPT_CONTEXT (R374): the signal, and, at a later turn, once every warp has stopped and the engines have settled, the
save. -/
def preempt (d : Dev) (cl : ClusterIx) (c : CtxIx) : Dev :=
  if !((d.context c).any fun x => !x.ended) || d.saved.any (fun s => s.cluster == cl && s.ctx == c) then d
  else if !((d.cluster cl).preempting.any fun p => p.1 == c) then d.signalPreempt cl c
  else
    let ws := d.warpsOf cl c
    if !(ws.all fun x => d.mayStop x.1 x.2.2) || !d.settledEngines cl c then d
    else
      let d := (coresOf cl).foldl (fun d k => d.writeHome k c) d
      if storesHome (d.warpsOf cl c) then d.saveContext cl c else d

/-- A core has room for what a context left there: the same slots, the same ranges of bank space, the matrix state, and a way
for each dirty line. -/
def roomFor (d : Dev) (c : CtxIx) (s : SavedCore) : Bool :=
  let x := d.core s.core
  (s.warps.all fun w => (d.slot s.core w.1).isNone) && d.coreTakes s.core c &&
    (s.allocs.all fun a => (List.range (a.bytes / 256)).all fun i => x.granuleFree (a.start / 256 + i)) &&
    (s.l1.foldl (fun (r : Option Core) l => r.bind fun x => (x.l1Take l.va).map fun q => q.2.l1Put { l with way := q.1 })
      (some x)).isSome

/-- A core takes back what a context left there (R377). -/
def restoreCore (d : Dev) (c : CtxIx) (s : SavedCore) : Dev :=
  let d := d.takeCore s.core c
  let d := d.modCore s.core fun x => { x with
    slots := s.warps.foldl (fun v w => v.set w.1.val (some { w.2 with nextIssue := d.clock, readyAt := none })) x.slots
    modes := s.bufs.foldl (fun m b => (Core.bufBanks b).foldl (fun m i => m.setIfInBounds i .fifo) m) x.modes
    allocs := x.allocs ++ s.allocs
    bufs := x.bufs ++ s.bufs
    regions := x.regions ++ s.regions
    sram := s.sram.foldl (fun m b => Sparse.set (0 : Byte) b.1 b.2 m)
      (s.allocs.foldl (fun m a => Sparse.dropRange a.start (a.start + a.bytes) m) x.sram)
    copyQ := s.copyQ ++ x.copyQ
    matQ := s.matQ ++ x.matQ
    zeros := s.zeros, tiles := s.tiles, drec := s.drec, tables := s.tables, staging := s.staging, early := s.early }
  s.l1.foldl (fun d l =>
    match (d.core s.core).l1Take l.va with
    | some (way, x) => d.putCore s.core (x.l1Put { l with way := way })
    | none => d) d

/-- RESTORE_CONTEXT (R377): the saved state returns before any warp issues; nothing while some core has no room for it. -/
def restore (d : Dev) (cl : ClusterIx) (c : CtxIx) : Dev :=
  match d.saved.find? fun s => s.cluster == cl && s.ctx == c with
  | none => d
  | some s =>
    if !(s.cores.all (d.roomFor c)) then d
    else
      let d := s.cores.foldl (fun d x => d.restoreCore c x) d
      let d := { d with saved := d.saved.filter fun x => !(x.cluster == cl && x.ctx == c) }
      let d := (d.modCluster cl fun x => { x with engine := s.engine ++ x.engine, binds := s.binds ++ x.binds }).flushBinds cl
      (d.warpsOf cl c).foldl (fun d x => (d.settle x.1 x.2.1).closeWarp x.1 x.2.1) d

/-- PTIMEOUT in cycles (Table 19.3): in µs of 800 cycles, 0 meaning 1,000. -/
def ptimeout (x : Context) : Nat := (if x.field 255 224 = 0 then 1000 else x.field 255 224) * 800

/-- PREEMPT_TIMEOUT (R374): a pre-emption not finished in time ends the context with WATCHDOG, of which the host has notice. -/
def preemptLate (d : Dev) (cl : ClusterIx) (c : CtxIx) : Dev :=
  match (d.cluster cl).preempting.find? fun p => p.1 == c, d.context c with
  | some p, some x =>
    if p.2 + ptimeout x ≤ d.clock then ((d.traceEnd Code.watchdog).sendNotice (d.partOf c) Code.watchdog 0).endContext c else d
  | _, _ => d

end Dev

/-! ### The steps -/

/-- PREEMPT_CONTEXT (R374). -/
def execPreemptContext (cluster : ClusterIx) (ctx : CtxIx) (s : State) : Host.Outcome State Fault Refusal :=
  agent (fun d => d.preempt cluster ctx) s

/-- RESTORE_CONTEXT (R377). -/
def execRestoreContext (cluster : ClusterIx) (ctx : CtxIx) (s : State) : Host.Outcome State Fault Refusal :=
  agent (fun d => d.restore cluster ctx) s

/-- PREEMPT_TIMEOUT (R374). -/
def execPreemptTimeout (cluster : ClusterIx) (ctx : CtxIx) (s : State) : Host.Outcome State Fault Refusal :=
  agent (fun d => d.preemptLate cluster ctx) s

end Sys2Proof.Machine
end

