-- ==== Sys2Proof/Machine/System.lean ====
section
/-! DEFINITION. System registers (Table 5.5, R147, R148), those of a handler (R366) and of firmware (Table 6.8), counters (R150)
and time (R151). -/

namespace Sys2Proof.Machine

namespace Site

/-- A register of a handler: a word of its record; zero outside a handler (R366). -/
def handlerWord (x : Site) (n : Nat) : Word :=
  if !x.w.inHandler then 0
  else match x.w.record with
    | some r => (r[n]?).getD 0
    | none => 0

/-- The value of a system register (Table 5.5). -/
def sysReg (x : Site) (reg : Nat) : Word × Dev :=
  if reg = 0 then (x.v.r.mode, x.d)
  else if reg = 1 then (steppingReg, x.d)
  else if reg = 2 then (if x.d.interlocked x.w then 1 else 0, x.d)
  else if 0x100 ≤ reg ∧ reg < 0x200 then (x.handlerWord (reg - 0x100), x.d)
  else
    let c := x.d.cluster x.cl
    if h : 0x800 ≤ reg ∧ reg < 0x80A then
      let q : Fin 5 := ⟨(reg - 0x800) / 2, by omega⟩
      ((if reg % 2 = 0 then c.minq[q.val] else c.capq[q.val]).setWidth 32, x.d)
    else if reg = 0x80A then (BitVec.ofNat 32 (Dev.poolFree c), x.d)
    else if reg = 0x80B then (c.stealThr.setWidth 32, x.d)
    else
      let (n, d) := x.d.drawn
      (Config.freeWord n, d)

/-- What a write of a word of a handler's record stores (R366). -/
def recordStores (n : Nat) (a : Word) : Word :=
  if n = 219 then
    (List.range 4).foldl (fun (t : Word) i =>
      let c := a.toNat / 2 ^ (4 * i) % 16
      t + BitVec.ofNat 32 ((if (Tag.ofCode c).isSome then c else 0) * 2 ^ (4 * i))) 0
  else if n = 220 then modeStored a
  else if n = 240 then a &&& 3
  else a

/-- The firmware registers keep their rule: every CAP at or above its MIN, the sum of all MIN at or below 4,096 (R177). -/
def poolOk (c : Cluster) : Bool :=
  ((List.finRange 5).all fun q => c.minq[q.val] ≤ c.capq[q.val] && c.capq[q.val].toNat ≤ 4096) &&
    (List.finRange 5).foldl (fun n q => n + c.minq[q.val].toNat) 0 ≤ 4096

/-- A write to a system register (R148, R177, R366); a firmware register drops its reserved bits, DESIGN CHOICE (log 121). -/
def putSysReg (x : Site) (reg : Nat) (a : Word) : Dev :=
  if reg = 0 then x.put { x.w with mode := modeStored a }
  else if 0x100 ≤ reg ∧ reg < 0x200 then
    let n := reg - 0x100
    if x.w.inHandler ∧ ((208 ≤ n ∧ n ≤ 220) ∨ n = 240 ∨ n = 241) then
      x.put { x.w with record := x.w.record.map fun r => r.setIfInBounds n (recordStores n a) }
    else x.d
  else if h : 0x800 ≤ reg ∧ reg < 0x80A then
    let q : Fin 5 := ⟨(reg - 0x800) / 2, by omega⟩
    x.d.modCluster x.cl fun c =>
      let c' := if reg % 2 = 0 then { c with minq := c.minq.set q.val (a.setWidth 13) }
        else { c with capq := c.capq.set q.val (a.setWidth 13) }
      if poolOk c' then c' else c
  else if reg = 0x80B then x.d.modCluster x.cl fun c => { c with stealThr := a.setWidth 12 }
  else x.d

/-- A value written alike in every participating lane. -/
def same (x : Site) (d : Dev) (dst : Dst) (a : Word) : Act :=
  .done (d.modWarp x.k x.j fun w => w.setDst dst 0 x.p (fun _ => a) .i32)

end Site

/-- MFS (R148). -/
def execMfs (c : Ctl) (d : Dst) (reg : BitVec 12) (s : State) : Host.Outcome State Fault Refusal :=
  issue (.mfs c d reg) c 0 (fun x =>
    let (a, dev) := x.sysReg reg.toNat
    x.same dev d a) s

/-- MTS (R148). -/
def execMts (c : Ctl) (a : Opnd) (reg : BitVec 12) (s : State) : Host.Outcome State Fault Refusal :=
  issue (.mts c a reg) c 0 (fun x =>
    if x.v.has .i32 1 a then .done (x.putSysReg reg.toNat (x.v.uniform a)) else x.format) s

/-- CNTR (R150): the low word of an entry of the partition's counter page. -/
def execCntr (c : Ctl) (d : Dst) (index : BitVec 16) (s : State) : Host.Outcome State Fault Refusal :=
  issue (.cntr c d index) c 0 (fun x =>
    x.same x.d d (loWord (Sparse.get (0 : DWord) (x.d.fn (x.d.partOf x.w.ctx)).page index.toNat))) s

/-- TIME.clock (R151). -/
def execTimeClock (c : Ctl) (d : Dst) (s : State) : Host.Outcome State Fault Refusal :=
  issue (.timeClock c d) c 0 (fun x =>
    .done (x.put (x.w.setPair d x.p (fun _ => BitVec.ofNat 64 x.d.clock) .i64))) s

/-- TIME.ptp (R151, R392). -/
def execTimePtp (c : Ctl) (d : Dst) (s : State) : Host.Outcome State Fault Refusal :=
  issue (.timePtp c d) c 0 (fun x =>
    .done (x.put (x.w.setPair d x.p (fun _ => BitVec.ofNat 64 x.d.ptpNs) .i64))) s

end Sys2Proof.Machine
end

