-- ==== Sys2Proof/Machine/Dispatch.lean ====
section
/-! DEFINITION. Which meaning each instruction calls: one arm a constructor of `Instr`. -/

namespace Sys2Proof.Machine

def exec (i : Instr) (s : State) : Host.Outcome State Fault Refusal :=
  match i with
  | .nop c => Sys2Proof.Machine.execNop c s
  | .bra c off => Sys2Proof.Machine.execBra c off s
  | .brx c a imm => Sys2Proof.Machine.execBrx c a imm s
  | .callDirect c d off => Sys2Proof.Machine.execCallDirect c d off s
  | .callIndirect c d a imm => Sys2Proof.Machine.execCallIndirect c d a imm s
  | .ret c a imm => Sys2Proof.Machine.execRet c a imm s
  | .rcv c off => Sys2Proof.Machine.execRcv c off s
  | .exit c => Sys2Proof.Machine.execExit c s
  | .yield c => Sys2Proof.Machine.execYield c s
  | .trap c code => Sys2Proof.Machine.execTrap c code s
  | .rte c => Sys2Proof.Machine.execRte c s
  | .brk c code => Sys2Proof.Machine.execBrk c code s
  | .pfi c lines off => Sys2Proof.Machine.execPfi c lines off s
  | .waitc c ld st cp tl => Sys2Proof.Machine.execWaitc c ld st cp tl s
  | .sleep c cycles => Sys2Proof.Machine.execSleep c cycles s
  | .iadd c o imm w n sat => Sys2Proof.Machine.execIadd c o imm w n sat s
  | .isub c o imm w n sat => Sys2Proof.Machine.execIsub c o imm w n sat s
  | .imul c o imm w => Sys2Proof.Machine.execImul c o imm w s
  | .imulh c o imm w n => Sys2Proof.Machine.execImulh c o imm w n s
  | .imad c o imm w => Sys2Proof.Machine.execImad c o imm w s
  | .imin c o imm w n => Sys2Proof.Machine.execImin c o imm w n s
  | .imax c o imm w n => Sys2Proof.Machine.execImax c o imm w n s
  | .iabs c o imm w sat => Sys2Proof.Machine.execIabs c o imm w sat s
  | .ineg c o imm w sat => Sys2Proof.Machine.execIneg c o imm w sat s
  | .shl c o imm w => Sys2Proof.Machine.execShl c o imm w s
  | .shr c o imm w => Sys2Proof.Machine.execShr c o imm w s
  | .sar c o imm w => Sys2Proof.Machine.execSar c o imm w s
  | .rot c o imm w => Sys2Proof.Machine.execRot c o imm w s
  | .and c o imm w => Sys2Proof.Machine.execAnd c o imm w s
  | .or c o imm w => Sys2Proof.Machine.execOr c o imm w s
  | .xor c o imm w => Sys2Proof.Machine.execXor c o imm w s
  | .not c o imm w => Sys2Proof.Machine.execNot c o imm w s
  | .bfn3 c o table w => Sys2Proof.Machine.execBfn3 c o table w s
  | .popc c o imm w => Sys2Proof.Machine.execPopc c o imm w s
  | .clz c o imm w => Sys2Proof.Machine.execClz c o imm w s
  | .brev c o imm w => Sys2Proof.Machine.execBrev c o imm w s
  | .bfe c o imm n => Sys2Proof.Machine.execBfe c o imm n s
  | .bfi c o imm => Sys2Proof.Machine.execBfi c o imm s
  | .icmp c pd a b imm w n cmp => Sys2Proof.Machine.execIcmp c pd a b imm w n cmp s
  | .pcomb c pd pa pb pc table => Sys2Proof.Machine.execPcomb c pd pa pb pc table s
  | .sel c o p imm w => Sys2Proof.Machine.execSel c o p imm w s
  | .mov c o imm w => Sys2Proof.Machine.execMov c o imm w s
  | .lea c o imm n shift => Sys2Proof.Machine.execLea c o imm n shift s
  | .retag c tag o imm => Sys2Proof.Machine.execRetag c tag o imm s
  | .gadd c o imm fmt rnd ov => Sys2Proof.Machine.execGadd c o imm fmt rnd ov s
  | .gsub c o imm fmt rnd ov => Sys2Proof.Machine.execGsub c o imm fmt rnd ov s
  | .gmul c o imm fmt ov => Sys2Proof.Machine.execGmul c o imm fmt ov s
  | .gdiv c o imm fmt ov => Sys2Proof.Machine.execGdiv c o imm fmt ov s
  | .gmad c o imm fmt rnd ov => Sys2Proof.Machine.execGmad c o imm fmt rnd ov s
  | .gsqrt c o imm fmt => Sys2Proof.Machine.execGsqrt c o imm fmt s
  | .grsq c o imm fmt rnd ov => Sys2Proof.Machine.execGrsq c o imm fmt rnd ov s
  | .grcp c o imm fmt ov msk => Sys2Proof.Machine.execGrcp c o imm fmt ov msk s
  | .gmin c o imm fmt => Sys2Proof.Machine.execGmin c o imm fmt s
  | .gmax c o imm fmt => Sys2Proof.Machine.execGmax c o imm fmt s
  | .gabs c o imm fmt => Sys2Proof.Machine.execGabs c o imm fmt s
  | .gneg c o imm fmt => Sys2Proof.Machine.execGneg c o imm fmt s
  | .gscale c o imm fmt ov => Sys2Proof.Machine.execGscale c o imm fmt ov s
  | .gpow c o imm fmt ov => Sys2Proof.Machine.execGpow c o imm fmt ov s
  | .gcmp c pd a b imm fmt cmp => Sys2Proof.Machine.execGcmp c pd a b imm fmt cmp s
  | .gclass c o imm fmt => Sys2Proof.Machine.execGclass c o imm fmt s
  | .gexp2 c o imm fmt rnd ov msk => Sys2Proof.Machine.execGexp2 c o imm fmt rnd ov msk s
  | .glog2 c o imm fmt rnd ov => Sys2Proof.Machine.execGlog2 c o imm fmt rnd ov s
  | .gtanh c o imm fmt rnd ov => Sys2Proof.Machine.execGtanh c o imm fmt rnd ov s
  | .gsig c o imm fmt rnd ov => Sys2Proof.Machine.execGsig c o imm fmt rnd ov s
  | .wstep c o imm fmt rnd ov => Sys2Proof.Machine.execWstep c o imm fmt rnd ov s
  | .wmerge c o imm fmt rnd ov => Sys2Proof.Machine.execWmerge c o imm fmt rnd ov s
  | .cvt c o dst src rnd ov => Sys2Proof.Machine.execCvt c o dst src rnd ov s
  | .pack c o imm fmt half => Sys2Proof.Machine.execPack c o imm fmt half s
  | .unpk c o imm fmt elem => Sys2Proof.Machine.execUnpk c o imm fmt elem s
  | .lpick c o imm mode w => Sys2Proof.Machine.execLpick c o imm mode w s
  | .bfly c d a b k => Sys2Proof.Machine.execBfly c d a b k s
  | .predx c form pa => Sys2Proof.Machine.execPredx c form pa s
  | .redx c o imm op => Sys2Proof.Machine.execRedx c o imm op s
  | .elect c pd => Sys2Proof.Machine.execElect c pd s
  | .bind c seg first count => Sys2Proof.Machine.execBind c seg first count s
  | .unbind c first count => Sys2Proof.Machine.execUnbind c first count s
  | .chadd c d a b ci => Sys2Proof.Machine.execChadd c d a b ci s
  | .chsub c d a b ci => Sys2Proof.Machine.execChsub c d a b ci s
  | .chmad c d a b e imm ci => Sys2Proof.Machine.execChmad c d a b e imm ci s
  | .chshl c d a b imm => Sys2Proof.Machine.execChshl c d a b imm s
  | .chshr c d a b imm arith => Sys2Proof.Machine.execChshr c d a b imm arith s
  | .chcmp c pd a b cmp => Sys2Proof.Machine.execChcmp c pd a b cmp s
  | .chneg c d a => Sys2Proof.Machine.execChneg c d a s
  | .chld c d a off => Sys2Proof.Machine.execChld c d a off s
  | .chst c a b off => Sys2Proof.Machine.execChst c a b off s
  | .chmvc c d carryIn => Sys2Proof.Machine.execChmvc c d carryIn s
  | .join c d a imm => Sys2Proof.Machine.execJoin c d a imm s
  | .leave c => Sys2Proof.Machine.execLeave c s
  | .bar c => Sys2Proof.Machine.execBar c s
  | .barv c any pd pa => Sys2Proof.Machine.execBarv c any pd pa s
  | .spawn c a imm => Sys2Proof.Machine.execSpawn c a imm s
  | .depdec c a b imm => Sys2Proof.Machine.execDepdec c a b imm s
  | .ldg c d a off ty wid => Sys2Proof.Machine.execLdg c d a off ty wid s
  | .stg c a b stat off ty wid => Sys2Proof.Machine.execStg c a b stat off ty wid s
  | .lds c d a off ty wid => Sys2Proof.Machine.execLds c d a off ty wid s
  | .sts c a b off ty wid => Sys2Proof.Machine.execSts c a b off ty wid s
  | .ldv c d a off ty wid scope => Sys2Proof.Machine.execLdv c d a off ty wid scope s
  | .atom c o off op wid scope sp => Sys2Proof.Machine.execAtom c o off op wid scope sp s
  | .red c a b off op wid scope sp => Sys2Proof.Machine.execRed c a b off op wid scope sp s
  | .monitor c a off => Sys2Proof.Machine.execMonitor c a off s
  | .waitmon c timeout => Sys2Proof.Machine.execWaitmon c timeout s
  | .fenceAcq c scope => Sys2Proof.Machine.execFenceAcq c scope s
  | .fenceRel c scope => Sys2Proof.Machine.execFenceRel c scope s
  | .fenceAr c scope => Sys2Proof.Machine.execFenceAr c scope s
  | .pfd c toL1 a off => Sys2Proof.Machine.execPfd c toL1 a off s
  | .bankcfgCache c a => Sys2Proof.Machine.execBankcfgCache c a s
  | .bankcfgScratchpad c a => Sys2Proof.Machine.execBankcfgScratchpad c a s
  | .bankcfgFifo c a e => Sys2Proof.Machine.execBankcfgFifo c a e s
  | .rmapMap c a b e imm => Sys2Proof.Machine.execRmapMap c a b e imm s
  | .rmapUnmap c a imm => Sys2Proof.Machine.execRmapUnmap c a imm s
  | .cpyGl c a b e dep => Sys2Proof.Machine.execCpyGl c a b e dep s
  | .cpyLg c a b e dep => Sys2Proof.Machine.execCpyLg c a b e dep s
  | .cpyGf c a b e dep => Sys2Proof.Machine.execCpyGf c a b e dep s
  | .cpyGg c a e dep => Sys2Proof.Machine.execCpyGg c a e dep s
  | .cpym c a b e dep => Sys2Proof.Machine.execCpym c a b e dep s
  | .publish c a imm => Sys2Proof.Machine.execPublish c a imm s
  | .lrinv c a imm => Sys2Proof.Machine.execLrinv c a imm s
  | .lrinvAll c => Sys2Proof.Machine.execLrinvAll c s
  | .cbacq c d a imm => Sys2Proof.Machine.execCbacq c d a imm s
  | .cbrel c a imm => Sys2Proof.Machine.execCbrel c a imm s
  | .mmaGlob c a imm => Sys2Proof.Machine.execMmaGlob c a imm s
  | .mmaLoc c a imm => Sys2Proof.Machine.execMmaLoc c a imm s
  | .mdrain c a b e dep => Sys2Proof.Machine.execMdrain c a b e dep s
  | .mzero c a b imm => Sys2Proof.Machine.execMzero c a b imm s
  | .tbld c a b imm => Sys2Proof.Machine.execTbld c a b imm s
  | .qnt c o ws imm fmt rnd => Sys2Proof.Machine.execQnt c o ws imm fmt rnd s
  | .statrd c d a word => Sys2Proof.Machine.execStatrd c d a word s
  | .statrst c a imm => Sys2Proof.Machine.execStatrst c a imm s
  | .statmrg c a b dep => Sys2Proof.Machine.execStatmrg c a b dep s
  | .mfs c d reg => Sys2Proof.Machine.execMfs c d reg s
  | .mts c a reg => Sys2Proof.Machine.execMts c a reg s
  | .cntr c d index => Sys2Proof.Machine.execCntr c d index s
  | .timeClock c d => Sys2Proof.Machine.execTimeClock c d s
  | .timePtp c d => Sys2Proof.Machine.execTimePtp c d s
  | .safePointHalt core slot => Sys2Proof.Machine.execSafePointHalt core slot s
  | .loadCompletion core slot index => Sys2Proof.Machine.execLoadCompletion core slot index s
  | .storeCompletion core slot index => Sys2Proof.Machine.execStoreCompletion core slot index s
  | .ifetchFillComplete core index => Sys2Proof.Machine.execIfetchFillComplete core index s
  | .tlbWalkComplete index => Sys2Proof.Machine.execTlbWalkComplete index s
  | .copyAccept core => Sys2Proof.Machine.execCopyAccept core s
  | .cbReserve cluster index => Sys2Proof.Machine.execCbReserve cluster index s
  | .copyCompletion cluster index order => Sys2Proof.Machine.execCopyCompletion cluster index order s
  | .copyError cluster index order => Sys2Proof.Machine.execCopyError cluster index order s
  | .cpymDrain cluster index => Sys2Proof.Machine.execCpymDrain cluster index s
  | .windowRingRetry cluster index => Sys2Proof.Machine.execWindowRingRetry cluster index s
  | .publishPoint core slot => Sys2Proof.Machine.execPublishPoint core slot s
  | .matrixOpStart core => Sys2Proof.Machine.execMatrixOpStart core s
  | .matrixOpCompletion core => Sys2Proof.Machine.execMatrixOpCompletion core s
  | .matrixOpError core => Sys2Proof.Machine.execMatrixOpError core s
  | .tbldExecute core => Sys2Proof.Machine.execTbldExecute core s
  | .tablePull core => Sys2Proof.Machine.execTablePull core s
  | .tsrUpdate index => Sys2Proof.Machine.execTsrUpdate index s
  | .dependenceDecrement cluster index => Sys2Proof.Machine.execDependenceDecrement cluster index s
  | .taskPlacement cluster task cores => Sys2Proof.Machine.execTaskPlacement cluster task cores s
  | .bindRecordDispatch core slot => Sys2Proof.Machine.execBindRecordDispatch core slot s
  | .holdRelease cluster task => Sys2Proof.Machine.execHoldRelease cluster task s
  | .taskCompletion cluster task => Sys2Proof.Machine.execTaskCompletion cluster task s
  | .stealRequest thief victim want => Sys2Proof.Machine.execStealRequest thief victim want s
  | .stealRequestReceive victim tasks => Sys2Proof.Machine.execStealRequestReceive victim tasks s
  | .sorediumPacket thief index => Sys2Proof.Machine.execSorediumPacket thief index s
  | .stealReply thief => Sys2Proof.Machine.execStealReply thief s
  | .pageResident index => Sys2Proof.Machine.execPageResident index s
  | .monitorTrigger index => Sys2Proof.Machine.execMonitorTrigger index s
  | .waitmonTimeout core slot => Sys2Proof.Machine.execWaitmonTimeout core slot s
  | .sleepExpiry core slot => Sys2Proof.Machine.execSleepExpiry core slot s
  | .faultRecordDelivery cluster => Sys2Proof.Machine.execFaultRecordDelivery cluster s
  | .preemptContext cluster ctx => Sys2Proof.Machine.execPreemptContext cluster ctx s
  | .restoreContext cluster ctx => Sys2Proof.Machine.execRestoreContext cluster ctx s
  | .preemptTimeout cluster ctx => Sys2Proof.Machine.execPreemptTimeout cluster ctx s
  | .eccError pa => Sys2Proof.Machine.execEccError pa s
  | .launch q h tcb => Sys2Proof.Machine.execLaunch q h tcb s
  | .signalWrite q h addr value => Sys2Proof.Machine.execSignalWrite q h addr value s
  | .signalAdd q h addr value => Sys2Proof.Machine.execSignalAdd q h addr value s
  | .waitGe q h addr value => Sys2Proof.Machine.execWaitGe q h addr value s
  | .waitEq q h addr value => Sys2Proof.Machine.execWaitEq q h addr value s
  | .waitPoll q => Sys2Proof.Machine.execWaitPoll q s
  | .traceStart q h base bytes k j cats => Sys2Proof.Machine.execTraceStart q h base bytes k j cats s
  | .traceStop q h => Sys2Proof.Machine.execTraceStop q h s
  | .mapPages q h va count => Sys2Proof.Machine.execMapPages q h va count s
  | .mapExec q h va count codeId interlocked => Sys2Proof.Machine.execMapExec q h va count codeId interlocked s
  | .mapCode q h va codeId interlocked => Sys2Proof.Machine.execMapCode q h va codeId interlocked s
  | .mapKey q h keySlot pa => Sys2Proof.Machine.execMapKey q h keySlot pa s
  | .mapContext q h number pa => Sys2Proof.Machine.execMapContext q h number pa s
  | .mapFuse q h cls target => Sys2Proof.Machine.execMapFuse q h cls target s
  | .unmapPages q h va count => Sys2Proof.Machine.execUnmapPages q h va count s
  | .unmapExec q h va count => Sys2Proof.Machine.execUnmapExec q h va count s
  | .unmapCode q h codeId => Sys2Proof.Machine.execUnmapCode q h codeId s
  | .unmapKey q h keySlot => Sys2Proof.Machine.execUnmapKey q h keySlot s
  | .unmapContext q h number => Sys2Proof.Machine.execUnmapContext q h number s
  | .statMerge q h src dst => Sys2Proof.Machine.execStatMerge q h src dst s
  | .ringDoorbell q tail => Sys2Proof.Machine.execRingDoorbell q tail s
  | .fanswerResume fn who => Sys2Proof.Machine.execFanswerResume fn who s
  | .fanswerSkip fn who hskip => Sys2Proof.Machine.execFanswerSkip fn who hskip s
  | .fanswerKill fn who => Sys2Proof.Machine.execFanswerKill fn who s
  | .dbgctlHalt fn scope => Sys2Proof.Machine.execDbgctlHalt fn scope s
  | .dbgctlResume fn scope => Sys2Proof.Machine.execDbgctlResume fn scope s
  | .dbgctlStep fn scope => Sys2Proof.Machine.execDbgctlStep fn scope s
  | .dbgctlBpsync fn scope => Sys2Proof.Machine.execDbgctlBpsync fn scope s
  | .ptpofsWrite fn ns => Sys2Proof.Machine.execPtpofsWrite fn ns s
  | .ptprateWrite fn rate => Sys2Proof.Machine.execPtprateWrite fn rate s
  | .pwrlimWrite fn watts => Sys2Proof.Machine.execPwrlimWrite fn watts s
  | .fwlockWrite fn value => Sys2Proof.Machine.execFwlockWrite fn value s
  | .registerWrite fn offset value => Sys2Proof.Machine.execRegisterWrite fn offset value s
  | .inboundRead path offset bytes => Sys2Proof.Machine.execInboundRead path offset bytes s
  | .inboundWrite path offset data => Sys2Proof.Machine.execInboundWrite path offset data s
  | .inboundAtomic path offset wide op => Sys2Proof.Machine.execInboundAtomic path offset wide op s
  | .configRequest port => Sys2Proof.Machine.execConfigRequest port s
  | .portDown port => Sys2Proof.Machine.execPortDown port s
  | .portUp port => Sys2Proof.Machine.execPortUp port s
  | .coldReset failsAt trained => Sys2Proof.Machine.execColdReset failsAt trained s
  | .junctionTrip => Sys2Proof.Machine.execJunctionTrip s
  | .powerClampSample watts celsius => Sys2Proof.Machine.execPowerClampSample watts celsius s
  | .firmwareWatchdogReset firmwareCore => Sys2Proof.Machine.execFirmwareWatchdogReset firmwareCore s
  | .counterPageRefresh fn => Sys2Proof.Machine.execCounterPageRefresh fn s
  | .counterGroupRotation => Sys2Proof.Machine.execCounterGroupRotation s
  | .pcSample core => Sys2Proof.Machine.execPcSample core s
  | .waitmonUnpromptedEnd core slot => Sys2Proof.Machine.execWaitmonUnpromptedEnd core slot s
  | .zeroLengthReadCompletion port => Sys2Proof.Machine.execZeroLengthReadCompletion port s

end Sys2Proof.Machine
end

