-- ==== Sys2Proof/Machine/Pipes.lean ====
section
/-! DEFINITION. The current slot's turn, the pipes' choice among ready warps (R155, R156), and the passing of time between
steps (R151, log 3), with which warps become ready. -/

namespace Sys2Proof.Machine

/-- The current slot's instruction; the clamp may withhold it (R438). -/
def runCurrent (s : State) : Host.Outcome State Fault Refusal :=
  if s.board.holdVector then .next s
  else match turnOf s with
  | .run i t => exec i t
  | .pass t => .next t
  | .stop r => .refused (.badWord r)

namespace Dev

/-! ### Waits that end by time alone -/

/-- A SLEEP or a WAITMON whose longest time has passed, since its issue or since a change of the monitored block (R130, R270). -/
def overslept (now : Nat) (w : Warp) : Bool :=
  w.status == .running && (match w.wait with
    | some (.sleep start n) => start + n + 256 ≤ now
    | some (.waitmon start n) => (n != 0 && start + 256 * (n + 1) ≤ now) || w.alarm.any fun a => a + 3200 ≤ now
    | _ => false)

/-- The warps that stand in the slots of a core. -/
def residents (c : Core) : List (SlotIx × Warp) := (List.finRange 64).filterMap fun j => (c.slots[j.val]).map fun w => (j, w)

/-- The slots of the die that hold a warp. -/
def places (d : Dev) : List (CoreIx × SlotIx) :=
  d.cores.flatMap fun e => if h : e.1 < 384 then (residents e.2).map fun r => (⟨e.1, h⟩, r.1) else []

/-- Ends every SLEEP and WAITMON that may last no longer. -/
def wake (d : Dev) : Dev :=
  d.places.foldl (fun d x => if (d.slot x.1 x.2).any (overslept d.clock) then d.endSleep x.1 x.2 else d) d

end Dev

/-! ### Readiness -/

/-- What a warp comes to at its next instruction, were its pipe free (R155). -/
inductive Coming where
  /-- No warp runs there, or time or another step must come first. -/
  | idle
  /-- Its line of the instruction cache is not present (R133). -/
  | absent
  /-- It is held at its instruction; the attempt leaves this state. -/
  | held (s : State)
  | ready

/-- The state with a slot current and its pipe free. -/
def State.trial (s : State) (k : CoreIx) (j : SlotIx) : State :=
  { s with dev := { s.dev.modCore k fun c => { c with busy := c.busy.set (j.val % 8) 0 } with curCore := k, curSlot := j } }

/-- A state that a trial has left, with the current slot and the pipes as before it. -/
def State.untried (s : State) (k : CoreIx) (t : State) : State :=
  { t with dev := { t.dev.modCore k fun c => { c with busy := (s.dev.core k).busy } with
    curCore := s.dev.curCore, curSlot := s.dev.curSlot } }

/-- What the warp of a slot comes to: its instruction is tried, and it is held where the trial holds it. -/
def State.coming (s : State) (k : CoreIx) (j : SlotIx) : Coming :=
  match s.dev.slot k j with
  | none => .idle
  | some w =>
    if !s.dev.comes k w then .idle
    else match s.dev.fetch k w with
      | .absent => .absent
      | .bad _ | .illegal _ => if w.nextIssue ≤ s.dev.clock then .ready else .idle
      | .word i =>
        match Dev.ctlOf i with
        | none => .idle
        | some c =>
          if !s.dev.canIssue w i c then .idle
          else match exec i (s.trial k j) with
            | .next t => if (t.dev.slot k j).any fun v => Dev.heldBack v.wait then .held (s.untried k t) else .ready
            | _ => .ready

/-- The warp of a slot is ready (R155). -/
def State.readyAt (s : State) (k : CoreIx) (j : SlotIx) : Bool :=
  match s.coming k j with
  | .ready => true
  | _ => false

/-! ### The choice of a pipe -/

/-- The warps of a pipe that are held come to their instructions again, and the lines that are absent are asked for. -/
def State.poll (s : State) (k : CoreIx) (p : Fin 8) : State :=
  (Dev.pipeSlots p).foldl (fun s j =>
    match s.coming k j, s.dev.slot k j with
    | .held t, _ => t
    | .absent, some w => { s with dev := s.dev.demandFill k j w }
    | _, _ => s) s

/-- The ready warps of a pipe, the lowest slot first. -/
def State.readyWarps (s : State) (k : CoreIx) (p : Fin 8) : List (SlotIx × Warp) :=
  (Dev.pipeSlots p).filterMap fun j => (s.dev.slot k j).bind fun w => if s.readyAt k j then some (j, w) else none

/-- The warp that issues of the ready ones (R156). -/
def chosen (now : Nat) : List (SlotIx × Warp) → Option SlotIx
  | [] => none
  | a :: t => some (t.foldl (Dev.prefer now) a).1

/-- A warp of a higher slot of the core has issued in this cycle: the issues of one cycle are ordered by slot (R309). -/
def Dev.issuedAbove (d : Dev) (k : CoreIx) (j : SlotIx) : Bool :=
  (Dev.residents (d.core k)).any fun r => j < r.1 && r.2.issuedAt == some d.clock

/-- An issue opportunity of a pipe (R156): the slot that issues, where the pipe accepts an instruction, with the ages of the
other ready warps raised. -/
def State.choose (s : State) (k : CoreIx) (p : Fin 8) : Option SlotIx × State :=
  let s := s.poll k p
  let ready := s.readyWarps k p
  let pick := if s.dev.pipeOpen k ⟨p.val, by omega⟩ then chosen s.dev.clock ready else none
  match pick.filter fun j => !s.dev.issuedAbove k j with
  | none => (none, s)
  | some j =>
    (some j, { s with dev := ready.foldl (fun d r =>
      if r.1 = j then d else d.modWarp k r.1 fun w => { w with age := w.age + 1 }) s.dev })

/-- A pipe's turn (R156); the clamp may withhold it (R438). -/
def issueTurn (k : CoreIx) (p : Fin 8) (s : State) : Host.Outcome State Fault Refusal :=
  if s.board.holdVector then .next s
  else match s.choose k p with
    | (some j, t) => runCurrent { t with dev := { t.dev with curCore := k, curSlot := j } }
    | (none, t) => .next t

/-! ### Time -/

/-- Notes the ready time of each warp that has become ready since the clock read `c` (R155): the cycle from which time alone
let it issue, and not before the step that let it. -/
def State.noteReady (s : State) (c : Nat) : State :=
  s.dev.places.foldl (fun t x =>
    match s.dev.slot x.1 x.2 with
    | some w =>
      if w.readyAt.isNone && s.readyAt x.1 x.2 then
        t.onDev fun d => d.putWarp x.1 x.2 { w with readyAt := some (max c (s.dev.readyTime x.1 w)) }
      else t
    | none => t) s

/-- Time passes at the end of a step (log 3). -/
def tick (s : State) : State :=
  (s.onDev fun d => ({ d with draw := d.draw + 1 }.advance (Config.stepCycles d.draw)).wake).noteReady s.dev.clock

/-- Time passes after an outcome. -/
def ticked : Host.Outcome State Fault Refusal → Host.Outcome State Fault Refusal
  | .next s => .next (tick s)
  | .fault f => .fault f
  | .refused r => .refused r

end Sys2Proof.Machine
end

