-- ==== Sys2Proof/Machine/Turns.lean ====
section
/-! DEFINITION. A turn of the schedule (log 1): the current slot's instruction, a step of another agent, or a change from outside
that has no row of its own. -/

namespace Sys2Proof.Machine

/-- The device's turn at a ring (R411): the packet at HEAD runs, or is refused for its form. -/
def packetTurn (q : RingIx) (s : State) : Host.Outcome State Fault Refusal :=
  if !s.board.on then .fault .moduleOff
  else match s.dev.headPacket q with
    | none => .next s
    | some k =>
      if (s.dev.consumer q k.hdr.barrier).isNone then .next s
      else match k.cmd with
        | some i => exec i (s.onDev fun d => d.behindRing q)
        | none => .next (s.onDev fun d => (d.behindRing q).consumeBad q k.hdr k.pf)

/-- The host or a peer changes a byte of its own memory. -/
def outsideTurn (pa : Nat) (val : Byte) (s : State) : State :=
  if isWindow pa then s.onDev fun d => d.writePa 0 pa val else s

/-- Firmware appends an errata record (R417). -/
def erratumTurn (value : BitVec 128) (s : State) : State := s.onDev fun d => { d with errata := d.errata ++ [erratumValue value] }

/-- A turn. -/
def takeTurn (t : Turn) (s : State) : Host.Outcome State Fault Refusal :=
  match t with
  | .event i => if i.isWarp || isPacket i then .next s else exec i s
  | .issue k p => if !s.board.on then .fault .moduleOff else issueTurn k p s
  | .packet q => packetTurn q s
  | .outside pa val => .next (outsideTurn pa val s)
  | .erratum value => if !s.board.on then .fault .moduleOff else .next (erratumTurn value s)
  | .arrive p => agent (fun d => d.arriveOne p) s
  | .refused k j i => agent (fun d => d.refuseLoad k j i) s
  | .engineRefused cl i => agent (fun d => d.refuseCmd cl i) s
  | .limit watts => agent (fun d => d.lowerLimit watts) s
  | .read k j i n => agent (fun d => d.readLane k j i n) s
  | .land k j i n => agent (fun d => d.landLane k j i n) s
  | .fill k c va => agent (fun d => d.fillAhead k c va) s
  | .home k j va => agent (fun d => d.lineHome k j va) s
  | .perform k j i => agent (fun d => d.performNext k j i) s
  | .translated k c va => agent (fun d => d.walkFor k c va) s
  | .dropRecord i => agent (fun d => { d with tlrs := removeAt i d.tlrs }) s
  | .perst => .next s.perst
  | .bringUp fails => .next (s.bringUp fails)
  | .walk i page => agent (fun d => d.walkStep i page) s
  | .groups f gs => agent (fun d => d.selectGroups f gs) s
  | .register => agent Dev.takeRegister s
  | .bar0 f off req => bar0Turn f off req s
  | .cas128 path => cas128Turn path s
  | .pick cl id n => agent (fun d => d.pickElem cl id n) s
  | .move cl id ns => agent (fun d => d.moveSome cl id ns) s
  | .update cl id => agent (fun d => d.updateNow cl id) s
  | .operand k id src i off => agent (fun d => d.pickOperand k id src i off) s
  | .block k => agent (fun d => if d.opHeld k then d else d.nextBlock k) s
  | .ecc by_ pa => eccTurn by_ pa s
  | .records => agent (fun d => d.traceOn.settleHome) s
  | .serve cl q => agent (fun d => d.serve cl q) s

end Sys2Proof.Machine
end

