-- ==== Sys2Proof/Machine/Step.lean ====
section
/-! DEFINITION. One step of the machine: the next turn of the schedule (log 1), or the current slot's instruction. -/

namespace Sys2Proof.Machine

/-- One step. -/
def step (s : State) : Host.Outcome State Fault Refusal :=
  match s.sched with
  | [] => if s.board.on then ticked (runCurrent s) else .fault .moduleOff
  | t :: rest => ticked (takeTurn t { s with sched := rest })

/-- The machine with an instruction placed where the next step runs it (log 34). -/
def State.withFetchWord (s : State) (nbits w : Nat) : State :=
  { s with dev := s.dev.place (leBytes 12 (w % 2 ^ nbits)), board := { s.board with holdVector := false }, sched := [] }

end Sys2Proof.Machine
end

