-- ==== Sys2Proof/Safety.lean ====
section
/-! DEFINITION. What claims call safe: an outcome that goes on, a run that goes on, and the forms that the state keeps; and
the words in which claims say when an instruction of a warp issues and what stands after it. -/

namespace Sys2Proof

open Machine

/-- The step goes on. -/
def Goes (o : Host.Outcome State Fault Refusal) : Prop := ∃ t, o = .next t

/-- A run of `n` steps that never stops. -/
def SafeRun : Nat → State → Prop
  | 0, _ => True
  | n + 1, s => ∃ t, step s = .next t ∧ SafeRun n t

/-- The machine's legal forms of power (R438, R441): the power limit between its bounds and not above the host's last value; the
vector pipes are withheld only after the matrix engines; a module that runs has power, and no step of its bring-up failed. -/
def Machine.State.Legal (s : State) : Prop :=
  600 ≤ s.dev.pwrlim.toNat ∧ s.dev.pwrlim.toNat ≤ s.dev.hostLim.toNat ∧ s.dev.hostLim.toNat ≤ 1800 ∧
    (s.board.holdVector = true → s.board.holdMatrix = true) ∧ (s.board.on = true → s.board.failure = 0 ∧ s.board.power = true)

/-- No fuse of a board is unblown in a later one (R419). -/
def Machine.Board.FusesRise (b c : Board) : Prop := ∀ i : Fin 3, b.fuses[i.val].val ≤ c.fuses[i.val].val

/-- The memory has its canonical form. -/
def Machine.State.MemOk (s : State) : Prop := Memory.wf s.dev.mem = true

/-! ### An instruction of a warp -/

/-- The warp `w` stands in the current slot and its instruction `i`, with control fields `c`, issues now (R154, R155) for at
least one lane; no earlier result is under way that its reads could miss (R38). -/
structure Machine.State.Issues (s : State) (i : Instr) (c : Ctl) (w : Warp) : Prop where
  on : s.board.on = true
  here : s.dev.slot s.dev.curCore s.dev.curSlot = some w
  may : s.dev.canIssue w i c = true
  pipe : s.dev.pipeOpen s.dev.curCore s.dev.curSlot = true
  sees : s.dev.sees w i = (w, [], s.dev)
  lanes : Dev.participants w c ≠ 0

/-- No record of the safe point is captured at the issue (R388). -/
def Machine.State.Quiet (s : State) (c : Ctl) : Prop :=
  ∀ t, s.dev.trace = some t → c.stop = false ∨ t.cats.getLsbD 1 = false

/-- The instruction after `w`'s can be fetched, the warp has a lane to run there, and no record of the safe point is captured
(R33, R122, R388). -/
structure Machine.State.Follows (s : State) (c : Ctl) (w : Warp) : Prop where
  fetch : s.dev.seqFault s.dev.curCore w = none
  runs : w.finish.isOver = false
  quiet : s.Quiet c

/-- Where an instruction of `w` acts, and what it reads there. -/
def Machine.State.site (s : State) (c : Ctl) (imm : Word) (w : Warp) : Site :=
  { d := s.dev, k := s.dev.curCore, j := s.dev.curSlot, w := w, c := c
    v := { r := w, sp := s.dev.specials s.dev.curCore w, imm := imm, p := Dev.participants w c } }

/-- `t` is `s` with the die `d` as an instruction leaves it, but that the current slot holds the warp `w`; the issue itself
writes only that warp's issue times and results under way (R37, R38, R154), the pipe's busy time, the order of its cache's lines
(R132) and the counts behind the counter pages (R393). -/
structure Machine.State.Stands (s : State) (d : Dev) (w : Warp) (t : State) : Prop where
  board : t.board = s.board
  sched : t.sched = s.sched
  replies : t.replies = s.replies
  here : ∃ next hazards yielded, t.dev.slot s.dev.curCore s.dev.curSlot =
    some { w with
      age := 0, issuedAt := some d.clock, nextIssue := next, readyAt := none, walked := [], flushing := [], hazards := hazards
      yielded := yielded }
  slots : ∀ k j, (k, j) ≠ (s.dev.curCore, s.dev.curSlot) → t.dev.slot k j = d.slot k j
  cores : ∀ k, t.dev.core k = { d.core k with
    slots := (t.dev.core k).slots, busy := (t.dev.core k).busy, icache := (t.dev.core k).icache }
  fns : ∀ f, t.dev.fn f = { d.fn f with counts := (t.dev.fn f).counts }
  rest : t.dev = { d with cores := t.dev.cores, fns := t.dev.fns }

/-- The instruction completes, leaves the die `d` and sends the warp on from `w` to its next instruction (R33). -/
def Machine.State.Completes (s : State) (i : Instr) (d : Dev) (w : Warp) : Prop :=
  ∃ t, exec i s = .next t ∧ s.Stands d w.finish t

/-- The instruction completes, with no effect but on its own warp. -/
def Machine.State.Writes (s : State) (i : Instr) (w : Warp) : Prop := s.Completes i s.dev w

/-- The instruction completes, leaves the die `d`, and its warp stands as `w` where it goes on, or where it waits. -/
def Machine.State.GoesOn (s : State) (i : Instr) (d : Dev) (w : Warp) : Prop := ∃ t, exec i s = .next t ∧ s.Stands d w t

/-- The instruction of `w` takes a fault (R357), with no other effect but its issue. -/
def Machine.State.Faults (s : State) (i : Instr) (c : Ctl) (w : Warp) (f : FaultInfo) : Prop :=
  exec i s = .next (s.onDev fun d =>
    let e := d.issued d.curCore d.curSlot w i c (Dev.participants w c)
    e.takeFault d.curCore d.curSlot ((e.slot d.curCore d.curSlot).getD w) f)

/-- The instruction of `w` takes a fault on the die `d`, which the steps before the failing one have left (R290, R371). -/
def Machine.State.FaultsFrom (s : State) (i : Instr) (c : Ctl) (w : Warp) (d : Dev) (f : FaultInfo) : Prop :=
  exec i s = .next (s.onDev fun d0 =>
    let e := d.issued d0.curCore d0.curSlot w i c (Dev.participants w c)
    e.takeFault d0.curCore d0.curSlot ((e.slot d0.curCore d0.curSlot).getD w) f)

/-- The instruction does not issue: it leaves the die `d`, its warp held at the instruction, which issues again (R176). -/
def Machine.State.Holds (s : State) (i : Instr) (d : Dev) (why : Wait) : Prop :=
  exec i s = .next (s.onDev fun d0 => d.modWarp d0.curCore d0.curSlot fun w => { w with wait := some why })

/-- The checks of an instruction fail with `f` on the die `d` that they have left: it takes the fault, or is held while walks that
its accesses need go on (R246), or while an atomic operation of the warp stands before them (R268). -/
def Machine.State.FailsFrom (s : State) (i : Instr) (c : Ctl) (w : Warp) (d : Dev) (f : FaultInfo) : Prop :=
  (f.walks = [] → f.afterAtomic = false → s.FaultsFrom i c w d f) ∧
  (f.walks = [] → f.afterAtomic = true → s.Holds i s.dev .atomic) ∧
  (f.walks ≠ [] → s.Holds i (f.walks.foldl (fun d va => d.noteWalk w.ctx va.toNat) s.dev) .walk)

/-- The checks of an instruction fail with `f`, and leave the die as it was. -/
def Machine.State.Fails (s : State) (i : Instr) (c : Ctl) (w : Warp) (f : FaultInfo) : Prop := s.FailsFrom i c w s.dev f

/-- The instruction completes and leaves the die `d`, but that the warp which `d` holds in the current slot goes on to its
next instruction (R33). -/
def Machine.State.Leaves (s : State) (i : Instr) (d : Dev) : Prop :=
  ∃ w, d.slot s.dev.curCore s.dev.curSlot = some w ∧ s.Completes i d w

/-- The instruction issues and leaves the die `d`, whose warp in the current slot then waits in it. -/
def Machine.State.Waits (s : State) (i : Instr) (d : Dev) (why : Wait) : Prop :=
  ∃ w, d.slot s.dev.curCore s.dev.curSlot = some w ∧ s.GoesOn i d { w with wait := some why }

/-- The instruction writes its own warp alone where its tag checks hold, and takes FORMAT where they do not (R20, R92). -/
def Machine.State.Checks (s : State) (ok : Bool) (i : Instr) (c : Ctl) (w w' : Warp) : Prop :=
  s.Issues i c w → (ok = true → s.Writes i w') ∧ (ok = false → s.Faults i c w (.format w.m))

/-- The instruction takes FORMAT where its tag checks fail, ARITH where an event it gathers is enabled in a lane that
computes, and else writes its own warp alone (R92). -/
def Machine.State.Gathers {α : Type} (s : State) (ok : Bool) (i : Instr) (c : Ctl) (w : Warp) (d : Dst)
    (f : Lane → α × Events) (w' : Warp) : Prop :=
  let p := Dev.participants w c
  let seen (l : Lane) : Events := if (Dst.lanes d p).getLsbD l.val then (f l).2 else 0
  s.Issues i c w →
    (ok = true → (∀ l, trapped w.mode (seen l) = false) → s.Writes i w') ∧
    (ok = true → (∃ l, trapped w.mode (seen l) = true) →
      s.Faults i c w (.arith ((lanesOf p).map fun l => (l, seen l)))) ∧
    (ok = false → s.Faults i c w (.format w.m))

/-- The step goes on with a die of which `effect` holds, the rest of the machine as it was. -/
def Machine.State.Moves (s : State) (i : Instr) (effect : Dev → Prop) : Prop :=
  s.board.on = true → ∃ d, exec i s = .next { s with dev := d } ∧ effect d

/-- No memory instruction is sampled (R390). -/
def Machine.State.Unsampled (s : State) : Prop := ∀ t, s.dev.trace = some t → t.cats.getLsbD 7 = false

/-- The fault of a write-back that fails: the failing address in every participating lane (R364, R371). -/
def writeBackFault (p : Mask) (e : WbFault) : FaultInfo :=
  { FaultInfo.warpWide e.code p (BitVec.ofNat 64 e.va) with wb := some (BitVec.ofNat 64 e.va) }

/-- Steps 3 and 4 of a release, from the die `d1` that step 2 has left (R227, R253): at die and system scope the bytes of the
owner's regions go home, and at system scope the warp waits for a read behind its stores into windows. -/
def Machine.State.HomeThen (s : State) (i : Instr) (c : Ctl) (w : Warp) (d1 : Dev) (scope : Scope) (after : Dev → Prop) : Prop :=
  let k := s.dev.curCore
  let j := s.dev.curSlot
  let p := Dev.participants w c
  let home := if scope == .die || scope == .system then d1.writeBackRegions k j (fun r => w.owns r.owner) else .ok d1
  (∀ e, home = .error e → s.FaultsFrom i c w d1 (writeBackFault p e)) ∧
  (∀ d2, home = .ok d2 →
    let ports := ((d2.slot k j).map (·.ports)).getD []
    (scope ≠ .system ∨ ports = [] → after d2) ∧
    (scope = .system → (∃ q ∈ ports, (d2.port q).up = false) → s.FaultsFrom i c w d2 (.warpWide Code.link p)) ∧
    (scope = .system → ports ≠ [] → (∀ q ∈ ports, (d2.port q).up = true) → s.Holds i (ports.foldl (fun d q =>
      d.modPort q fun y => { y with zreads := y.zreads ++ [(y.posted.length, some (k, j))] }) d2) (.release 2)))

/-- An instruction that releases at a scope before its own effect `after` (R253), from the die `d0` that its checks have left:
held until its warp's loads and stores are over; then, at core scope under scope-recorded lines, its task's lines are recorded,
else its task's dirty lines on the core are probed, and where every one translates they go home, a single one at once, several
while the warp is held, unless a frame has become protected meanwhile (R405); then steps 3 and 4. -/
def Machine.State.Releases (s : State) (i : Instr) (c : Ctl) (w : Warp) (d0 : Dev) (scope : Scope) (after : Dev → Prop) :
    Prop :=
  let k := s.dev.curCore
  let j := s.dev.curSlot
  let p := Dev.participants w c
  let reading : Bool := (List.finRange 6).any fun q => (d0.port q).zreads.any fun z => z.2 == some (k, j)
  let lines := d0.probe k (d0.dirtyLines k fun l => l.owner.2 == w.task)
  let begins := w.wait ≠ some (.release 2) ∧ w.wait ≠ some (.release 3)
  let recorded := d0.recorded w.ctx = true ∧ scope = .core
  (w.wait = some (.release 2) →
    (reading = true → s.Holds i d0 (.release 2)) ∧
    (reading = false → after (d0.modWarp k j fun w => { w with ports := [] }))) ∧
  (w.wait = some (.release 3) →
    let d := d0.writeLines k j fun _ => true
    (∀ e, d0.lateRefusal k w (fun _ => true) = some e → s.FaultsFrom i c w d (writeBackFault p e)) ∧
    (d0.lateRefusal k w (fun _ => true) = none → s.HomeThen i c w d scope after)) ∧
  (begins → w.drained = false → s.Holds i d0 (.release 1)) ∧
  (begins → w.drained = true → recorded → s.HomeThen i c w (d0.recordLines k w.task) scope after) ∧
  (begins → w.drained = true → ¬recorded →
    (∀ e, lines = .error e → s.FaultsFrom i c w d0 (writeBackFault p e)) ∧
    (∀ ls, lines = .ok ls →
      (ls.length < 2 → s.HomeThen i c w (ls.foldl (fun d y => d.flushLine k y.1 y.2) d0) scope after) ∧
      (2 ≤ ls.length → s.Holds i (d0.modWarp k j fun w => { w with flushing := ls.map fun y => (y.1.va, y.2.pa, y.2.key) })
        (.release 3))))

end Sys2Proof
end

