-- ==== Sys2Proof/Certificates/Slice0/Obligations.lean ====
section
/-! DEFINITION. The statements for the provers: what each instruction and each step of another agent does, in the words of the
numbered rules, and what every step keeps. -/

open Sys2Proof Sys2Proof.Machine

/-! ### Encoding, fetching, the step -/

/-- R25 to R31, R41, R72 to R81: the decoder takes exactly the words that the encoder writes for well-formed instructions,
each word for one instruction. -/
def Obligations.WordsAndInstructions : Prop :=
  ∀ (word : BitVec 96) (i : Instr), decode word = .ok i ↔ i.WellFormed ∧ encode i = some word

/-- R25, R41: words that the spec's examples write out (least significant of the three first), a few of each family, and what
they stand for; and words refused for the reasons of Table 1.7. -/
def Obligations.WordsOfTheTables : Prop :=
  let plain : Ctl := { gp := 7, gn := false, stop := false, stall := 0, sb := 0, yield := false }
  let p1 : Ctl := { plain with gp := 1 }
  let word (w0 w1 w2 : Word) : BitVec 96 := w2 ++ w1 ++ w0
  let stands (w0 w1 w2 : Word) (i : Instr) : Prop := decode (word w0 w1 w2) = .ok i
  stands 0x06047010 0x000078FF 0x00210000 (.iadd plain ⟨.v 4, .v 6, .inl 0x7F⟩ 0 true false true) ∧
  stands 0x02017034 0x00000403 0x000A0000 (.gmad plain ⟨.v 1, .v 2, .v 3, .v 4⟩ 0 .l16 .sr .dflt) ∧
  stands 0x07067B50 0x00027878 0x00080000 (.cvt plain ⟨.v 6, .v 7⟩ .e4m3 .l16 .rn .ovf) ∧
  stands 0x78789001 0x00287878 0x00000000 (.bra { p1 with gn := true } 0x28) ∧
  stands 0x78787005 0x004C7878 0x00400000 (.rcv { plain with stop := true } 0x4C) ∧
  stands 0x01037260 0x00007884 0x00000000 (.lpick plain ⟨.v 3, .v 1, .inl 4⟩ 0 .down false) ∧
  stands 0x08447663 0x00007878 0x000C0000 (.redx plain ⟨.w 4, .v 8⟩ 0 (.gadd .l32 .rn)) ∧
  stands 0x78107470 0x00087878 0x00000000 (.bind plain 4 16 8) ∧
  stands 0x874370A0 0x00007878 0x00000000 (.join plain 3 (.inl 7) 0) ∧
  stands 0x20027280 0x00087878 0x00180000 (.ldg plain (.v 2) (.v 32) 8 (some .i64) .b64) ∧
  stands 0x04787581 0x00104505 0x00090000 (.stg plain (.v 4) (.v 5) (some (.w 5)) 0x10 (some .l16) .b16) ∧
  stands 0x08047985 0x00000C0A 0x001E0000 (.atom plain ⟨.v 4, .v 8, .v 10, .v 12⟩ 0 .cas .b64 .system false) ∧
  stands 0x78787289 0x00007878 0x00060000 (.fenceAr plain .system) ∧
  stands 0x447810B0 0x1005464A 0x00000000 (.cpyGl p1 (.w 4) (.w 10) (.w 6) (some 5)) ∧
  stands 0x4C7811C0 0x00007878 0x00000000 (.mmaLoc p1 (.w 12) 0) ∧
  stands 0x070870D0 0x00005854 0x00000000 (.qnt plain ⟨.v 8, .v 7, .w 20⟩ 24 0 .l8a .rn) ∧
  stands 0x784470E0 0x01057878 0x00000000 (.mfs plain (.w 4) 0x105) ∧
  decode (word 0x787870FF 0x00007878 0) = .error .opcode ∧ decode (word 0x78787100 0x00007878 0) = .error .variant ∧
  decode (word 0x78787000 0x00007878 0x00010000) = .error .mod ∧
  decode (word 0x78787000 0x00007878 0x00800000) = .error .reservedBit ∧
  decode (word 0x60787002 0x00007878 0) = .error .operand ∧ decode (word 0x78787000 0x00017878 0) = .error .imm

/-- R33, R44, R132, R133, R156, R411: a step takes the next turn of the schedule (log 1) and then lets time pass (log 3); with
no turn left the current slot's warp takes the instruction that the bytes at its program counter decode to, or the fault of
its fetch, or asks for the line that is absent. A pipe's turn runs the slot that the pipe chooses: a ready warp, the longest
passed over once one's age is 57, else of the highest class. R438: while the clamp withholds the vector pipes, nothing issues. -/
def Obligations.StepRunsTheInstruction : Prop :=
  ∀ (s : State) (rest : List Turn),
    let d := s.dev
    let k := d.curCore
    let j := d.curSlot
    let later : State := { s with sched := rest }
    let none_ := s.sched = []
    let comes (w : Warp) : Prop := d.slot k j = some w ∧ d.comes k w = true
    (s.board.on = false → none_ → step s = .fault .moduleOff) ∧
    (s.board.on = true → s.board.holdVector = true → none_ → step s = ticked (.next s)) ∧
    (s.board.on = true → s.board.holdVector = false → none_ →
      ((∀ w, ¬comes w) → step s = ticked (.next s)) ∧
      (∀ w, comes w →
        (∀ code, (d.via k).fetchFault w.ctx w.pc.toNat = some code →
          step s = ticked (.next { s with dev := d.takeFault k j w (Dev.fetchInfo code w.m w.pc) })) ∧
        ((d.via k).fetchFault w.ctx w.pc.toNat = none → d.icacheFind k w.ctx w.pc.toNat = none →
          step s = ticked (.next { s with dev := d.demandFill k j w })) ∧
        (∀ l i, (d.via k).fetchFault w.ctx w.pc.toNat = none → d.icacheFind k w.ctx w.pc.toNat = some l →
          decodeBytes (l.words.drop (w.pc.toNat % 256)) = .ok i → step s = ticked (exec i s)))) ∧
    (∀ i, s.sched = .event i :: rest → i.isWarp = false → isPacket i = false → step s = ticked (exec i later)) ∧
    (∀ q p i, s.sched = .packet q :: rest → s.board.on = true → d.headPacket q = some p → p.cmd = some i →
      d.consumer q p.hdr.barrier ≠ none → step s = ticked (exec i (later.onDev fun d => d.behindRing q))) ∧
    (∀ k' p, s.sched = .issue k' p :: rest → s.board.on = true → s.board.holdVector = true → step s = ticked (.next later)) ∧
    (∀ k' p j' t, s.sched = .issue k' p :: rest → s.board.on = true → s.board.holdVector = false →
      later.choose k' p = (some j', t) →
      step s = ticked (runCurrent { t with dev := { t.dev with curCore := k', curSlot := j' } }) ∧
      let ready := (later.poll k' p).readyWarps k' p
      ∃ w, (j', w) ∈ ready ∧ ((∃ r ∈ ready, 57 ≤ r.2.age) → ∀ r ∈ ready, r.2.age ≤ w.age) ∧
        ((∀ r ∈ ready, r.2.age < 57) → ∀ r ∈ ready, r.2.prio ≤ w.prio)) ∧
    ∀ t : State, ∃ n, ticked (.next t) =
      .next ((t.onDev fun d => ({ d with draw := d.draw + 1 }.advance n).wake).noteReady t.dev.clock)

/-- R151, R216, R307, R392, R404, R408, R409, R438, R441: the machine right after reset; that it has no context, no warp and
no task, and that the values which no rule gives are those of the log entries named in State.lean, is the model's choice. -/
def Obligations.ResetState : Prop :=
  let d := State.reset.dev
  let b := State.reset.board
  State.reset.Legal ∧ State.reset.MemOk ∧ b.on = true ∧ d.pwrlim = 1800 ∧ d.fwlock = false ∧
  (∀ pa, d.rawByte pa = 0) ∧ (∀ n : BitVec 10, d.material n = 0) ∧ d.clock = 0 ∧ d.ptp = 0 ∧ d.ptpRate = 0 ∧ d.ptpDue = 0 ∧
  (∀ k b, b < 16 → (d.core k).modeAt b = if b < 8 then .cache else .scratchpad) ∧
  (∀ k n, Sparse.get 0x40000000 (d.core k).tiles n = 0x40000000 ∧ (d.core k).drec = []) ∧
  (∀ cl i, d.dep cl i = { value := 0, err := false, waiters := [] }) ∧
  (∀ k j, d.slot k j = none) ∧ (∀ c, d.context c = none) ∧ d.tasks = [] ∧ d.exec = []

/-! ### What every step keeps -/

/-- R419, R438, R441: every step keeps the board legal, and no step unblows a fuse. -/
def Obligations.StepKeepsTheBoard : Prop :=
  ∀ s t : State, s.Legal → step s = .next t → t.Legal ∧ s.board.FusesRise t.board

/-- The list of the bytes of physical memory keeps its canonical form at every step (log 5). -/
def Obligations.StepKeepsTheMemory : Prop :=
  ∀ s t : State, s.MemOk → step s = .next t → t.MemOk

/-! ### The instructions of a warp that write registers -/

/-- R12 to R14, R21, R93: a write of a v register takes the participating lanes and no other register, its tag RAW where the
active mask is not full and the old tag differs; a w register is written whole, from the lowest participating lane; p7 and the
destination 0x78 discard; a pair is two registers. -/
def Obligations.RegisterWrites : Prop :=
  ∀ (w : Warp) (r : Fin 64) (u : Fin 32) (pd : Fin 8) (p : Mask) (val : Lane → Word) (pair : Lane → DWord) (bits : Mask)
    (t : Tag) (d : Dst),
    let v := w.setDst (.v r) 0 p val t
    (p ≠ 0 →
      (∀ l, v.vAt r l = if p.getLsbD l.val then val l else w.vAt r l) ∧
      v.vTag r = (if w.m = Mask.all ∨ w.vTag r = t ∨ w.vTag r = .undef then t else .raw)) ∧
    (∀ q l, q ≠ r → v.vAt q l = w.vAt q l ∧ v.vTag q = w.vTag q) ∧ { v with v := w.v, vt := w.vt } = w ∧ (p = 0 → v = w) ∧
    (∀ l, lowestLane p = some l → w.setDst (.w u) 0 p val t = { w with w := w.w.set u.val (val l), wt := w.wt.set u.val t }) ∧
    (w.setDst (.w u) 0 0 val t = w) ∧ w.setDst .none 0 p val t = w ∧
    w.setPair d p pair t = (w.setDst d 0 p (fun l => (pair l).setWidth 32) t).setDst d 1 p
      (fun l => (pair l).extractLsb' 32 32) t ∧
    (pd = 7 → w.setPred pd p bits = w) ∧
    (pd ≠ 7 → (∀ l : Lane, ((w.setPred pd p bits).pred pd).getLsbD l.val =
        if p.getLsbD l.val then bits.getLsbD l.val else (w.pred pd).getLsbD l.val) ∧
      (∀ q, q ≠ pd → (w.setPred pd p bits).pred q = w.pred q) ∧ { w.setPred pd p bits with p := w.p } = w)

/-- Table 4.1 with R95 and R96: typed sources, exact arithmetic, then wrapping or SAT's clamp; FORMAT where a tag fails. -/
def Obligations.IntegerArithmetic : Prop :=
  ∀ (s : State) (c : Ctl) (imm : Word) (w : Warp) (W N S : Bool) (o : D2) (e : D3) (u : D1), s.Follows c w →
    let v := (s.site c imm w).v
    let two (i : Instr) (n sat : Bool) (f : Int → Int → Int) : Prop :=
      s.Checks (v.isInt W o.a && v.isInt W o.b) i c w
        (w.setStar W o.d v.p fun l => narrow W n sat (f (v.int W n o.a l) (v.int W n o.b l)))
    let one (i : Instr) (f : Int → Int) : Prop :=
      s.Checks (v.isInt W u.a) i c w (w.setStar W u.d v.p fun l => narrow W false S (f (v.int W false u.a l)))
    two (.iadd c o imm W N S) N S (· + ·) ∧ two (.isub c o imm W N S) N S (· - ·) ∧
    two (.imul c o imm W) false false (· * ·) ∧
    two (.imulh c o imm W N) N false (fun a b => a * b / (2 ^ starBits W : Nat)) ∧
    two (.imin c o imm W N) N false min ∧ two (.imax c o imm W N) N false max ∧
    s.Checks (v.isInt W e.a && v.isInt W e.b && v.isInt W e.c) (.imad c e imm W) c w
      (w.setStar W e.d v.p fun l =>
        narrow W false false (v.int W false e.a l * v.int W false e.b l + v.int W false e.c l)) ∧
    one (.iabs c u imm W S) (fun a => (a.natAbs : Int)) ∧ one (.ineg c u imm W S) (fun a => -a)

/-- Table 4.2 with R97 and R98: shifts by the low byte of the count, bitwise operations, counts and bit fields, on sources of
any tag but UNDEF. -/
def Obligations.BitOperations : Prop :=
  ∀ (s : State) (c : Ctl) (imm : Word) (w : Warp) (W N : Bool) (table : BitVec 8) (o : D2) (e : D3) (u : D1), s.Follows c w →
    let v := (s.site c imm w).v
    let v0 := (s.site c 0 w).v
    let n := starBits W
    let shift (i : Instr) (f : Nat → Nat → Nat) : Prop := s.Checks (v.isBits W o.a && v.defined 1 o.b) i c w
      (w.setStar W o.d v.p fun l => f (v.bits W o.a l) ((v.word o.b l).toNat % 256))
    let two (i : Instr) (f : Nat → Nat → Nat) : Prop := s.Checks (v.isBits W o.a && v.isBits W o.b) i c w
      (w.setStar W o.d v.p fun l => f (v.bits W o.a l) (v.bits W o.b l))
    let one (i : Instr) (f : Nat → Nat) : Prop :=
      s.Checks (v.isBits W u.a) i c w (w.setStar W u.d v.p fun l => f (v.bits W u.a l))
    let count (i : Instr) (f : Nat → Nat) : Prop :=
      s.Checks (v.isBits W u.a) i c w (w.setDst u.d 0 v.p (fun l => BitVec.ofNat 32 (f (v.bits W u.a l))) .i32)
    let field (i : Instr) (f : Nat → Nat → Nat → Nat) : Prop :=
      s.Checks (v.defined 1 e.a && v.defined 1 e.b && v.defined 1 e.c) i c w (w.setDst e.d 0 v.p (fun l =>
        BitVec.ofNat 32 (f (v.word e.a l).toNat (v.word e.b l).toNat (v.word e.c l).toNat)) .i32)
    shift (.shl c o imm W) (shlBits n) ∧ shift (.shr c o imm W) (shrBits n) ∧
    shift (.sar c o imm W) (sarBits n) ∧ shift (.rot c o imm W) (rotBits n) ∧
    two (.and c o imm W) (· &&& ·) ∧ two (.or c o imm W) (· ||| ·) ∧ two (.xor c o imm W) (· ^^^ ·) ∧
    one (.not c u imm W) (fun a => 2 ^ n - 1 - a) ∧
    one (.brev c u imm W) (fun a => ofBits n fun i => a.testBit (n - 1 - i)) ∧
    count (.popc c u imm W) (fun a => popCount (BitVec.ofNat n a)) ∧
    count (.clz c u imm W) (fun a => if a = 0 then n else n - 1 - a.log2) ∧
    field (.bfe c e imm N) (fun x pos len =>
      let p := pos % 256
      let top := min (p + len % 256) 32 - 1
      ofBits 32 fun i => len % 256 != 0 && decide (p < 32) &&
        if p + i ≤ top then x.testBit (p + i) else !N && x.testBit top) ∧
    field (.bfi c e imm) (fun base ins ctl =>
      let p := ctl % 256
      ofBits 32 fun i => if p ≤ i ∧ i < p + ctl / 256 % 256 then ins.testBit (i - p) else base.testBit i) ∧
    s.Checks (v0.isBits W e.a && v0.isBits W e.b && v0.isBits W e.c) (.bfn3 c e table W) c w
      (w.setStar W e.d v0.p fun l => ofBits n fun i =>
        tableBit table ((v0.bits W e.a l).testBit i) ((v0.bits W e.b l).testBit i) ((v0.bits W e.c l).testBit i))

/-- R99 to R102: comparisons and predicate tables write a predicate; SEL, MOV, LEA and RETAG write registers with the tags
that the rules give. R47: SEL and MOV write zeros above a value of one or two bytes; that RETAG keeps every bit is the model's
reading of R102 (log 99). -/
def Obligations.PredicatesAndMoves : Prop :=
  ∀ (s : State) (c : Ctl) (imm : Word) (w : Warp) (W N : Bool) (o : D2) (u : D1) (pd pa pb pc : Fin 8) (cmp : Cmp)
    (table : BitVec 8) (sh : Fin 8) (tag : Tag), s.Follows c w →
    let x := s.site c imm w
    let v := x.v
    let kept (i : Nat) : Tag := (v.tagAt u.a i).getD (if W then .i64 else .i32)
    let sel0 := selTag v W o.a o.b 0
    let sel1 := if W then selTag v W o.a o.b 1 else some .i32
    s.Checks (v.isInt W o.a && v.isInt W o.b) (.icmp c pd o.a o.b imm W N cmp) c w
      (w.setPred pd v.p (maskOf fun l => cmpInt cmp (v.int W N o.a l) (v.int W N o.b l))) ∧
    s.Checks true (.pcomb c pd pa pb pc table) c w (w.setPred pd v.p (maskOf fun l =>
      tableBit table ((w.pred pa).getLsbD l.val) ((w.pred pb).getLsbD l.val) ((w.pred pc).getLsbD l.val))) ∧
    s.Checks (sel0.isSome && sel1.isSome) (.sel c o pa imm W) c w (x.move o.d W (fun l =>
      if (w.pred pa).getLsbD l.val then x.moved W o.a l else x.moved W o.b l) (sel0.getD .undef) (sel1.getD .undef)) ∧
    s.Checks (v.isBits W u.a) (.mov c u imm W) c w (x.move u.d W (x.moved W u.a) (kept 0) (kept 1)) ∧
    s.Checks (v.isInt true o.a && v.isInt false o.b) (.lea c o imm N sh) c w (w.setPair o.d v.p (fun l =>
      BitVec.ofInt 64 (v.int true true o.a l + v.int false N o.b l * (2 ^ sh.val : Nat))) .i64) ∧
    s.Checks true (.retag c tag u imm) c w (x.moveBits u.d (tag == .i64) (x.moved (tag == .i64) u.a) tag tag)

/-- R48, R92, R103 to R112: an operation of the real group acts on each element under the instruction's rounding, its events
gathered in each lane; GCMP and GCLASS gather none. R58, R60, R61, R106 to R112, Tables 2.5 and 4.3 to 4.5: the values on the first
NaN source, of the products and quotients of logs checked against the range, of sums that are exact, and of the special operands.
That GSIG of ±0 is 0.5 in L8B too, whose code R112 gives otherwise, is the model's choice (log 120). -/
def Obligations.RealOperations : Prop :=
  (∀ (s : State) (c : Ctl) (imm : Word) (w : Warp) (f : Fmt) (rnd : Rnd) (ov : Ov) (msk : Bool) (cmp : Cmp) (pd : Fin 8)
    (u : D1) (o : D2) (e : D3), s.Follows c w →
    let x := s.site c imm w
    let at_ (a : Opnd) (l : Lane) (j : Nat) : Machine.Num := elemOf f (x.v.real f a l) j
    let writes (ok : Bool) (i : Instr) (d : Dst) (r : Lane → Word × Events) : Prop :=
      s.Gathers ok i c w d r (w.setDst d 0 x.p (fun l => (r l).1) f.tag)
    let one (i : Instr) (rnd : Rnd) (ov : Ov) (op : RCtx → Machine.Num → Res) : Prop :=
      writes (x.isReal f u.a) i u.d fun l => elements f (x.rctx rnd ov l 0) fun r j => op r (at_ u.a l j)
    let two (i : Instr) (rnd : Rnd) (ov : Ov) (op : RCtx → Machine.Num → Machine.Num → Res) : Prop :=
      writes (x.isReal f o.a && x.isReal f o.b) i o.d fun l =>
        elements f (x.rctx rnd ov l 0) fun r j => op r (at_ o.a l j) (at_ o.b l j)
    let three (i : Instr) (op : RCtx → Machine.Num → Machine.Num → Machine.Num → Res) : Prop :=
      writes (x.isReal f e.a && x.isReal f e.b && x.isReal f e.c) i e.d fun l =>
        elements f (x.rctx rnd ov l (dither3 (x.v.real f e.a l) (x.v.real f e.b l) (x.v.real f e.c l))) fun r j =>
          op r (at_ e.a l j) (at_ e.b l j) (at_ e.c l j)
    let byInt (i : Instr) (op : RCtx → Machine.Num → Int → Res) : Prop :=
      writes (x.isReal f o.a && x.v.isInt false o.b) i o.d fun l =>
        elements f (x.rctx .rn ov l 0) fun r j => op r (at_ o.a l j) (x.v.int false false o.b l)
    two (.gadd c o imm f rnd ov) rnd ov (RealOp.add f.elem) ∧ two (.gsub c o imm f rnd ov) rnd ov (RealOp.sub f.elem) ∧
    two (.gmul c o imm f ov) .rn ov (RealOp.mul f.elem) ∧ two (.gdiv c o imm f ov) .rn ov (RealOp.div f.elem) ∧
    three (.gmad c e imm f rnd ov) (RealOp.mad f.elem) ∧
    one (.gsqrt c u imm f) .rn .dflt (fun _ => RealOp.sqrt f.elem) ∧
    one (.grsq c u imm f rnd ov) rnd ov (RealOp.rsq f.elem) ∧
    one (.grcp c u imm f ov msk) .rn ov (fun r => RealOp.rcp f.elem r msk) ∧
    two (.gmin c o imm f) .rn .dflt (fun _ a b => (RealOp.pick f.elem false a b, 0)) ∧
    two (.gmax c o imm f) .rn .dflt (fun _ a b => (RealOp.pick f.elem true a b, 0)) ∧
    one (.gabs c u imm f) .rn .dflt (fun _ a => (a.abs, 0)) ∧ one (.gneg c u imm f) .rn .dflt (fun _ a => (a.negate, 0)) ∧
    byInt (.gscale c o imm f ov) (RealOp.scale f.elem) ∧ byInt (.gpow c o imm f ov) (RealOp.pow f.elem) ∧
    three (.gexp2 c e imm f rnd ov msk) (fun r => RealOp.exp2 f.elem r msk) ∧
    one (.glog2 c u imm f rnd ov) rnd ov (RealOp.log2 f.elem) ∧ one (.gtanh c u imm f rnd ov) rnd ov (RealOp.tanh f.elem) ∧
    one (.gsig c u imm f rnd ov) rnd ov (RealOp.sig f.elem) ∧
    s.Checks (x.isReal f o.a && x.isReal f o.b) (.gcmp c pd o.a o.b imm f cmp) c w
      (w.setPred pd x.p (maskOf fun l => RealOp.cmp f cmp (at_ o.a l 0) (at_ o.b l 0))) ∧
    s.Checks (x.isReal f u.a) (.gclass c u imm f) c w (w.setDst u.d 0 x.p (fun l => RealOp.cls f (at_ u.a l 0)) .i32)) ∧
  (∀ (f : Fmt) (r : RCtx) (a b c x : Machine.Num) (s t msk : Bool) (l k : Int) (n : Int),
    let h : Int := 2 ^ (f.logBits - 1)
    let ranged (s : Bool) (l : Int) (y : Res) : Prop :=
      (l < -h → y = (.zero s, Ev.uf)) ∧ (-h ≤ l → l < h → y = (.fin s l, 0)) ∧
      (h ≤ l → r.sat = true ∨ r.mode = .rz → y = (.fin s (h - 1), Ev.of_)) ∧
      (h ≤ l → r.sat = false → r.mode ≠ .rz → y = (.inf s, Ev.of_))
    let same (y : Res) (x : Machine.Num) : Prop := y = (x, 0)
    let bad (y : Res) : Prop := y = (.canonical f false, Ev.nv)
    let q := s != t
    let held := -h ≤ l ∧ l < h
    let down (m : Int) : Int := m / 2
    let near (m : Int) : Int := if m % 2 = 0 ∨ down m % 2 = 0 then down m else down m + 1
    let odd := n % 2 = 1 ∧ s = true
    let pw (y : Res) (z : Bool → Machine.Num) : Prop := (odd → y = (z true, 0)) ∧ (¬odd → y = (z false, 0))
    (Num.firstNan [a, b] = some x → same (RealOp.add f r a b) x ∧ same (RealOp.sub f r a b) x ∧ same (RealOp.mul f r a b) x ∧
      same (RealOp.div f r a b) x ∧ RealOp.pick f msk a b = x) ∧
    (Num.firstNan [a, b, c] = some x → same (RealOp.mad f r a b c) x ∧ same (RealOp.exp2 f r msk a b c) x) ∧
    (a.isNan = true → same (RealOp.rcp f r msk a) a ∧ same (RealOp.scale f r a n) a ∧ same (RealOp.pow f r a n) a ∧
      same (RealOp.sqrt f a) a ∧ same (RealOp.rsq f r a) a ∧ same (RealOp.log2 f r a) a ∧ same (RealOp.tanh f r a) a ∧
      same (RealOp.sig f r a) a ∧ a.abs = a ∧ a.negate = a) ∧
    (ranged q (l + k) (RealOp.mul f r (.fin s l) (.fin t k)) ∧ same (RealOp.mul f r (.zero s) (.fin t k)) (.zero q) ∧
      same (RealOp.mul f r (.fin s l) (.zero t)) (.zero q) ∧ same (RealOp.mul f r (.zero s) (.zero t)) (.zero q) ∧
      same (RealOp.mul f r (.inf s) (.fin t k)) (.inf q) ∧ same (RealOp.mul f r (.fin s l) (.inf t)) (.inf q) ∧
      same (RealOp.mul f r (.inf s) (.inf t)) (.inf q) ∧ bad (RealOp.mul f r (.zero s) (.inf t)) ∧
      bad (RealOp.mul f r (.inf s) (.zero t))) ∧
    (ranged q (l - k) (RealOp.div f r (.fin s l) (.fin t k)) ∧ RealOp.div f r (.fin s l) (.zero t) = (.inf q, Ev.dz) ∧
      same (RealOp.div f r (.zero s) (.fin t k)) (.zero q) ∧ same (RealOp.div f r (.fin s l) (.inf t)) (.zero q) ∧
      same (RealOp.div f r (.zero s) (.inf t)) (.zero q) ∧ same (RealOp.div f r (.inf s) (.fin t k)) (.inf q) ∧
      same (RealOp.div f r (.inf s) (.zero t)) (.inf q) ∧ bad (RealOp.div f r (.zero s) (.zero t)) ∧
      bad (RealOp.div f r (.inf s) (.inf t))) ∧
    (ranged s (-l) (RealOp.rcp f r msk (.fin s l)) ∧ RealOp.rcp f r false (.zero s) = (.inf s, Ev.dz) ∧
      same (RealOp.rcp f r true (.zero s)) (.zero s) ∧ same (RealOp.rcp f r msk (.inf s)) (.zero s) ∧
      ranged s (l + n * 2 ^ f.frac) (RealOp.scale f r (.fin s l) n) ∧ same (RealOp.scale f r (.zero s) n) (.zero s) ∧
      same (RealOp.scale f r (.inf s) n) (.inf s)) ∧
    (n = 0 → a.isNan = false → same (RealOp.pow f r a n) .one) ∧
    (n ≠ 0 → ranged (n % 2 == 1 && s) (l * n) (RealOp.pow f r (.fin s l) n)) ∧
    (0 < n → pw (RealOp.pow f r (.zero s) n) .zero ∧ pw (RealOp.pow f r (.inf s) n) .inf) ∧
    (n < 0 → pw (RealOp.pow f r (.zero s) n) .inf ∧ pw (RealOp.pow f r (.inf s) n) .zero) ∧
    (same (RealOp.add f r (.fin s l) (.fin (!s) l)) (.zero false) ∧ same (RealOp.add f r (.zero s) (.zero t)) (.zero (s && t)) ∧
      (held → same (RealOp.add f r (.fin s l) (.zero t)) (.fin s l) ∧ same (RealOp.add f r (.zero t) (.fin s l)) (.fin s l)) ∧
      ranged s (l + 2 ^ f.frac) (RealOp.add f r (.fin s l) (.fin s l)) ∧
      same (RealOp.add f r (.inf s) (.fin t k)) (.inf s) ∧ same (RealOp.add f r (.fin t k) (.inf s)) (.inf s) ∧
      same (RealOp.add f r (.inf s) (.zero t)) (.inf s) ∧ same (RealOp.add f r (.zero t) (.inf s)) (.inf s) ∧
      same (RealOp.add f r (.inf s) (.inf s)) (.inf s) ∧ bad (RealOp.add f r (.inf s) (.inf (!s))) ∧
      RealOp.sub f r a b = RealOp.add f r a b.negate) ∧
    (same (RealOp.sqrt f (.fin false l)) (.fin false (near l)) ∧ same (RealOp.sqrt f (.zero s)) (.zero s) ∧
      same (RealOp.sqrt f (.inf false)) (.inf false) ∧ bad (RealOp.sqrt f (.fin true l)) ∧ bad (RealOp.sqrt f (.inf true)) ∧
      (held → same (RealOp.rsq f r (.fin false l)) (.fin false (match r.mode with
        | .rn => near (-l)
        | .rz => down (-l)
        | .sr => if l % 2 ≠ 0 ∧ r.s.toNat < 2 ^ 31 then down (-l) + 1 else down (-l)))) ∧
      same (RealOp.rsq f r (.zero s)) (.inf s) ∧ same (RealOp.rsq f r (.inf false)) (.zero false) ∧
      bad (RealOp.rsq f r (.fin true l)) ∧ bad (RealOp.rsq f r (.inf true))) ∧
    (∀ x y, a.key f = some x → b.key f = some y →
      (x < y → RealOp.pick f false a b = a ∧ RealOp.pick f true a b = b) ∧
      (y < x → RealOp.pick f false a b = b ∧ RealOp.pick f true a b = a) ∧
      ∀ c, RealOp.cmp f c a b = (match c with
        | .eq => decide (x = y)
        | .ne => decide (x ≠ y)
        | .lt => decide (x < y)
        | .le => decide (x ≤ y)
        | .gt => decide (y < x)
        | .ge => decide (y ≤ x)
        | .num => true
        | .nan => false)) ∧
    (a.key f = none ∨ b.key f = none → ∀ c, RealOp.cmp f c a b = (c == .ne || c == .nan)) ∧
    (RealOp.pick f false (.zero s) (.zero t) = .zero (s || t) ∧ RealOp.pick f true (.zero s) (.zero t) = .zero (s && t)) ∧
    (let bit (n : Nat) : Bool := (RealOp.cls f a).getLsbD n;
      (bit 0 = true ↔ a = .inf true) ∧ (bit 1 = true ↔ ∃ l, a = .fin true l) ∧ (bit 2 = true ↔ a = .zero true) ∧
      (bit 3 = true ↔ a = .zero false) ∧ (bit 4 = true ↔ ∃ l, a = .fin false l) ∧ (bit 5 = true ↔ a = .inf false) ∧
      (bit 6 = true ↔ ∃ p, a = .nan false p) ∧ (bit 7 = true ↔ ∃ p, a = .nan true p) ∧
      (bit 8 = true ↔ ∃ s, a = .fin s (h - 1)) ∧ (bit 9 = true ↔ ∃ s, a = .fin s (-h)) ∧
      ∀ n, 10 ≤ n → bit n = false) ∧
    (∀ p, mulNum b a = some p → a.isNan = false → b.isNan = false →
      let e (m : Machine.Num) : Res := RealOp.exp2 f r msk a b m;
      (p = .inf false → (∀ m, m.isNan = false → m ≠ .inf false → same (e m) (.inf false)) ∧
        (msk = true → same (e (.inf false)) .one) ∧ (msk = false → bad (e (.inf false)))) ∧
      (p = .inf true → (∀ m, m.isNan = false → m ≠ .inf true → same (e m) (.zero false)) ∧
        (msk = true → same (e (.inf true)) (.zero false)) ∧ (msk = false → bad (e (.inf true)))) ∧
      ((∀ s, p ≠ .inf s) → same (e (.inf true)) (.inf false) ∧ same (e (.inf false)) (.zero false))) ∧
    (mulNum b a = none → a.isNan = false → b.isNan = false → c.isNan = false → bad (RealOp.exp2 f r msk a b c)) ∧
    (same (RealOp.log2 f r (.zero s)) (.inf true) ∧ same (RealOp.log2 f r (.inf false)) (.inf false) ∧
      same (RealOp.log2 f r .one) (.zero false) ∧ bad (RealOp.log2 f r (.fin true l)) ∧ bad (RealOp.log2 f r (.inf true)) ∧
      same (RealOp.tanh f r (.zero s)) (.zero s) ∧ same (RealOp.tanh f r (.inf s)) (.fin s 0) ∧
      same (RealOp.sig f r (.zero s)) (.fin false (-2 ^ f.frac)) ∧ same (RealOp.sig f r (.inf false)) .one ∧
      same (RealOp.sig f r (.inf true)) (.zero false)))

/-- R113 and R114: WSTEP and WMERGE write the mean and M2 into a pair of registers, their events gathered. R115 to R118: CVT
converts under the instruction's rounding, its events gathered; PACK and UNPK move elements. -/
def Obligations.ConversionsAndMeans : Prop :=
  (∀ (s : State) (c : Ctl) (imm : Word) (w : Warp) (f : Fmt) (rnd : Rnd) (ov : Ov) (e : D3), s.Follows c w →
    let x := s.site c imm w
    let v := x.v
    let part (a : Opnd) (i : Nat) (l : Lane) : Machine.Num := elemOf f (x.realPart f a i l) 0
    let writes (ok : Bool) (i : Instr) (r : Lane → (Machine.Num × Machine.Num) × Events) : Prop :=
      s.Gathers ok i c w e.d r
        ((w.setDst e.d 0 x.p (fun l => ofElems f [(r l).1.1]) f.tag).setDst e.d 1 x.p (fun l => ofElems f [(r l).1.2]) f.tag)
    writes (v.has f.tag 2 e.a && x.isReal f e.b && v.isInt false e.c) (.wstep c e imm f rnd ov) (fun l =>
      RealOp.wstep f (x.rctx rnd ov l (dither3 (x.realPart f e.a 0 l) (v.real f e.b l) (v.word e.c l)))
        (part e.a 0 l) (part e.a 1 l) (elemOf f (v.real f e.b l) 0) (v.int false false e.c l)) ∧
    writes (v.has f.tag 2 e.a && v.has f.tag 2 e.b && v.isInt true e.c) (.wmerge c e imm f rnd ov) (fun l =>
      RealOp.wmerge f (x.rctx rnd ov l
          (dither3 (x.realPart f e.a 0 l) (x.realPart f e.b 0 l) (loWord (v.pair e.c l))))
        (part e.a 0 l) (part e.a 1 l) (part e.b 0 l) (part e.b 1 l)
        (loWord (v.pair e.c l)).toNat (hiWord (v.pair e.c l)).toNat)) ∧
  (∀ (s : State) (c : Ctl) (imm : Word) (w : Warp) (dst src : Typ) (rnd : Rnd) (ov : Ov) (f : Fmt) (half : Bool)
    (elem : Fin 4) (u : D1) (e : D3), s.Follows c w →
    let x0 := s.site c 0 w
    let x := s.site c imm w
    let n := f.elem.bits
    let k := if half then 2 else 0
    let cv (l : Lane) := convert dst src (x0.rctx rnd ov l 0) (modeSubIn w.mode) false (x0.cvtBits src u.a l)
    s.Gathers (x0.cvtOk src u.a) (.cvt c u dst src rnd ov) c w u.d cv
      (w.setStar dst.is64 u.d x0.p (fun l => (cv l).1) (typTag dst)) ∧
    s.Checks (x.isReal f.elem e.a && x.isReal f.elem e.b && x.isReal f e.c) (.pack c e imm f half) c w
      (w.setDst e.d 0 x.p (fun l => BitVec.ofNat 32 ((List.range f.count).foldl (fun r j =>
        r + (if j = k then (x.v.real f.elem e.a l).toNat % 2 ^ n
          else if j = k + 1 then (x.v.real f.elem e.b l).toNat % 2 ^ n
          else (x.v.real f e.c l).toNat / 2 ^ (n * j) % 2 ^ n) * 2 ^ (n * j)) 0)) f.tag) ∧
    s.Checks (x.isReal f u.a) (.unpk c u imm f elem) c w
      (w.setDst u.d 0 x.p (fun l => BitVec.ofNat 32 ((x.v.real f u.a l).toNat / 2 ^ (n * elem.val) % 2 ^ n)) f.elem.tag))

/-- R183 to R190: LPICK, BFLY, PREDX and ELECT read other lanes. R188 and R189: REDX reduces the participating lanes by the
tree; its events, gathered over the tree's nodes, trap in every participating lane. That the raw bits of a leaf of REDX.gadd, which
make its random number, are the code with zeros above it is the model's choice (log 97). -/
def Obligations.LaneExchanges : Prop :=
  (∀ (s : State) (c : Ctl) (imm : Word) (w : Warp) (o : D2) (mode : PickMode) (W : Bool) (d a b : Fin 64) (k : Fin 5)
    (dst : Dst) (pd pa : Fin 8), s.Follows c w →
    let x := s.site c imm w
    let kept (i : Nat) : Tag := (x.v.tagAt o.a i).getD (if W then .i64 else .i32)
    let on := w.pred pa &&& x.p
    let all (b : Bool) : Mask := if b then Mask.all else 0
    s.Checks (x.v.isBits W o.a && x.v.isInt false o.b) (.lpick c o imm mode W) c w
      (x.move o.d W (fun l => x.moved W o.a (pickLane mode l (x.v.word o.b l))) (kept 0) (kept 1)) ∧
    s.Checks (w.vTag a == w.vTag b && w.vTag a != .undef) (.bfly c d a b k) c w
      (w.setDst (.v d) 0 x.p (fun l => tagHeld (w.vTag a)
        (if l.val.testBit k.val = a.val.testBit k.val then w.vAt a l else w.vAt b (partner k l))) (w.vTag a)) ∧
    s.Checks true (.predx c (.all pd) pa) c w (w.setPred pd x.p (all (on == x.p))) ∧
    s.Checks true (.predx c (.any pd) pa) c w (w.setPred pd x.p (all (on != 0))) ∧
    s.Checks true (.predx c (.uni pd) pa) c w (w.setPred pd x.p (all (on == x.p || on == 0))) ∧
    s.Checks true (.predx c (.map dst) pa) c w (w.setDst dst 0 x.p (fun _ => on) .i32) ∧
    s.Checks true (.elect c pd) c w (w.setPred pd x.p (match lowestLane x.p with
      | some l => 1#32 <<< l.val
      | none => 0))) ∧
  (∀ (s : State) (c : Ctl) (imm : Word) (w : Warp) (u : D1) (k : RedInt) (W N : Bool) (f : Fmt) (rnd : Rnd), s.Follows c w →
    let x := s.site c imm w
    let tags := match k with
      | .iadd | .imin | .imax => x.v.isInt W u.a
      | .and | .or | .xor => x.v.isBits W u.a
    let real (i : Instr) (node : Nat → Nat → Word → Word → Word × Events) : Prop :=
      let r := treeReduce node x.p (x.v.realCode f u.a)
      s.Issues i c w →
        (x.isReal f u.a = true → trapped w.mode r.2 = false → s.Writes i (w.setDst u.d 0 x.p (fun _ => r.1.getD 0) f.tag)) ∧
        (x.isReal f u.a = true → trapped w.mode r.2 = true →
          s.Faults i c w (.arith ((lanesOf x.p).map fun l => (l, r.2)))) ∧
        (x.isReal f u.a = false → s.Faults i c w (.format w.m))
    s.Checks tags (.redx c u imm (.int k W N)) c w (w.setStar W u.d x.p fun _ =>
      (treeReduce (fun _ _ a b => (redNode k W N a b, 0)) x.p (x.v.bits W u.a)).1.getD 0) ∧
    real (.redx c u imm (.gadd f rnd)) (fun v i a b =>
      let sr := mix (x.v.sp[11] ^^^ x.v.sp[10]) (a ^^^ b.rotateLeft 11 ^^^ (BitVec.ofNat 32 (2 ^ v * i) <<< 24))
      let r := RealOp.add f (rctxOf w.mode rnd .dflt sr) (elemOf f a 0) (elemOf f b 0)
      (ofElems f [r.1], r.2)) ∧
    real (.redx c u imm (.gmin f)) (fun _ _ a b => (ofElems f [RealOp.pick f false (elemOf f a 0) (elemOf f b 0)], 0)) ∧
    real (.redx c u imm (.gmax f)) (fun _ _ a b => (ofElems f [RealOp.pick f true (elemOf f a 0) (elemOf f b 0)], 0)))

/-! ### Limb chains -/

/-- R200 and R201: BIND gives the registers of the range the tag LIMB, clears the carry flags and takes the place of an
earlier binding; UNBIND of the bound range gives its registers I32; both need every lane. R202: without a binding every chain
operation takes LIMB_UNBOUND. -/
def Obligations.ChainBinding : Prop :=
  (∀ (s : State) (c : Ctl) (w : Warp) (seg : Fin 5) (first : Fin 64) (n : BitVec 7), s.Follows c w →
    let p := Dev.participants w c
    let b : Chain := { seg := seg, first := first, count := n.toNat }
    let bound := Instr.bind c seg first n
    let unbound := Instr.unbind c first n
    (s.Issues bound c w → (p = Mask.all → s.Writes bound { w with
        chain := some b, carry := 0
        vt := Vector.ofFn fun r =>
          if b.has r then .limb else if w.chain.any fun o => o.has r then .i32 else w.vTag r }) ∧
      (p ≠ Mask.all → s.Faults bound c w (.warpWide Code.limbDiverge p))) ∧
    (s.Issues unbound c w →
      (p ≠ Mask.all → s.Faults unbound c w (.warpWide Code.limbDiverge p)) ∧
      (p = Mask.all → (w.chain.any fun o => o.first == first && o.count == n.toNat) = false →
        s.Faults unbound c w (.warpWide Code.limbUnbound p)) ∧
      (p = Mask.all → ∀ o, w.chain = some o → o.first = first → o.count = n.toNat →
        s.Writes unbound { w with chain := none, vt := Vector.ofFn fun r => if o.has r then .i32 else w.vTag r }))) ∧
  (∀ (s : State) (c : Ctl) (imm off : Word) (w : Warp) (d a e : Fin 64) (b : Opnd) (pd : Fin 8) (dst : Dst) (ci ar : Bool)
    (cmp : Cmp), w.chain = none →
    ∀ i ∈ [Instr.chadd c d a e ci, .chsub c d a e ci, .chneg c d a, .chshl c d a b imm, .chshr c d a b imm ar,
        .chcmp c pd a e cmp, .chmvc c dst ar, .chmad c d a b e imm ci, .chld c d b off, .chst c b d off],
      s.Issues i c w → s.Faults i c w (.warpWide Code.limbUnbound (Dev.participants w c)))

/-- R198 and R202 to R208: a chain operation writes the integer of each participating segment and its carry flags, after the
checks of R202 in their order. -/
def Obligations.ChainArithmetic : Prop :=
  ∀ (s : State) (c : Ctl) (imm : Word) (w : Warp) (ch : Chain) (d a e : Fin 64) (b : Opnd) (pd : Fin 8) (dst : Dst)
    (ci ar : Bool) (cmp : Cmp), s.Follows c w → w.chain = some ch →
    let x := s.site c imm w
    let p := x.p
    let live := ch.segs.filter fun g => w.skip &&& ch.mask g == 0 && p &&& ch.mask g != 0
    let split := live.filter fun g => p &&& ch.mask g != ch.mask g
    let gs : List Seg := live.map fun g => ⟨ch, g⟩
    let union (ls : List Nat) : Mask := ls.foldl (fun m g => m ||| ch.mask g) 0
    let N := 2 ^ (32 * ch.len)
    let mult := (x.v.uniform b).toNat
    let k (g : Seg) : Nat := x.carryIn g ci
    let val (g : Seg) (r : Fin 64) : Nat := x.segVal g r
    let after (rs : List (Seg × Nat × Nat)) : Warp :=
      Site.setFlags (Site.setChain w d (rs.map fun r => (r.1, r.2.1))) (rs.map fun r => (r.1, r.2.2))
    let chain (i : Instr) (regs srcs : List (Fin 64)) (tags : Bool) (result : Prop) : Prop :=
      s.Issues i c w →
        (live = [] → s.Writes i w) ∧
        (live ≠ [] → regs.all ch.has = false → s.Faults i c w (.warpWide Code.limbUnbound p)) ∧
        (live ≠ [] → regs.all ch.has = true → split ≠ [] → s.Faults i c w (.warpWide Code.limbDiverge (union split))) ∧
        (live ≠ [] → regs.all ch.has = true → split = [] →
          ((srcs.all fun r => w.vTag r == .limb) && tags) = false → s.Faults i c w (.format w.m)) ∧
        (live ≠ [] → regs.all ch.has = true → split = [] →
          ((srcs.all fun r => w.vTag r == .limb) && tags) = true → result)
    let writes (i : Instr) (regs srcs : List (Fin 64)) (tags : Bool) (w' : Warp) : Prop := chain i regs srcs tags (s.Writes i w')
    let carry (g : Seg) (i : Nat) : Nat :=
      (val g a % 2 ^ (32 * (i + 1)) * mult + val g e % 2 ^ (32 * (i + 1)) + k g) / 2 ^ (32 * (i + 1))
    let large := gs.filter fun g => 1 < carry g (ch.len - 1)
    let n := min mult (32 * ch.len)
    let top (l : Lane) : Nat := l.val / ch.len * ch.len + ch.len - 1
    writes (.chadd c d a e ci) [d, a, e] [a, e] true (after (gs.map fun g =>
      (g, (val g a + val g e + k g) % N, addFlags ch.len (val g a) (val g e) (k g)))) ∧
    writes (.chsub c d a e ci) [d, a, e] [a, e] true (after (gs.map fun g =>
      (g, wrapN (32 * ch.len) ((val g a : Int) - val g e - k g), subFlags ch.len (val g a) (val g e) (k g)))) ∧
    writes (.chneg c d a) [d, a] [a] true (after (gs.map fun g =>
      (g, wrapN (32 * ch.len) (-(val g a : Int)), subFlags ch.len 0 (val g a) 0))) ∧
    writes (.chshl c d a b imm) [d, a] [a] (x.v.isInt false b) (after (gs.map fun g =>
      (g, val g a * 2 ^ n % N, if N ≤ val g a * 2 ^ n then 2 ^ (ch.len - 1) else 0))) ∧
    writes (.chshr c d a b imm ar) [d, a] [a] (x.v.isInt false b) (after (gs.map fun g =>
      (g, if ar then sarBits (32 * ch.len) (val g a) n else val g a / 2 ^ n, if val g a % 2 ^ n = 0 then 0 else 1))) ∧
    writes (.chcmp c pd a e cmp) [a, e] [a, e] true (w.setPred pd (union live)
      (union (live.filter fun g => cmpInt cmp (val ⟨ch, g⟩ a) (val ⟨ch, g⟩ e)))) ∧
    writes (.chmvc c dst ar) [] [] true (w.setDst dst 0 (union live) (fun l =>
      if w.carry.getLsbD (if ar && l.val % ch.len != 0 then l.val - 1 else top l) then 1 else 0) .i32) ∧
    chain (.chmad c d a b e imm ci) [d, a, e] [a, e] (x.v.isInt false b)
      ((large ≠ [] → s.Faults (.chmad c d a b e imm ci) c w
        (.warpWide Code.limbOvf (large.foldl (fun m g => m ||| ch.mask g.g) 0))) ∧
      (large = [] → s.Writes (.chmad c d a b e imm ci) (after (gs.map fun g =>
        (g, (val g a * mult + val g e + k g) % N, ofBits ch.len fun i => carry g i != 0)))))

/-- R209: CHLD and CHST move 4 bytes for every limb of every participating segment at ascending addresses, each segment's
address a multiple of its bytes, after the checks of R202; they are then outstanding as other loads and stores are. -/
def Obligations.ChainMemory : Prop :=
  ∀ (s : State) (c : Ctl) (w : Warp) (ch : Chain) (r : Fin 64) (a : Opnd) (off : Word), s.Follows c w → s.Unsampled →
    w.chain = some ch →
    let x := s.site c 0 w
    let k := s.dev.curCore
    let j := s.dev.curSlot
    let p := x.p
    let live := ch.segs.filter fun g => w.skip &&& ch.mask g == 0 && p &&& ch.mask g != 0
    let split := live.filter fun g => p &&& ch.mask g != ch.mask g
    let limbs : List (Lane × Int × Bool) := live.flatMap fun g =>
      let base : DWord := x.v.pair a (ch.lane g 0) + off.signExtend 64
      (List.range ch.len).map fun i =>
        (ch.lane g i, ((base + BitVec.ofNat 64 (4 * i)).toNat : Int), base.toNat % (4 * ch.len) == 0)
    let chain (i : Instr) (tags : Bool) (result : Prop) : Prop :=
      s.Issues i c w →
        (live = [] → s.Writes i w) ∧
        (live ≠ [] → ch.has r = false → s.Faults i c w (.warpWide Code.limbUnbound p)) ∧
        (live ≠ [] → ch.has r = true → split ≠ [] → s.Faults i c w (.warpWide Code.limbDiverge
          (split.foldl (fun m g => m ||| ch.mask g) 0))) ∧
        (live ≠ [] → ch.has r = true → split = [] → tags = false → s.Faults i c w (.format w.m)) ∧
        (live ≠ [] → ch.has r = true → split = [] → tags = true → result)
    let full : Bool := 63 ≤ w.st || w.releasing
    let chld := Instr.chld c r a off
    let chst := Instr.chst c a r off
    chain chld (x.v.has .i64 2 a)
      ((63 ≤ w.ld → s.Holds chld s.dev .counter) ∧
      (w.ld < 63 → ∀ f, x.placesOf .global 4 .read limbs = .error f → s.Fails chld c w f) ∧
      (w.ld < 63 → ∀ d ps, x.placesOf .global 4 .read limbs = .ok (d, ps) →
        s.Leaves chld (x.startLoad d { Site.blankLoad (.v r) .limb 1 with
          m := Mask.all, lanes := Site.laneLoads true 4 ps, plain := true
          fills := (ps.flatMap fun q => Site.sectorsOf q 4).eraseDups
          win := Site.windowsOf (ps.map fun p => (p.lane, p.addr, p.loc)) }))) ∧
    chain chst (w.vTag r == .limb && x.v.has .i64 2 a)
      ((full = true → s.Releases chst c w s.dev .cluster fun d => s.Holds chst d .counter) ∧
      (full = false → ∀ f, x.placesOf .global 4 .write limbs = .error f → s.Fails chst c w f) ∧
      (full = false → ∀ d ps, x.placesOf .global 4 .write limbs = .ok (d, ps) →
        let bs := Site.storeBytes (ps.map fun q => (q, leBytes 4 (w.vAt r q.lane).toNat))
        let locs := bs.map (·.loc)
        (Dev.writeHeld w locs = true → s.Holds chst s.dev .atomic) ∧
        (Dev.writeHeld w locs = false →
          let sent := x.storeLines bs ((bs.map fun b => b.va / 128).eraseDups) (d.capture k j locs)
          (∀ e, sent = .error e → s.Faults chst c w (writeBackFault p e)) ∧
          (∀ e lines flight, sent = .ok (e, lines, flight) → s.Leaves chst (x.startStore (x.sendStore e flight)
            { Site.blankStore with lines := lines, flight := flight, win := Site.storeWindows bs })))))

/-! ### System registers and time -/

/-- R16, R147 to R150, R366 and Table 6.8: what MFS reads of each register, CNTR of the counter page, TIME of the clocks. R16,
R148, R177 and R366: MTS stores %mode without its reserved bits, the writable words of a handler's record and the firmware
registers that keep their rule; FORMAT where its source is not I32. That it discards a write to any other number, and the reserved
bits of a firmware register, is the model's choice (log 58, log 121). -/
def Obligations.SystemRegisters : Prop :=
  (∀ (s : State) (c : Ctl) (w : Warp) (d : Dst) (reg : BitVec 12) (index : BitVec 16), s.Follows c w →
    let p := Dev.participants w c
    let cl := s.dev.cluster (clusterOf s.dev.curCore)
    let i := Instr.mfs c d reg
    let reads (x : Word) : Prop := s.Issues i c w → s.Writes i (w.setDst d 0 p (fun _ => x) .i32)
    let n := reg.toNat
    (n = 0 → reads w.mode) ∧ (n = 1 → reads steppingReg) ∧ (n = 2 → reads (if s.dev.interlocked w then 1 else 0)) ∧
    (∀ r, 0x100 ≤ n → n < 0x200 → w.inHandler = true → w.record = some r → reads ((r[n - 0x100]?).getD 0)) ∧
    (0x100 ≤ n → n < 0x200 → w.inHandler = false → reads 0) ∧
    (∀ q : Fin 5, n = 0x800 + 2 * q.val → reads (cl.minq[q.val].setWidth 32)) ∧
    (∀ q : Fin 5, n = 0x801 + 2 * q.val → reads (cl.capq[q.val].setWidth 32)) ∧
    (n = 0x80A → reads (BitVec.ofNat 32 (Dev.poolFree cl))) ∧ (n = 0x80B → reads (cl.stealThr.setWidth 32)) ∧
    (s.Issues (.cntr c d index) c w → s.Writes (.cntr c d index) (w.setDst d 0 p (fun _ =>
      loWord (Sparse.get (0 : DWord) (s.dev.fn (s.dev.partOf w.ctx)).page index.toNat)) .i32)) ∧
    (s.Issues (.timeClock c d) c w → s.Writes (.timeClock c d) (w.setPair d p (fun _ => BitVec.ofNat 64 s.dev.clock) .i64)) ∧
    (s.Issues (.timePtp c d) c w → s.Writes (.timePtp c d) (w.setPair d p (fun _ => BitVec.ofNat 64 s.dev.ptpNs) .i64))) ∧
  (∀ (s : State) (c : Ctl) (w : Warp) (a : Opnd) (reg : BitVec 12), s.Follows c w →
    let x := s.site c 0 w
    let value := x.v.uniform a
    let i := Instr.mts c a reg
    let n := reg.toNat
    let cl := clusterOf s.dev.curCore
    let firmware (f : Cluster → Cluster) : Prop := s.Completes i (s.dev.modCluster cl f) w
    let keeps (c c' : Cluster) : Cluster := if Site.poolOk c' then c' else c
    let word := n - 0x100
    let writable := (208 ≤ word ∧ word ≤ 220) ∨ word = 240 ∨ word = 241
    s.Issues i c w →
      (x.v.has .i32 1 a = false → s.Faults i c w (.format w.m)) ∧
      (x.v.has .i32 1 a = true →
        (n = 0 → s.Writes i { w with mode := modeStored value }) ∧
        (0x100 ≤ n → n < 0x200 → w.inHandler = true → writable → s.Writes i { w with
          record := w.record.map fun r => r.setIfInBounds word (Site.recordStores word value) }) ∧
        (0x100 ≤ n → n < 0x200 → ¬(w.inHandler = true ∧ writable) → s.Writes i w) ∧
        (∀ q : Fin 5, n = 0x800 + 2 * q.val →
          firmware fun c => keeps c { c with minq := c.minq.set q.val (value.setWidth 13) }) ∧
        (∀ q : Fin 5, n = 0x801 + 2 * q.val →
          firmware fun c => keeps c { c with capq := c.capq.set q.val (value.setWidth 13) }) ∧
        (n = 0x80B → firmware fun c => { c with stealThr := value.setWidth 12 }) ∧
        (n ≠ 0 → ¬(0x100 ≤ n ∧ n < 0x200) → ¬(0x800 ≤ n ∧ n < 0x80A) → n ≠ 0x80B → s.Writes i w)))

/-! ### Control and faults -/

/-- R123 with Table 5.2: a transfer checks every lane's destination, then moves the lanes of M to where each goes; CALL first
writes the return address, zero-extended, and a zero-extended target names the canonical address of its 57 bits (log 45). -/
def Obligations.Transfers : Prop :=
  ∀ (s : State) (c : Ctl) (imm off : Word) (w : Warp) (d : Dst) (a : Opnd), s.Quiet c →
    let v := (s.site c imm w).v
    let linked := w.setPair d v.p (fun _ => BitVec.ofNat 64 ((Dev.nextPc w.pc).toNat % 2 ^ 57)) .i64
    let goes (a : DWord) : DWord := if a.toNat < 2 ^ 57 then BitVec.ofNat 64 (canon57 a.toNat) else a
    let jumps (i : Instr) (w1 : Warp) (target : Lane → DWord) : Prop :=
      let dest (l : Lane) : DWord := if v.p.getLsbD l.val then goes (target l) else Dev.nextPc w.pc
      let bad := (lanesOf w.m).filterMap fun l =>
        ((s.dev.via s.dev.curCore).fetchFault w.ctx (dest l).toNat).map fun code =>
          { lane := l, cause := code, addr := dest l : LaneCause }
      s.Issues i c w →
        (∀ f, FaultInfo.ofLanes bad = some f → s.Faults i c w f) ∧
        (bad = [] → w1.transfer dest = none → s.Faults i c w (.warpWide Code.stack v.p)) ∧
        (bad = [] → ∀ w', w1.transfer dest = some w' → w'.isOver = false → s.GoesOn i s.dev w')
    let typed (i : Instr) (w1 : Warp) : Prop :=
      (v.isInt true a = true → jumps i w1 (v.pair a)) ∧
      (v.isInt true a = false → s.Issues i c w → s.Faults i c w (.format w.m))
    jumps (.bra c off) w (fun _ => pcPlus w.pc off) ∧ jumps (.callDirect c d off) linked (fun _ => pcPlus w.pc off) ∧
    typed (.brx c a imm) w ∧ typed (.callIndirect c d a imm) linked ∧ typed (.ret c a imm) w

/-- R124: RCV pushes a join entry with M and the label, unless the top entry is one of that label; STACK at 16 entries. R122,
R125, R127, R142, R177: EXIT adds its lanes to X and takes them from M; the other lanes go on, or the path ends; a warp without a
lane left ends after a release at cluster scope, and its slot is free where its counters are zero and the scheduler's queue has
an entry for the message. R44: an EXIT that carries STOP and leaves the warp going on outside its code takes the fault of its sequence before it acts, X and M as they
were, which is the model's reading (log 12). -/
def Obligations.PathEnds : Prop :=
  (∀ (s : State) (c : Ctl) (off : Word) (w : Warp), s.Quiet c → s.dev.seqFault s.dev.curCore w = none →
    let label := pcPlus w.pc off
    let there : Bool := match w.stack with
      | e :: _ => !e.pending && e.pc == label
      | [] => false
    let pushed : Warp := { w with stack := { mask := w.m, pending := false, pc := label } :: w.stack }
    s.Issues (.rcv c off) c w →
      (there = true → w.finish.isOver = false → s.Writes (.rcv c off) w) ∧
      (there = false → w.stack.length < 16 → pushed.finish.isOver = false → s.Writes (.rcv c off) pushed) ∧
      (there = false → 16 ≤ w.stack.length → s.Faults (.rcv c off) c w (.warpWide Code.stack (Dev.participants w c)))) ∧
  (∀ (s : State) (c : Ctl) (w : Warp), s.Quiet c →
    let p := Dev.participants w c
    let k := s.dev.curCore
    let j := s.dev.curSlot
    let i := Instr.exit c
    let w1 : Warp := { w with x := w.x ||| p, m := w.m &&& ~~~p, wait := none, skip := 0, pass := false }
    let w2 := Warp.settlePath 32 w1
    s.Issues i c w →
      (w1.m ≠ 0 → ∀ code, s.dev.seqFault s.dev.curCore w = some code →
        s.Faults i c w (Dev.fetchInfo code w1.m (Dev.nextPc w.pc))) ∧
      (w1.m ≠ 0 → s.dev.seqFault s.dev.curCore w = none → (w1.toPc (Dev.nextPc w.pc)).isOver = false →
        s.GoesOn i s.dev (w1.toPc (Dev.nextPc w.pc))) ∧
      (w1.m = 0 → w2.isOver = false → s.GoesOn i s.dev w2) ∧
      (w1.m = 0 → w2.isOver = true → s.Releases i c w s.dev .cluster fun d => ∃ t, exec i s = .next t ∧
        (∀ w', t.dev.slot k j = some w' → w'.status = .ended) ∧
        (w.band = none → ∀ w', d.slot k j = some w' → (t.dev.slot k j = none ↔
          (w'.ld = 0 ∧ w'.st = 0 ∧ w'.cp = 0 ∧ w'.tl = 0) ∧ Dev.grants (d.cluster (clusterOf k)) 3 0 = true))))

/-- R129 to R131, R134, R142 and R373: NOP has no effect but its issue, YIELD asks that another warp go first, PFI asks for lines
of code, WAITC first releases at cluster scope where STCNT is above its field, a release that has begun going on to its end, then
goes on where no counter is above its field and else holds the warp at it, SLEEP of a positive number waits, unless a pre-emption or a halt is pending. -/
def Obligations.WaitingAndHints : Prop :=
  ∀ (s : State) (c : Ctl) (off : Word) (w : Warp) (lines : Fin 4) (ld st cp tl : BitVec 6) (cycles : BitVec 24),
    s.Follows c w →
    let k := s.dev.curCore
    let waits := Instr.waitc c ld st cp tl
    (s.Issues (.nop c) c w → s.Writes (.nop c) w) ∧
    (s.Issues (.yield c) c w → s.Writes (.yield c) w ∧ ∀ t w', exec (.yield c) s = .next t →
      t.dev.slot k s.dev.curSlot = some w' → w'.yielded = true) ∧
    (s.Issues (.pfi c lines off) c w → s.Completes (.pfi c lines off) ((List.range (lines.val + 1)).foldl (fun d i =>
      d.prefetchCode k w.ctx ((pcPlus w.pc off).toNat / 256 * 256 + 256 * i)) s.dev) w) ∧
    (s.Issues waits c w →
      let after (d : Dev) : Prop := ∃ w', d.slot k s.dev.curSlot = some w' ∧
        let low := w'.ld ≤ ld.toNat ∧ w'.st ≤ st.toNat ∧ w'.cp ≤ cp.toNat ∧ w'.tl ≤ tl.toNat
        (low → s.Completes waits d w') ∧
        (¬low → s.Holds waits d (.waitc ld.toNat st.toNat cp.toNat tl.toNat))
      (w.st ≤ st.toNat → w.releasing = false → after s.dev) ∧
      (st.toNat < w.st ∨ w.releasing = true → s.Releases waits c w s.dev .cluster after)) ∧
    (s.Issues (.sleep c cycles) c w →
      (cycles = 0 ∨ w.preempt = true ∨ w.haltPend = true → s.Writes (.sleep c cycles) w) ∧
      (cycles ≠ 0 → w.preempt = false → w.haltPend = false → s.GoesOn (.sleep c cycles) s.dev { w with wait := some (.sleep s.dev.clock cycles.toNat) }))

/-- R126: TRAP and BRK take their own fault in each participating lane, with the code of the instruction as the record's DETAIL, and
are complete. R128 and R367: RTE outside a handler takes TRAP with 0x10000; in a handler the record's state returns and HACT
decides: 0 resumes, 1 resumes without the lanes of HSKIP, 2 kills a warp of no band (the end of a band is not stated here),
3 forwards the record. -/
def Obligations.TrapsAndReturns : Prop :=
  (∀ (s : State) (c : Ctl) (w : Warp) (code : BitVec 16),
    let info (kind : Nat) : FaultInfo :=
      { FaultInfo.warpWide kind (Dev.participants w c) 0 (code.setWidth 32) with complete := true }
    (s.Issues (.trap c code) c w → s.Faults (.trap c code) c w (info Code.trap)) ∧
    (s.Issues (.brk c code) c w → s.Faults (.brk c code) c w (info Code.brk))) ∧
  (∀ (s : State) (c : Ctl) (w : Warp), s.Quiet c →
    let k := s.dev.curCore
    let j := s.dev.curSlot
    let i := Instr.rte c
    s.Issues i c w →
      (w.inHandler = false ∨ w.record = none → s.Faults i c w
        { FaultInfo.warpWide Code.trap (Dev.participants w c) 0 0x10000 with complete := true }) ∧
      (∀ r, w.inHandler = true → w.record = some r →
        let back : Warp := { Dev.restoreRecord w r with
          pc := w.parkPc, inHandler := false, record := none, wait := none, skip := 0, pass := false }
        let resumed (skip : Mask) : Warp := if Dev.recordComplete r then back.finish else { back with skip := skip }
        let hact := r[240].toNat % 4
        (hact = 0 → (resumed 0).isOver = false → s.GoesOn i s.dev (resumed 0)) ∧
        (hact = 1 → (resumed r[241]).isOver = false → s.GoesOn i s.dev (resumed r[241])) ∧
        (hact = 2 → w.band = none → ∃ t, exec i s = .next t ∧ ∀ w', t.dev.slot k j = some w' → w'.status = .ended) ∧
        (hact = 3 → s.GoesOn i (s.dev.sendRecord (clusterOf k) w.ctx r) { back with record := some r, status := .parked })))

/-- R357, R360, R362, R365, R368, R372: a fault of class C ends its task (LINK) or its context; one of class A under a task
that may be run again aborts the task and asks for the page; any other parks the warp: it enters its context's handler where
that takes the code, waits for the page where Rhizome resolves it, and else its record goes to the host, also where the context has no handler that can
be entered, which is the model's reading (log 43). A fault in a handler waits for the page where Rhizome
resolves it, which is the model's reading (log 48), and else its record goes to the host. -/
def Obligations.FaultTaking : Prop :=
  ∀ (d : Dev) (k : CoreIx) (j : SlotIx) (w : Warp) (f : FaultInfo) (x : Context), d.slot k j = some w →
    d.context w.ctx = some x → d.trace = none →
    let abortable : Bool := !w.inHandler && (d.task? w.task).any fun t => t.idem && !t.committed && decide (t.aborts < 8)
    let g := f.settle abortable
    let e := d.takeFault k j w f
    let r := d.record k j w g 1 false
    let cl := clusterOf k
    let sends (r : Vector Word 256) : Prop :=
      let c := Dev.putFault (d.cluster cl) (d.partOf w.ctx, r)
      (e.cluster cl).faultQ = c.faultQ ∧ (e.cluster cl).faultHeld = c.faultHeld
    let parks := codeRank g.code ≠ 2 ∧ ¬(codeRank g.code = 0 ∧ abortable = true)
    let rhizome := g.code < 0x10 ∧ x.hmask.testBit 15 = false
    let alone := e.mem = d.mem ∧ ∀ k' j', (k', j') ≠ (k, j) → e.slot k' j' = d.slot k' j'
    let parked : Warp := { w with
      record := some r, parkPc := w.pc, status := .parked, wait := none, skip := 0, pass := false }
    (codeRank g.code = 2 → sends (d.record k j w g 2 false) ∧
      (g.code = Code.link → ∀ t ∈ e.tasks, t.id = w.task → t.faulted = true) ∧
      (g.code ≠ Code.link → e.context w.ctx = some { x with ended := true } ∧ ∀ k' j' v, e.slot k' j' = some v → v.ctx ≠ w.ctx)) ∧
    (codeRank g.code = 0 → abortable = true →
      sends (d.record k j w g 0 false) ∧
      (∀ t ∈ e.tasks, t.id = w.task → t.state = .aborted) ∧ (∀ k' j' v, e.slot k' j' = some v → v.task ≠ w.task) ∧
      ∀ a ∈ Dev.missingPages g, e.requested w.ctx (Dev.pageOf a) = true) ∧
    (parks → w.inHandler = false → rhizome → alone ∧ e.slot k j = some { parked with wait := some .resident } ∧
      ∀ a ∈ Dev.missingPages g, e.requested w.ctx (Dev.pageOf a) = true) ∧
    (parks → w.inHandler = false → ¬rhizome → Dev.handlerTakes x g.code = true → ∀ pc, Dev.handlerPc x = some pc →
      alone ∧ ∃ w', e.slot k j = some w' ∧ w'.record = some (Dev.saveIntoRecord w r) ∧ w'.inHandler = true ∧
        w'.parkPc = w.pc ∧ w'.pc = pc ∧ w'.m = ~~~w.x ∧ w'.x = w.x ∧ w'.stack = [] ∧ w'.mode = 0 ∧ w'.status = .running ∧
        pairOf (w'.wAt 30) (w'.wAt 31) = BitVec.ofNat 64 (x.hspill + 4096 * (cl.val * 3072 + coreInCluster k * 64 + j.val)) ∧
        w'.v = w.v ∧ w'.p = w.p ∧ ∀ q : Fin 32, q.val < 30 → w'.wAt q = w.wAt q) ∧
    (parks → w.inHandler = false → ¬rhizome → (Dev.handlerTakes x g.code = false ∨ Dev.handlerPc x = none) →
      alone ∧ e.slot k j = some parked ∧ sends r) ∧
    (parks → w.inHandler = true → ¬rhizome → alone ∧ sends (d.record k j w g 1 true) ∧
      e.slot k j = some { w with
        nested := some (d.record k j w g 1 true), status := .parked, wait := none, skip := 0, pass := false }) ∧
    (parks → w.inHandler = true → rhizome → alone ∧ e.slot k j = some { w with
        nested := some (d.record k j w g 1 true), status := .parked, wait := some .resident, skip := 0, pass := false } ∧
      ∀ a ∈ Dev.missingPages g, e.requested w.ctx (Dev.pageOf a) = true)

/-- R362 to R365, R367, Tables 5.1 and 16.3 to 16.5: the words of a fault record, and what RTE takes back from the record that
the handler was entered with. -/
def Obligations.FaultRecordWords : Prop :=
  ∀ (d : Dev) (k : CoreIx) (j : SlotIx) (w : Warp) (f : FaultInfo) (cls : Nat) (nested : Bool), w.stack.length ≤ 16 →
    f.code < 256 → cls < 256 →
    let r := d.record k j w f cls nested
    let at_ (n : Nat) : Word := (r[n]?).getD 0
    let part (n hi lo : Nat) : Nat := fieldOf (at_ n) hi lo
    at_ 0 = (d.codePlace w.ctx w.pc.toNat).1 ∧ at_ 1 = (d.codePlace w.ctx w.pc.toNat).2 ∧ at_ 2 = w.m ∧ at_ 3 = w.x ∧
    (∀ l : Lane, (at_ 4).getLsbD l.val = f.lanes.any fun c => c.lane == l) ∧
    part 5 7 0 = f.code ∧ part 5 15 8 = cls ∧ part 5 23 16 = w.stack.length ∧ (at_ 5).getLsbD 24 = f.wb.isSome ∧
    (at_ 5).getLsbD 25 = nested ∧ (at_ 5).getLsbD 26 = w.haltPend ∧
    part 6 5 0 = j.val ∧ part 6 13 8 = coreInCluster k ∧ part 6 18 16 = (clusterOf k).val ∧
    (∀ t, d.task? w.task = some t → part 7 15 0 = t.handle.toNat ∧ at_ 8 = t.taskser) ∧
    at_ 9 = f.detail ∧ (∀ a, f.wb = some a → pairOf (at_ 10) (at_ 11) = a) ∧
    (∀ l : Lane, ∀ c, (f.lanes.find? fun c => c.lane == l) = some c →
      pairOf (at_ (16 + 4 * l.val)) (at_ (17 + 4 * l.val)) = c.addr ∧
      at_ (18 + 4 * l.val) = BitVec.ofNat 32 (c.cause + c.ldetail.toNat * 2 ^ 8) ∧ at_ (19 + 4 * l.val) = 0) ∧
    (∀ l : Lane, (∀ c ∈ f.lanes, c.lane ≠ l) → ∀ n < 4, at_ (16 + 4 * l.val + n) = 0) ∧
    (∀ n e, w.stack.reverse[n]? = some e → at_ (144 + 4 * n) = loWord e.pc ∧
      part (145 + 4 * n) 24 0 = fieldOf e.pc 56 32 ∧ (at_ (145 + 4 * n)).getLsbD 25 = e.pending ∧ at_ (147 + 4 * n) = e.mask) ∧
    ∀ v : Warp,
      let y := Dev.restoreRecord v (Dev.saveIntoRecord w r)
      y.m = w.m ∧ y.x = w.x ∧ y.p = w.p ∧ y.mode = modeStored w.mode ∧
      (∀ q : Fin 32, 28 ≤ q.val → y.wAt q = w.wAt q ∧ y.wTag q = w.wTag q) ∧
      ((∀ e ∈ w.stack, e.pc = BitVec.ofNat 64 (canon57 (va57 e.pc.toNat))) → y.stack = w.stack)

/-! ### Bands and tasks -/

/-- R165, R192, R193 and R195: JOIN with −1 makes a band of its own, another JOIN waits for the generation's end after a
release at the band's scope, LEAVE goes on at once after one; BAND gives its reason where a rule is broken. The order in which the
reasons are tried is the model's choice (log 51). -/
def Obligations.BandMembership : Prop :=
  ∀ (s : State) (c : Ctl) (imm : Word) (w : Warp) (wd : Fin 32) (a : Opnd), s.Follows c w → s.Unsampled →
    let x := s.site c imm w
    let k := s.dev.curCore
    let j := s.dev.curSlot
    let cl := clusterOf k
    let me : Member := ⟨k, j, w.uid⟩
    let i := Instr.join c wd a imm
    let id := x.v.uniform a
    let bands := (s.dev.cluster cl).bands
    let bad (i : Instr) (reason : Nat) : Prop := s.Faults i c w (.warpWide Code.band x.p 0 (BitVec.ofNat 32 reason))
    (s.Issues i c w →
      (x.v.has .i32 1 a = false → s.Faults i c w (.format w.m)) ∧
      (x.v.has .i32 1 a = true → w.band ≠ none → bad i 2) ∧
      (x.v.has .i32 1 a = true → w.band = none → id = 0xFFFFFFFF#32 →
        ((∀ n < 256, ∃ b ∈ bands, b.id.toNat = n) → bad i 5) ∧
        (∀ n : BitVec 8, (∀ b ∈ bands, b.id ≠ n) → (∀ n' < n, ∃ b ∈ bands, b.id = n') →
          (x.carveFor s.dev (.band n) = none → bad i 6) ∧
          (∀ d, x.carveFor s.dev (.band n) = some d → s.Leaves i ((d.modCluster cl fun y => { y with
              bands := y.bands ++ [{ id := n, task := w.task, ctx := w.ctx, gang := (s.dev.task? w.task).any Task.gang,
                                     home := k, members := [me], coming := [], arrived := [], joins := [],
                                     generation := 0 }] }).modWarp
            k j fun y => { y with band := some n }.setW wd (n.setWidth 32) .i32)))) ∧
      (x.v.has .i32 1 a = true → w.band = none → id ≠ 0xFFFFFFFF#32 →
        (255 < id.toNat ∨ s.dev.band? cl (id.setWidth 8) = none → bad i 3) ∧
        (∀ b, id.toNat ≤ 255 → s.dev.band? cl (id.setWidth 8) = some b →
          let held : Bool := (s.dev.allocOf k (.band b.id)).isSome || (s.dev.allocOf k (.reserved b.id)).isSome
          let space (d : Dev) : Option Dev := if held then some d else x.carveFor d (.reserved b.id)
          let there := b.coming ++ b.members.map (·.core) ++ b.joins.map (·.1.core)
          let full := (if b.gang = true ∧ ∃ c ∈ there, c ≠ k then 512 else 64) < there.length + 1
          (b.task ≠ w.task → bad i 3) ∧
          (b.task = w.task → full → bad i 4) ∧
          (b.task = w.task → ¬full → space s.dev = none → bad i 6) ∧
          (b.task = w.task → ¬full → space s.dev ≠ none → b.gang = false → b.home ≠ k → bad i 7) ∧
          (b.task = w.task → ¬full → space s.dev ≠ none → (b.gang = true ∨ b.home = k) →
            s.Releases i c w s.dev (Dev.bandScope b) fun d => ∀ d', space d = some d' →
              s.Waits i (d'.modBand cl b.id fun y => { y with joins := y.joins ++ [(me, wd)] }) .joining)))) ∧
    (s.Issues (.leave c) c w →
      (s.dev.bandOf k w = none → bad (.leave c) 1) ∧
      (∀ b, s.dev.bandOf k w = some b → (∀ y ∈ b.arrived, y.1 ≠ me) → (∀ y ∈ b.joins, y.1 ≠ me) →
        s.Releases (.leave c) c w s.dev (Dev.bandScope b) fun d => s.Leaves (.leave c)
          (((d.modWarp k j fun y => { y with band := none }).acquire k w.ctx (Dev.bandScope b)).arrive k j b.id .leave)))

/-- R191 and R194: BAR and BARV arrive after a release at the band's scope; the last member of a generation goes on at once,
with BARV's vote in its predicate, and every other waits. R167, R192 and R194: at a generation's end every waiting member of
it goes on, a member that left or ended is a member no more, and every pending join is a member, its wd the band's identifier;
no other warp changes. -/
def Obligations.BandArrival : Prop :=
  (∀ (s : State) (c : Ctl) (w : Warp) (any : Bool) (pd pa : Fin 8), s.Follows c w → s.Unsampled →
    let k := s.dev.curCore
    let j := s.dev.curSlot
    let p := Dev.participants w c
    let cl := clusterOf k
    let me : Member := ⟨k, j, w.uid⟩
    let arrives (i : Instr) (how : Arrival) (after : Band → Warp → Warp) : Prop :=
      s.Issues i c w →
        (s.dev.bandOf k w = none → s.Faults i c w (.warpWide Code.band p 0 1)) ∧
        (∀ b, s.dev.bandOf k w = some b → (∀ y ∈ b.arrived, y.1 ≠ me) → (∀ y ∈ b.joins, y.1 ≠ me) →
          s.Releases i c w s.dev (Dev.bandScope b) fun d => ∀ w', d.slot k j = some w' →
            let e := d.modBand cl b.id fun y => { y with arrived := y.arrived ++ [(me, how)] }
            let last := b.coming = [] ∧ ∀ m ∈ b.members, m = me ∨ ∃ y ∈ b.arrived, y.1 = m
            (¬last → s.GoesOn i e { w' with wait := some .barrier }) ∧
            (last → ∃ t, exec i s = .next t ∧
              (∃ at_ n h y, t.dev.slot k j = some { after b w' with
                age := 0, issuedAt := at_, nextIssue := n, readyAt := none, walked := [], flushing := [], hazards := h
                yielded := y }) ∧
              (∀ b', t.dev.band? cl b.id = some b' → b'.generation = b.generation + 1 ∧ b'.arrived = [] ∧ b'.joins = [])))
    let vote (b : Band) : Bool :=
      let all := b.arrived ++ [(me, Arrival.vote any pd p (w.pred pa))]
      if any then all.any fun a => match a.2 with
        | .vote _ _ q bits => q &&& bits != 0
        | _ => false
      else all.all fun a => match a.2 with
        | .vote _ _ q bits => q &&& ~~~bits == 0
        | _ => true
    arrives (.bar c) .bar (fun _ w' => w'.finish) ∧
    arrives (.barv c any pd pa) (.vote any pd p (w.pred pa)) (fun b w' =>
      (w'.setPred pd p (if vote b then Mask.all else 0)).finish)) ∧
  (∀ (d : Dev) (cl : ClusterIx) (b : Band), d.band? cl b.id = some b → b.coming = [] →
    (∀ m ∈ b.members, ∃ y ∈ b.arrived, y.1 = m) →
    let place (m : Member) : CoreIx × SlotIx := (m.core, m.slot)
    let waits := b.arrived.filter fun y => y.2 != .leave && y.2 != .gone
    (waits.map (fun y => place y.1) ++ b.joins.map fun y => place y.1).Nodup →
    let e := d.endGeneration cl b.id
    let left (m : Member) : Prop := (m, Arrival.leave) ∈ b.arrived ∨ (m, Arrival.gone) ∈ b.arrived
    (∀ m w, (m, Arrival.bar) ∈ b.arrived → d.slot m.core m.slot = some w → e.slot m.core m.slot = some w.finish) ∧
    (∀ m any pd p bits w, (m, Arrival.vote any pd p bits) ∈ b.arrived → d.slot m.core m.slot = some w →
      e.slot m.core m.slot = some (w.setPred pd p
        (if (if any then (Dev.voteOf b).2 else (Dev.voteOf b).1) then Mask.all else 0)).finish) ∧
    (∀ m x w, (m, x) ∈ b.joins → d.slot m.core m.slot = some w →
      e.slot m.core m.slot = some ({ w with band := some b.id }.setW x (b.id.setWidth 32) .i32).finish) ∧
    (∀ k j, (∀ y ∈ waits, place y.1 ≠ (k, j)) → (∀ y ∈ b.joins, place y.1 ≠ (k, j)) →
      e.slot k j = d.slot k j) ∧
    (∀ b', e.band? cl b.id = some b' → b'.generation = b.generation + 1 ∧
      ∀ m, m ∈ b'.members ↔ (m ∈ b.members ∧ ¬left m) ∨ ∃ x, (m, x) ∈ b.joins))

/-- R177, R196 and R197: SPAWN reads and submits one control block for each lane after a release at die scope, held while the
scheduler's pool refuses, each taking an entry of its queue; DEPDEC sends its decrements after one, behind those that its core has
sent before (R239), the reference checked first (Table 6.3). -/
def Obligations.SpawningAndDecrements : Prop :=
  ∀ (s : State) (c : Ctl) (imm : Word) (w : Warp) (a b : Opnd), s.Follows c w → s.Unsampled →
    let x := s.site c imm w
    let k := s.dev.curCore
    let cl := clusterOf k
    let i := Instr.spawn c a imm
    let issuer : Issuer := { core := k, slot := s.dev.curSlot, ctx := w.ctx, task := w.task }
    let dec := Instr.depdec c a b imm
    let ref := x.v.uniform a
    let n := x.v.uniform b
    let bad (reason : Nat) : Prop := s.Faults dec c w (.engineParam reason x.p (pairOf ref n))
    let at_ := Dev.depRef (ref.setWidth 16)
    (s.Issues i c w →
      (x.v.has .i64 2 a = false → s.Faults i c w (.format w.m)) ∧
      (x.v.has .i64 2 a = true → ∀ f, x.places .global a 0 64 .read (lanesOf x.p) = .error f → s.Fails i c w f) ∧
      (x.v.has .i64 2 a = true → ∀ d0 ps, x.places .global a 0 64 .read (lanesOf x.p) = .ok (d0, ps) →
        s.Releases i c w d0 .die fun d =>
          (Dev.grantsAll (d.cluster cl) 3 ps.length = false → s.Holds i d .queue) ∧
          (Dev.grantsAll (d.cluster cl) 3 ps.length = true → s.Leaves i (ps.foldl (fun (d : Dev) (p : Place) =>
            (d.submit { ctx := w.ctx, va := p.addr.toNat, cluster := cl, by_ := some issuer, packet := none }).1)
            ((d.commit w.task).takeEntries cl 3 ps.length))))) ∧
    (s.Issues dec c w →
      ((x.v.has .i32 1 a && x.v.has .i32 1 b) = false → s.Faults dec c w (.format w.m)) ∧
      ((x.v.has .i32 1 a && x.v.has .i32 1 b) = true →
        (2 ^ 16 ≤ ref.toNat ∨ 2 ^ 17 ≤ n.toNat → bad 1) ∧
        (ref.toNat < 2 ^ 16 → n.toNat < 2 ^ 17 → ref.getLsbD 15 = false → bad 2) ∧
        (ref.toNat < 2 ^ 16 → n.toNat < 2 ^ 17 → ref.getLsbD 15 = true → s.dev.clusterOn at_.1 = false → bad 3) ∧
        (ref.toNat < 2 ^ 16 → n.toNat < 2 ^ 17 → ref.getLsbD 15 = true → s.dev.clusterOn at_.1 = true →
          s.Releases dec c w s.dev .die fun d =>
            s.Leaves dec ((d.commit w.task).sendDecs at_.1 at_.2 (n.getLsbD 16) (n.toNat % 2 ^ 16) (some k.val)))))

/-! ### Memory -/

/-- R139, R160, R242 to R246, R364, R405: the checks of a translation in their order, with the code of the first that fails;
the first cause that an access of a lane to global memory has, or the walk that it waits for (log 9); without one the access lies
at the translated address. -/
def Obligations.GlobalChecks : Prop :=
  (∀ (d : Dev) (c : CtxIx) (x : Context) (va : Nat) (acc : Access) (shadow : Bool), d.context c = some x →
    let r := d.translate c va acc shadow
    let writes := acc ≠ .read
    let reads := acc ≠ .write
    (canonical va = false → r = .error Code.addrInvalid) ∧
    (canonical va = true → inParamRange va = true →
      (d.paramTask c va = none → r = .error Code.addrInvalid) ∧
      (d.paramTask c va ≠ none → writes → r = .error Code.accessPerm) ∧
      (d.paramTask c va ≠ none → ¬writes → r = .ok ⟨Dev.paramPa c va, 0, none⟩)) ∧
    (canonical va = true → inParamRange va = false →
      (d.pteOf c x va = none → r = .error Code.addrInvalid) ∧
      (∀ e, d.pteOf c x va = some e →
        let flip := pteDb e = true ∧ (x.flipped.contains (pteRegion e) != shadow) = true
        let pfn := ptePfn e + (if flip then 1 else 0)
        let guarded := writes ∧ (pteX e = true ∨ ∃ p ∈ d.exec, p.frame = pfn)
        let denied := (reads ∧ pteR e = false) ∨ (writes ∧ (pteW e = false ∨ Dev.isReadOnlyFrame pfn = true))
        (guarded → r = .error Code.violation) ∧ (¬guarded → denied → r = .error Code.accessPerm) ∧
        (¬guarded → ¬denied → pteRes e = false → r = .error Code.notres) ∧
        (¬guarded → ¬denied → pteRes e = true → r = .ok ⟨pfn * 0x10000 + va % 0x10000, BitVec.ofNat 10 (pteKey e),
          if pteDb e then some (pteRegion e) else none⟩)))) ∧
  (∀ (d : Dev) (k : CoreIx) (j : SlotIx) (w : Warp) (addr : Int) (n : Nat) (aligned : Bool) (acc : Access),
    let va := addr.toNat
    let r := d.placeAt k j w .global addr n aligned acc
    (canonical va = false → r = .error Code.addrInvalid) ∧
    (canonical va = true → aligned = false → r = .error Code.addrAlign) ∧
    let walks := d.tlbMisses k w.ctx va = true ∧ va % 2 ^ 57 / 2 ^ 24 ∉ w.walked
    let at_ := (d.via k).translate w.ctx va acc
    (canonical va = true → aligned = true → walks → r = .error Code.walk) ∧
    (canonical va = true → aligned = true → ¬walks → ∀ e, at_ = .error e → r = .error e) ∧
    (canonical va = true → aligned = true → ¬walks → ∀ t, at_ = .ok t →
      ((∃ p, portOf t.pa = some p ∧ (d.port p).up = false) → r = .error Code.link) ∧
      ((∀ p, portOf t.pa = some p → (d.port p).up = true) → r = .ok (d.tlbFill k w.ctx va, .phys t.pa, t.key))))

/-- R39, R136, R138, R141, R143, R226, R229, R255: a load checks the access of every lane and is then outstanding, LDCNT one higher,
with its scoreboard slot in hinted mode; each byte is read later: by the load's completion or before it (log 8). That a destination
in v registers counts as a per-lane operand is the model's reading of R143 (log 44). -/
def Obligations.Loads : Prop :=
  ∀ (s : State) (c : Ctl) (w : Warp) (d : Dst) (a : Opnd) (off : Word) (ty : Option Tag) (wid : Wid), s.Follows c w →
    s.Unsampled →
    let x := s.site c 0 w
    let n := widBytes wid
    let ls := if !Dst.isV d && a.isUniform then (lowestLane x.p).toList else lanesOf x.p
    let load (i : Instr) (sp : Space) : Prop :=
      s.Issues i c w →
        (63 ≤ w.ld → s.Holds i s.dev .counter) ∧
        (w.ld < 63 → x.addressOk sp a = false → s.Faults i c w (.format w.m)) ∧
        (w.ld < 63 → x.addressOk sp a = true → ∀ f, x.places sp a off n .read ls = .error f → s.Fails i c w f) ∧
        (w.ld < 63 → x.addressOk sp a = true → ∀ d' ps w', x.places sp a off n .read ls = .ok (d', ps) →
          d'.slot s.dev.curCore s.dev.curSlot = some w' →
          s.Completes i { d' with seq := d'.seq + 1 } { w' with
            ld := w'.ld + 1
            loads := w'.loads ++ [{
              seq := d'.seq, sb := if s.dev.interlocked w then 0 else c.sb, dst := d, tag := ty.getD .raw, regs := widRegs wid, m := w.m
              lanes := Site.laneLoads true n ps
              atom := [], plain := true, fills := (ps.flatMap fun q => Site.sectorsOf q n).eraseDups, also := none
              win := Site.windowsOf (ps.map fun p => (p.lane, p.addr, p.loc)), sample := none }] })
    load (.ldg c d a off ty wid) .global ∧ load (.lds c d a off ty wid) .scratch

/-- R140, R142, R259, R265 to R268: LDV, ATOM and RED first send the warp's own dirty bytes of the lines home where they act
there; LDV is then an outstanding load of what home holds, at core scope of what the core's L1 lets the warp read; ATOM and RED
are outstanding operations, one a lane, held while an earlier load of their bytes waits for another operation. That a destination in
v registers counts as a per-lane operand is the model's reading of R143 and R268 (log 44). -/
def Obligations.OperationsAtHome : Prop :=
  ∀ (s : State) (c : Ctl) (w : Warp) (d : Dst) (o : D3) (a b : Opnd) (off : Word) (ty : Option Tag) (op : AtomOp) (wid : Wid)
    (scope : Scope) (sp : Bool), s.Follows c w → s.Unsampled →
    let x := s.site c 0 w
    let k := s.dev.curCore
    let j := s.dev.curSlot
    let n := widBytes wid
    let regs := widRegs wid
    let p := x.p
    let flushed (d' : Dev) (ps : List Place) : Except WbFault Dev := d'.flushOwn k j w (ps.map fun q => q.addr.toNat)
    let lanes (single : Bool) : List Lane := if single then (lowestLane p).toList else lanesOf p
    let win (ps : List Place) := Site.windowsOf (ps.map fun q => (q.lane, q.addr, q.loc))
    let ldv := Instr.ldv c d a off ty wid scope
    let atom := Instr.atom c o off op wid scope sp
    let red := Instr.red c a b off op wid scope sp
    let full : Bool := 63 ≤ w.st || w.releasing
    let space : Space := if sp then .scratch else .global
    let tag := atomDataTag op wid
    let acts (i : Instr) (ls : List Lane) (a b : Opnd) (cas : Option Opnd) (start : Dev → List Place → List AtomLane → Dev) : Prop :=
      let ok := x.addressOk space a && x.dataOk b tag regs && (cas.all fun e => x.v.defined regs e)
      let places := x.placesOf space n .both (ls.map fun l =>
        let addr := x.address space a off l
        (l, addr, addr % n == 0)) (fun addr => !sp && x.windowRefuses op wid scope addr)
      let data (e : Opnd) (l : Lane) : DWord := BitVec.ofNat 64 (x.dataOf e tag regs l)
      (ok = false → s.Faults i c w (.format w.m)) ∧
      (ok = true → ∀ f, places = .error f → s.Fails i c w f) ∧
      (ok = true → ∀ d' ps, places = .ok (d', ps) →
        let ops := ps.map fun q => {
          lane := q.lane, op := op, bytes := n, loc := q.loc, key := q.key, data := data (cas.getD b) q.lane
          cmp := data b q.lane : AtomLane }
        let locs := ops.flatMap fun a => (List.range n).map fun i => Dev.locUp a.loc i
        let waits := Dev.captureBlocked w w.loads.reverse locs
        let home := if sp then .ok d' else flushed d' ps
        (waits = true → s.Holds i s.dev .atomic) ∧
        (waits = false → ∀ e, home = .error e → s.Faults i c w (writeBackFault p e)) ∧
        (waits = false → ∀ e, home = .ok e →
          s.Leaves i (start (((e.capture k j locs).dropCopies k locs).commit w.task) ps ops)))
    (s.Issues ldv c w →
      let places := x.places .global a off n .read (lanes (!Dst.isV d && a.isUniform))
      (63 ≤ w.ld → s.Holds ldv s.dev .counter) ∧
      (w.ld < 63 → x.addressOk .global a = false → s.Faults ldv c w (.format w.m)) ∧
      (w.ld < 63 → x.addressOk .global a = true → ∀ f, places = .error f → s.Fails ldv c w f) ∧
      (w.ld < 63 → x.addressOk .global a = true → ∀ d' ps, places = .ok (d', ps) →
        let home := if scope = .core then .ok d' else flushed d' ps
        (∀ e, home = .error e → s.Faults ldv c w (writeBackFault p e)) ∧
        (∀ e, home = .ok e →
          s.Leaves ldv (x.startLoad e { Site.blankLoad d (ty.getD .raw) regs with
            lanes := Site.laneLoads (scope == .core) n ps, win := win ps })))) ∧
    (s.Issues atom c w →
      (63 ≤ w.ld → s.Holds atom s.dev .counter) ∧
      (w.ld < 63 → acts atom (lanes (!Dst.isV o.d && o.a.isUniform && o.b.isUniform && o.c.isUniform)) o.a o.b
        (if op = .cas then some o.c else none) fun d' ps ops =>
          x.startLoad d' { Site.blankLoad o.d (atomTag op wid) regs with atom := ops, win := win ps })) ∧
    (s.Issues red c w →
      (full = true → s.Releases red c w s.dev .cluster fun d => s.Holds red d .counter) ∧
      (full = false → acts red (lanes (a.isUniform && b.isUniform)) a b none fun d' ps ops =>
        x.startStore d' { Site.blankStore with red := ops, win := win ps }))

/-- R23, R136, R138, R140 to R144, R219, R230, R340, R341: a store checks the access of every lane and its data, waits for an
outstanding atomic operation of the warp on its bytes, and is then outstanding, STCNT one higher: global bytes in lines of the
L1 or on their way home, scratchpad bytes on their way; with `.stat` all on their way, and a statistics update behind them. -/
def Obligations.Stores : Prop :=
  ∀ (s : State) (c : Ctl) (w : Warp) (a b idx : Opnd) (off : Word) (ty : Option Tag) (wid : Wid), s.Follows c w →
    s.Unsampled →
    let x := s.site c 0 w
    let k := s.dev.curCore
    let j := s.dev.curSlot
    let p := x.p
    let full : Bool := 63 ≤ w.st || w.releasing
    let n := widBytes wid
    let lanes (one : Bool) : List Lane := if (a.isUniform && b.isUniform) || one then (lowestLane p).toList else lanesOf p
    let bytes (ps : List Place) : List Site.StoreByte := Site.storeBytes (ps.map fun q =>
      (q, leBytes n (x.dataOf b ty (widRegs wid) q.lane)))
    let store (i : Instr) (sp : Space) (one tags : Bool) (more : Prop) (after : Dev → List Site.StoreByte → Prop) : Prop :=
      let ls := lanes one
      let ok := x.addressOk sp a && x.dataOk b ty (widRegs wid) && tags
      s.Issues i c w →
        (full = true → s.Releases i c w s.dev .cluster fun d => s.Holds i d .counter) ∧
        (full = false → ok = false → s.Faults i c w (.format w.m)) ∧
        (full = false → ok = true → more → ∀ f, x.places sp a off n .write ls = .error f → s.Fails i c w f) ∧
        (full = false → ok = true → more → ∀ d ps, x.places sp a off n .write ls = .ok (d, ps) → after d (bytes ps))
    let stg := Instr.stg c a b none off ty wid
    let sts := Instr.sts c a b off ty wid
    let stat := Instr.stg c a b (some idx) off ty wid
    let i := x.v.uniform idx
    let wide : Bool := match b with
      | .w _ => true
      | _ => false
    store stg .global false true True (fun d bs =>
      let locs := bs.map (·.loc)
      (Dev.writeHeld w locs = true → s.Holds stg s.dev .atomic) ∧
      (Dev.writeHeld w locs = false →
        let sent := x.storeLines bs ((bs.map fun b => b.va / 128).eraseDups) (d.capture k j locs)
        (∀ e, sent = .error e → s.Faults stg c w (writeBackFault p e)) ∧
        (∀ e lines flight, sent = .ok (e, lines, flight) → s.Leaves stg (x.startStore (x.sendStore e flight)
          { Site.blankStore with lines := lines, flight := flight, win := Site.storeWindows bs })))) ∧
    store sts .scratch false true True (fun d bs =>
      s.Leaves sts (x.startStore d { Site.blankStore with flight := bs.map Site.StoreByte.fly })) ∧
    (s.Issues stat c w → full = false → (x.addressOk .global a && x.dataOk b ty (widRegs wid) && x.v.has .i32 1 idx) = true →
      (∀ z, s.dev.context w.ctx = some z → z.tsrIndexOk i = false) →
      s.Faults stat c w (.engineParam 32 p (i.setWidth 64))) ∧
    ∀ z, s.dev.context w.ctx = some z →
      store stat .global wide (x.v.has .i32 1 idx) (z.tsrIndexOk i = true) (fun d bs =>
        let rec_ := d.placeAt k j w .global (z.tsrVa i) 4 true .read
        (∀ code, rec_ = .error code → s.Fails stat c w (.warpWide code p (BitVec.ofNat 64 (z.tsrVa i)))) ∧
        ∀ e pa key, rec_ = .ok (e, .phys pa, key) →
          let locs := bs.map (·.loc)
          let lines := (bs.map fun b => va57 b.va / 128 * 128).eraseDups
          let home := (e.capture k j locs).writeBack k fun l => l.ctx == w.ctx && lines.contains l.va
          (Dev.writeHeld w locs = true → s.Holds stat s.dev .atomic) ∧
          (Dev.writeHeld w locs = false → ∀ e', home = .error e' → s.Faults stat c w (writeBackFault p e')) ∧
          (Dev.writeHeld w locs = false → ∀ e', home = .ok e' →
            let flight := bs.map Site.StoreByte.fly
            s.Leaves stat (x.startStore (x.sendStore (e'.commit w.task) flight) { Site.blankStore with
              flight := flight, win := Site.storeWindows bs
              stat := some { ctx := w.ctx, pa := pa, key := key, gen := e'.tsrWord key pa 0
                             delta := x.statElems b ty wid (lanes wide), by_ := some (k, j, e'.seq) } })))

/-- R236, R250, R270, R393, R403, R405, R416: a byte written at its home reads back under its key, and every other byte that the
key reads stays; a protected frame takes no write, and a register page keeps one for the register's turn, the PF's until its writer is
named (log 28); a monitor
armed on the block is triggered, and no warp changes otherwise.
R219, R226, R250: a byte written in bank space reads back, every other byte of every core's banks and of memory stays, and in
a present granule of a region it is dirty. R265, R266, Table 10.4: one lane's atomic operation on memory answers the old value
and leaves the new one at its home, little-endian; every other byte that its key reads stays. -/
def Obligations.BytesAtHome : Prop :=
  (∀ (d : Dev) (key : BitVec 10) (pa : Nat) (b : Byte),
    let e := d.writePa key pa b
    let off := pa - 0xFF0000000000
    let guarded := paKind pa = .dram ∧ d.isProtected (pa / 0x10000) = true
    let block : Loc := .phys (pa / 128 * 128)
    (paKind pa ≠ .regs → ¬guarded → e.readPa key pa = b ∧ ∀ q, q ≠ pa → e.readPa key q = d.readPa key q) ∧
    (guarded → e = d) ∧
    (paKind pa = .regs → e = if Dev.inRegPages off then { d with regWrites := d.regWrites ++ [(off, b, 0)] } else d) ∧
    (paKind pa ≠ .regs → ¬guarded → ∀ k j, e.slot k j = (d.slot k j).map fun w =>
      if w.monitor.any fun m => m.1 == block then { w with
        monitor := some (block, true), alarm := w.alarm.or (if d.readPa key pa = b then none else some d.clock) } else w) ∧
    e.tasks = d.tasks ∧ e.clusters = d.clusters ∧ e.fns = d.fns) ∧
  (∀ (d : Dev) (k : CoreIx) (off : Nat) (key : BitVec 10) (b : Byte),
    let e := d.writeLoc (.bank k off) key b
    e.readLoc (.bank k off) key = b ∧
    (∀ k' off', (k', off') ≠ (k, off) → e.readLoc (.bank k' off') key = d.readLoc (.bank k' off') key) ∧
    (∀ pa, e.readPa key pa = d.readPa key pa) ∧
    (∀ i r o m, Dev.regionAt (d.core k) off = some (i, r, o) → r.granules[o / 256]? = some (some m) →
      ∃ r', (e.core k).regions[i]? = some r' ∧ r'.granules[o / 256]? = some (some (m ||| 1#256 <<< (o % 256)))) ∧
    (Dev.regionAt (d.core k) off = none → (e.core k).regions = (d.core k).regions)) ∧
  (∀ (d : Dev) (a : AtomLane) (pa : Nat), a.loc = .phys pa → a.bytes ∈ [2, 4, 8] → pa % a.bytes = 0 → paKind pa ≠ .regs →
    (paKind pa = .dram → d.isProtected (pa / 0x10000) = false) →
    let r := d.atomLane a
    let old := leNat (d.readBytes a.key pa a.bytes)
    r.1 = old ∧
    r.2.readBytes a.key pa a.bytes = leBytes a.bytes (atomNew a.op a.bytes old a.data.toNat a.cmp.toNat) ∧
    (∀ q, q < pa ∨ pa + a.bytes ≤ q → r.2.readPa a.key q = d.readPa a.key q))

/-- R138, R141, R219: LOAD_COMPLETION puts the bytes of a ready load into its registers and counts LDCNT down, with no effect
on memory or on another warp; one that earlier accesses block does nothing. R229, R251, R255: a byte of a plain read is the warp's
own latest write on its way, else what another warp of its task lets it read, else the byte that the L1 holds, else the home's; R334:
of words of statistics records that are read together the L1 gives bytes only where it gives all of them. R138, R141: the
registers that arriving data fills: register `q` of the destination takes bits 32 q upwards of the lane's bytes, in the lanes of the load. R141, R257:
STORE_COMPLETION brings a store's bytes home, the later byte of a place standing, and changes no other byte; STCNT falls once
nothing of the store is left; R40, R43, R405: a byte for a frame that is protected by then stays out, and its context ends
(log 106). -/
def Obligations.AccessesComplete : Prop :=
  (∀ (s : State) (k : CoreIx) (j : SlotIx) (i : Nat) (w : Warp) (p : PLoad), s.dev.slot k j = some w → w.loads[i]? = some p →
    (s.dev.loadReady k j w p = false → s.Moves (.loadCompletion k j i) fun e => e = s.dev) ∧
    (s.dev.loadReady k j w p = true → w.status ≠ .ended → p.atom = [] → Dev.portsOf (Dev.loadLocs p) = [] →
      p.sample = none → s.Moves (.loadCompletion k j i) fun e =>
        e.slot k j = some { Dev.loaded w p (p.lanes.map fun n => (n.lane, leNat (s.dev.laneNow k j w p.lanes n))) with
          loads := removeAt i w.loads, ld := w.ld - 1 } ∧
        e.mem = s.dev.mem ∧ ∀ k' j', (k', j') ≠ (k, j) → e.slot k' j' = s.dev.slot k' j')) ∧
  (∀ (d : Dev) (k : CoreIx) (j : SlotIx) (w : Warp) (l : LaneLoad) (ls : List LaneLoad) (pa n i : Nat) (key : BitVec 10),
    l.l1 = true → i < n → l.bytes = List.replicate n (.home (.phys pa) key) →
    let va := l.va + i
    let own := d.ownByte k j w va (.phys (pa + i))
    let task := d.coreByte k j w va
    let clean := d.cleanByte k w va
    let home := some (d.readPa key (pa + i))
    let read := (d.laneNow k j w ls l)[i]?
    (own ≠ none → read = own) ∧ (own = none → task ≠ none → read = task) ∧
    (own = none → task = none → clean = none → read = home) ∧
    (own = none → task = none → clean ≠ none →
      (d.inPool w.ctx l.va = false → read = clean) ∧
      (d.inPool w.ctx l.va = true → ((∀ m ∈ l :: ls.filter (d.lineMates w l), d.laneHere k j w m = true) → read = clean) ∧
        ((∃ m ∈ l :: ls.filter (d.lineMates w l), d.laneHere k j w m = false) → read = home)))) ∧
  (∀ (w : Warp) (p : PLoad) (r : Fin 64) (vals : List (Lane × Nat)), p.dst = .v r → p.also = none → r.val + p.regs ≤ 64 →
    (vals.map (·.1)).Nodup → vals ≠ [] →
    let e := Dev.loaded w p vals
    (∀ q (h : r.val + q < 64), q < p.regs → ∀ l x, (l, x) ∈ vals → e.vAt ⟨r.val + q, h⟩ l = BitVec.ofNat 32 (x / 2 ^ (32 * q))) ∧
    (∀ n l, (n.val < r.val ∨ r.val + p.regs ≤ n.val ∨ ∀ x, (l, x) ∉ vals) → e.vAt n l = w.vAt n l) ∧
    (p.m = Mask.all → ∀ n : Fin 64, r.val ≤ n.val → n.val < r.val + p.regs → e.vTag n = p.tag) ∧
    e.m = w.m ∧ e.w = w.w ∧ e.p = w.p ∧ e.pc = w.pc) ∧
  (∀ (s : State) (k : CoreIx) (j : SlotIx) (i : Nat) (w : Warp) (p : PStore) (key : BitVec 10), s.dev.slot k j = some w →
    w.stores[i]? = some p → p.red = [] → p.flight ≠ [] →
    (∀ b ∈ p.flight, b.key = key ∧ ∃ pa, b.loc = .phys pa ∧ paKind pa = .dram) →
    let locs := p.flight.map (·.loc)
    let ready := Dev.byteBlocked w p.seq locs = false ∧ s.dev.sliceBlocked k p.seq locs = false
    let guarded (pa : Nat) : Prop := s.dev.isProtected (pa / 0x10000) = true
    let late := ∃ pa, .phys pa ∈ locs ∧ guarded pa
    (¬ready → s.Moves (.storeCompletion k j i) fun e => e = s.dev) ∧
    (ready → late → s.Moves (.storeCompletion k j i) fun e => (∀ pa, paKind pa = .dram → guarded pa → e.rawByte pa = s.dev.rawByte pa) ∧
      ∀ x, s.dev.context w.ctx = some x → e.context w.ctx = some { x with ended := true }) ∧
    (ready → ¬late → s.Moves (.storeCompletion k j i) fun e =>
      (s.Unsampled → (∀ pa, e.readPa key pa =
        ((p.flight.reverse.find? fun b => b.loc == .phys pa).map (·.val)).getD (s.dev.readPa key pa))) ∧
      (p.lines = [] → p.stat = none → p.sent = false → w.status ≠ .ended → s.Unsampled →
        (w.stores.map (·.seq)).Nodup → (∀ q ∈ w.stores, Dev.storeDone q = true → q = p) →
        ∃ w', e.slot k j = some w' ∧ w'.st = w.st - 1 ∧ w'.stores = removeAt i w.stores ∧ w'.pc = w.pc)))

/-- R253, R254, R264: an acquiring fence completes with the action of Table 9.6, a releasing one after its release, and a
fence of both kinds then acquires and, at die and system scope, drops the tensor layout records cached for the context. R229,
R231, R254, Table 9.6: an acquire drops every clean byte of the context from the core's L1 and keeps the dirty ones, but that
at core scope it does nothing under the policy that records scopes; nothing else of the die changes. -/
def Obligations.Fences : Prop :=
  (∀ (s : State) (c : Ctl) (w : Warp) (scope : Scope), s.Follows c w → s.Unsampled →
    let k := s.dev.curCore
    let acq := Instr.fenceAcq c scope
    let rel := Instr.fenceRel c scope
    let both := Instr.fenceAr c scope
    let dropped (d : Dev) : Dev :=
      if scope = .die ∨ scope = .system then { d with tlrs := d.tlrs.filter fun t => t.ctx != w.ctx } else d
    (s.Issues acq c w → s.Completes acq (s.dev.acquire k w.ctx scope) w) ∧
    (s.Issues rel c w → s.Releases rel c w s.dev scope (s.Leaves rel)) ∧
    (s.Issues both c w → s.Releases both c w s.dev scope fun d => s.Leaves both ((dropped d).acquire k w.ctx scope))) ∧
  (∀ (d : Dev) (k : CoreIx) (ctx : CtxIx) (scope : Scope),
    let e := d.acquire k ctx scope
    (d.recorded ctx = true → scope = .core → e = d) ∧
    (¬(d.recorded ctx = true ∧ scope = .core) →
      (∀ l ∈ (e.core k).l1, l.ctx = ctx → l.valid = l.dirty ∧ l.dirty ≠ 0) ∧
      (∀ l ∈ (d.core k).l1, l.ctx = ctx → l.dirty ≠ 0 → { l with valid := l.dirty } ∈ (e.core k).l1) ∧
      (∀ l, l.ctx ≠ ctx → (l ∈ (e.core k).l1 ↔ l ∈ (d.core k).l1)) ∧
      e.core k = { d.core k with l1 := (e.core k).l1 } ∧ (∀ k', k' ≠ k → e.core k' = d.core k') ∧
      e = { d with cores := e.cores }))

/-- R269 and R270: MONITOR checks its byte and arms the warp's one monitor on the byte's 128-byte block; WAITMON goes on at
once, its monitor disarmed, where the monitor is triggered or a halt or a pre-emption waits, has no effect without a monitor,
and else waits. R269: an armed monitor holds its block, not triggered; a global one has an entry in its slice, of at most 128,
the oldest leaving, its warp's monitor triggered. -/
def Obligations.Monitors : Prop :=
  (∀ (s : State) (c : Ctl) (w : Warp) (a : Opnd) (off timeout : Word), s.Follows c w → s.Unsampled →
    let x := s.site c 0 w
    let k := s.dev.curCore
    let j := s.dev.curSlot
    let i := Instr.monitor c a off
    let v := Instr.waitmon c timeout
    let pair := x.v.uniformPair a
    let local_ := hiWord pair = 0x80000000#32
    let sp : Space := if local_ then .scratch else .global
    let addr : Int := if local_ then (loWord pair).toNat + off.toInt else (pair + off.signExtend 64).toNat
    let place := s.dev.placeAt k j w sp addr 1 true .read
    let armed (block : Loc) (d : Dev) : Prop := s.Leaves i (d.arm k j block)
    (s.Issues i c w →
      (x.v.has .i64 2 a = false → s.Faults i c w (.format w.m)) ∧
      (x.v.has .i64 2 a = true → ∀ e, place = .error e → s.Fails i c w (.warpWide e x.p (Site.addrField sp addr))) ∧
      (x.v.has .i64 2 a = true → ∀ d pa key, place = .ok (d, .phys pa, key) → armed (.phys (pa / 128 * 128)) d) ∧
      (x.v.has .i64 2 a = true → ∀ d core o key, place = .ok (d, .bank core o, key) →
        armed (.bank core (o / 128 * 128)) d)) ∧
    (s.Issues v c w →
      (w.monitor = none → s.Writes v w) ∧
      (∀ block triggered, w.monitor = some (block, triggered) →
        (triggered = true ∨ w.preempt = true ∨ w.haltPend = true → s.Leaves v (s.dev.disarm k j)) ∧
        (triggered = false → w.preempt = false → w.haltPend = false →
          s.GoesOn v s.dev { w with wait := some (.waitmon s.dev.clock timeout.toNat) })))) ∧
  (∀ (d : Dev) (k : CoreIx) (j : SlotIx) (w : Warp) (block : Loc), d.slot k j = some w →
    let e := d.arm k j block
    let mine (m : MonEntry) : Bool := m.core == k && m.slot == j
    let others := d.monitors.filter fun m => !mine m
    (∃ w', e.slot k j = some w' ∧ w'.monitor = some (block, false) ∧ w'.alarm = none) ∧
    (∀ core off, block = .bank core off → e.monitors = others) ∧
    (∀ pa, block = .phys pa →
      let here := others.filter fun m => m.slice == sliceOf pa
      let entry : MonEntry := { slice := sliceOf pa, line := pa, core := k, slot := j }
      (here.length < 128 → e.monitors = others ++ [entry]) ∧
      (∀ m rest, here = m :: rest → 128 ≤ here.length → e.monitors = others.filter (· != m) ++ [entry] ∧
        ∀ v, d.slot m.core m.slot = some v → ∃ v', e.slot m.core m.slot = some v' ∧
          v'.monitor = v.monitor.map fun b => (b.1, true))))

/-- R146, R220 to R224 with Table 9.3, R225 to R227 with R272 and R273: PFD leaves the die as its prefetches do; BANKCFG and
RMAP check their operands in the order of their tables and then change banks and regions. A PFD takes the next free value for its
sample (log 91). -/
def Obligations.LocalStore : Prop :=
  ∀ (s : State) (c : Ctl) (imm off : Word) (w : Warp) (a b e : Opnd) (n : Fin 8), s.Follows c w → s.Unsampled →
    let x := s.site c 0 w
    let xm := s.site c imm w
    let k := s.dev.curCore
    let p := x.p
    let word := x.v.uniform a
    let win := word.getLsbD 31
    let r := x.bankRange word
    let lines := ((if a.isUniform then (lowestLane p).toList else lanesOf p).map fun l =>
      (x.v.pair a l + off.signExtend 64).toNat / 128 * 128).eraseDups
    let drawn : Dev := { s.dev with draw := s.dev.draw + 1 }
    let bank (i : Instr) (f : BankForm) (form : Bool) (small : Bool) : Prop :=
      let bad (reason : Nat) : Prop := s.Faults i c w (.engineParam reason p (word.setWidth 64))
      let reserved := fieldOf word 30 8 ≠ 0 ∨ 15 < word.toNat % 16 + word.toNat / 16 % 16
      let ways := r.banks.filter fun b => (s.dev.core k).modeAt b == .cache
      let home := if f = .scratchpad then s.dev.writeBack k (fun l => ways.contains l.way.val) else .ok s.dev
      let ready := ¬reserved ∧ form = false ∧ (win = true ∨ x.privileged = true) ∧ x.bankInUse f word r = false ∧
        x.bankBusy r = false
      s.Issues i c w →
        (x.v.has .i32 1 a = false → s.Faults i c w (.format w.m)) ∧
        (x.v.has .i32 1 a = true → reserved → bad 1) ∧
        (x.v.has .i32 1 a = true → ¬reserved → form = true → bad 2) ∧
        (x.v.has .i32 1 a = true → ¬reserved → form = false → win = false → x.privileged = false → bad 3) ∧
        (x.v.has .i32 1 a = true → ¬reserved → form = false → (win = true ∨ x.privileged = true) →
          x.bankInUse f word r = true → bad 4) ∧
        (x.v.has .i32 1 a = true → ¬reserved → form = false → (win = true ∨ x.privileged = true) →
          x.bankInUse f word r = false → x.bankBusy r = true → bad 5) ∧
        (x.v.has .i32 1 a = true → ready → (∀ err : WbFault, home = .error err → s.Faults i c w
          { FaultInfo.engineParam 5 p (word.setWidth 64) with wb := some (BitVec.ofNat 64 err.va) }) ∧
          ∀ d, home = .ok d → (small = true → bad 6) ∧ (small = false → s.Leaves i (x.bankChange f word r d)))
    let map_ := Instr.rmapMap c a b e imm
    let unmap := Instr.rmapUnmap c a imm
    let m := xm.v.uniform a
    let woff := m.toNat % 2 ^ 18
    let va := (xm.v.uniformPair b).toNat
    let len := (xm.v.uniform e).toNat
    let mtags := xm.v.has .i32 1 a && xm.v.has .i64 2 b && xm.v.has .i32 1 e
    let mbad := 2 ^ 18 ≤ m.toNat ∨ woff % 256 ≠ 0 ∨ va % 256 ≠ 0 ∨ len % 256 ≠ 0
    let mine (y : Region) : Bool := y.owner == w.owner && y.woff == woff
    (s.Issues (.pfd c false a off) c w → s.Completes (.pfd c false a off) drawn w) ∧
    (s.Issues (.pfd c true a off) c w → s.Completes (.pfd c true a off)
      (lines.foldl (fun d va => d.prefetchLine k w va) drawn) w) ∧
    bank (.bankcfgCache c a) .cache win false ∧ bank (.bankcfgScratchpad c a) .scratchpad false false ∧
    bank (.bankcfgFifo c a n) (.fifo n.val) (!win) (r.banks.length * 0x4000 < 2 * (256 * 2 ^ n.val)) ∧
    (s.Issues map_ c w →
      let bad (reason : Nat) : Prop := s.Faults map_ c w (.engineParam reason p (m.setWidth 64))
      let regions := (s.dev.core k).regions
      (mtags = false → s.Faults map_ c w (.format w.m)) ∧ (mtags = true → mbad → bad 1) ∧
      (mtags = true → ¬mbad → s.dev.allocOf k w.owner = none → bad 2) ∧
      (mtags = true → ¬mbad → ∀ al, s.dev.allocOf k w.owner = some al →
        let range := len = 0 ∨ al.bytes < woff + len ∨ canonical va = false
        let overlap := ∃ y ∈ regions, y.alloc = al.id ∧ y.woff < woff + len ∧ woff < y.woff + y.len
        let fifo := ∃ b < 16, (s.dev.core k).modeAt b = .fifo ∧ al.start + woff < (b + 1) * 0x4000 ∧
          b * 0x4000 < al.start + woff + len
        (range → bad 2) ∧ (¬range → overlap → bad 3) ∧ (¬range → ¬overlap → 16 ≤ regions.length → bad 4) ∧
        (¬range → ¬overlap → regions.length < 16 → fifo → bad 5) ∧
        (¬range → ¬overlap → regions.length < 16 → ¬fifo → s.Completes map_ (s.dev.modCore k fun y => { y with
          regions := y.regions ++ [{ owner := w.owner, alloc := al.id, ctx := w.ctx, woff := woff, len := len, va := va
                                     granules := List.replicate (len / 256) none }] }) w))) ∧
    (s.Issues unmap c w →
      let bad (reason : Nat) : Prop := s.Faults unmap c w (.engineParam reason p (m.setWidth 64))
      let odd := 2 ^ 18 ≤ m.toNat ∨ woff % 256 ≠ 0
      let home := s.dev.writeBackRegions k s.dev.curSlot mine
      (xm.v.has .i32 1 a = false → s.Faults unmap c w (.format w.m)) ∧ (xm.v.has .i32 1 a = true → odd → bad 1) ∧
      (xm.v.has .i32 1 a = true → ¬odd → (∀ y ∈ (s.dev.core k).regions, mine y = false) → bad 6) ∧
      (xm.v.has .i32 1 a = true → ¬odd → (∃ y ∈ (s.dev.core k).regions, mine y = true) →
        (∀ err, home = .error err → s.Faults unmap c w (writeBackFault p err)) ∧
        (∀ d, home = .ok d → s.Leaves unmap (d.modCore k fun y => { y with
          regions := y.regions.filter fun z => !mine z }))))

/-- R130 and R270: MONITOR_TRIGGER, WAITMON_TIMEOUT and WAITMON_UNPROMPTED_END end a WAITMON, its monitor disarmed, a timeout
not before 256 cycles for each of its units; SLEEP_EXPIRY ends a SLEEP, not before its cycles have passed. R132, R133 and
R246: IFETCH_FILL_COMPLETE takes the line of one of the 8 fill slots into the instruction cache, where its page can be fetched, and
the warps that wait for it go on, the slot going to the first demand that waits for one; TLB_WALK_COMPLETE ends a walk, whose entry enters the last level of translation, of 24,576 entries, and the
warps that wait for walks come to their instructions again. -/
def Obligations.WaitsAndFills : Prop :=
  (∀ (s : State) (k : CoreIx) (j : SlotIx) (i : Nat) (w : Warp), s.dev.slot k j = some w → w.status = .running →
    w.finish.isOver = false →
    let d := s.dev
    let resumed (e : Dev) : Prop := e.slot k j = some { w.finish with monitor := none, alarm := none } ∧
      (∀ m ∈ e.monitors, ¬(m.core = k ∧ m.slot = j)) ∧ ∀ k' j', (k', j') ≠ (k, j) → e.slot k' j' = d.slot k' j'
    (∀ start n, w.wait = some (.waitmon start n) →
      (((d.warps.filter fun x => (Dev.waitmonOf x.2.2).isSome && x.2.2.monitor.any (·.2))[i]? = some (k, j, w)) →
        s.Moves (.monitorTrigger i) resumed) ∧
      (n ≠ 0 → start + 256 * n ≤ d.clock → s.Moves (.waitmonTimeout k j) resumed) ∧
      (n = 0 ∨ d.clock < start + 256 * n → s.Moves (.waitmonTimeout k j) fun e => e = d) ∧
      s.Moves (.waitmonUnpromptedEnd k j) resumed) ∧
    (∀ start n, w.wait = some (.sleep start n) →
      (start + n ≤ d.clock → s.Moves (.sleepExpiry k j) fun e => e.slot k j = some w.finish ∧
        ∀ k' j', (k', j') ≠ (k, j) → e.slot k' j' = d.slot k' j') ∧
      (d.clock < start + n → s.Moves (.sleepExpiry k j) fun e => e = d))) ∧
  (∀ (s : State) (k : CoreIx) (i : Nat),
    let d := s.dev
    (8 ≤ i → s.Moves (.ifetchFillComplete k i) fun e => e = d) ∧
    (∀ f, i < 8 → (d.core k).fills[i]? = some f → s.Moves (.ifetchFillComplete k i) fun e =>
      (e.core k).fills = removeAt i (d.core k).fills ∧
      (∀ code, (d.via k).fetchPage f.ctx (canon57 f.va) = .error code → (e.core k).icache = (d.core k).icache) ∧
      (∀ g x pfn, (d.via k).fetchPage f.ctx (canon57 f.va) = .ok g → d.context f.ctx = some x →
        (d.via k).frameAt f.ctx x (canon57 f.va) = some pfn → (e.core k).icache = Dev.putLine (d.core k).icache
          { ctx := f.ctx, va := f.va, frame := pfn, used := false, words := (d.via k).codeBytes f.ctx (canon57 f.va) 256 }) ∧
      (∀ j w, d.slot k j = some w → e.slot k j = some
        (if w.ctx = f.ctx ∧ w.wait = some .fill ∧ va57 w.pc.toNat / 256 * 256 = f.va then { w with wait := none } else w)) ∧
      ∀ k', k' ≠ k → e.core k' = d.core k') ∧
    (∀ w, i < 64 → d.walks[i]? = some w → s.Moves (.tlbWalkComplete i) fun e =>
      let entry := (d.context w.ctx).bind fun x => d.walkEntry w.ctx x w.va w.got
      e.walks = removeAt i d.walks ∧ (entry = none → e.tlb = d.tlb) ∧
      (∀ t, entry = some t → t ∈ e.tlb ∧ e.tlb.length ≤ 24576 ∧ ∀ u ∈ e.tlb, u = t ∨ u ∈ d.tlb) ∧
      ∀ k j, e.slot k j = (d.slot k j).map fun v =>
        if v.ctx = w.ctx ∧ v.wait = some .walk then { v with walked := w.va / 2 ^ 24 :: v.walked } else v))

/-! ### Engines and statistics -/

/-- R176, R280, R289 to R291, R296, R314, R326, R327, R329, R349: a command instruction is held while its counter would pass
63 or its queue has no room for every lane, then checks every lane, the records read being cached where a check fails too (R284), and
enters one command a lane in its queue; MMA first
waits for the warp's own atomic operations. R280, R291, R314, R359: the commands that enter a queue stand behind those already
there, in lane order, as their lanes made them but for their names and the generation read at issue; CPCNT or TLCNT rises by
the lanes; a command that stores takes its task past its commit point; nothing else of any core changes. -/
def Obligations.EngineCommands : Prop :=
  (∀ (s : State) (c : Ctl) (imm : Word) (w : Warp) (a b e : Opnd) (dep : Dep), s.Follows c w → s.Unsampled →
    let x := s.site c 0 w
    let xm := s.site c imm w
    let k := s.dev.curCore
    let n := (lanesOf x.p).length
    let tags (a32 : Bool) : Bool := x.v.has .i64 2 a && a32 && x.v.has .i64 2 e
    let queue {α : Type} (i : Instr) (count room used : Nat) (tags : Bool) (lanes : Dev × Except FaultInfo (List α))
        (enter : Dev → List α → Dev) : Prop :=
      (63 < count + n → s.Holds i s.dev .counter) ∧
      (count + n ≤ 63 → room < used + n → s.Holds i s.dev .queue) ∧
      (count + n ≤ 63 → used + n ≤ room → tags = false → s.Faults i c w (.format w.m)) ∧
      (count + n ≤ 63 → used + n ≤ room → tags = true →
        (∀ f, lanes.2 = .error f → s.FailsFrom i c w lanes.1 f) ∧
        (∀ cs, lanes.2 = .ok cs → s.Leaves i (enter lanes.1 cs)))
    let copy (i : Instr) (commits : Bool) (tags : Bool) (f : Dev → Lane → Checked CopyCmd) : Prop :=
      s.Issues i c w → queue i w.cp 16 (s.dev.core k).copyQ.length tags (x.eachLane f) (x.enqueued commits)
    let mat (i : Instr) (tags : Bool) (f : Dev → Lane → Checked MatCmd) : Prop :=
      queue i w.tl 4 (Site.matTaken (s.dev.core k)) tags (xm.eachLane f) xm.enqueuedMat
    let mma (i : Instr) (tags : Bool) (f : Dev → Lane → Checked MatCmd) : Prop :=
      let busy := (∃ p ∈ w.loads, p.atom ≠ []) ∨ ∃ p ∈ w.stores, p.red ≠ []
      s.Issues i c w → (busy → s.Holds i s.dev .atomic) ∧ (¬busy → mat i tags f)
    copy (.cpyGl c a b e dep) false (tags (x.v.has .i32 1 b)) (x.copyLane .gl a b e dep) ∧
    copy (.cpyLg c a b e dep) true (tags (x.v.has .i32 1 b)) (x.copyLane .lg a b e dep) ∧
    copy (.cpyGf c a b e dep) false (tags (x.v.has .i32 1 b)) (x.copyLane .gf a b e dep) ∧
    copy (.cpyGg c a e dep) true (tags true) (x.copyGgLane a e dep) ∧
    copy (.cpym c a b e dep) false (tags (x.v.has .i32 1 b)) (x.multicastLane a b e dep) ∧
    copy (.mdrain c a b e dep) true (tags (x.v.has .i32 1 b)) (x.drainLane a b e dep) ∧
    copy (.statmrg c a b dep) true (x.v.has .i32 1 a && x.v.has .i32 1 b) (x.mergeLane a b dep) ∧
    mma (.mmaGlob c a imm) (xm.v.has .i64 2 a) (fun d l => xm.mmaLane .global (xm.v.pair a l) d) ∧
    mma (.mmaLoc c a imm) (xm.v.has .i32 1 a) (fun d l => xm.mmaLane .scratch ((xm.v.word a l).setWidth 64) d) ∧
    (s.Issues (.tbld c a b imm) c w →
      mat (.tbld c a b imm) (xm.v.has .i32 1 a && xm.v.has .i32 1 b) (xm.tbldLane a b))) ∧
  (∀ (x : Site) (d : Dev) (w : Warp) (commits : Bool) (cs : List CopyCmd) (ms : List MatCmd), d.slot x.k x.j = some w →
    let n := (lanesOf x.p).length
    let e := x.enqueued commits d cs
    let m := x.enqueuedMat d ms
    let made (c : CopyCmd) : CopyCmd := { c with id := 0, gen := none }
    e.slot x.k x.j = some { w with cp := w.cp + n } ∧ m.slot x.k x.j = some { w with tl := w.tl + n } ∧
    (e.core x.k).copyQ.take (d.core x.k).copyQ.length = (d.core x.k).copyQ ∧
    ((e.core x.k).copyQ.drop (d.core x.k).copyQ.length).map made = cs.map made ∧
    ((e.core x.k).copyQ.drop (d.core x.k).copyQ.length).map (·.id) = (List.range cs.length).map (d.nextId + ·) ∧
    (m.core x.k).matQ = (d.core x.k).matQ ++ ms.zipIdx.map (fun c => Site.named (d.nextId + c.2) c.1) ∧
    e.tasks = (if commits then (d.commit x.w.task).tasks else d.tasks) ∧ m.tasks = d.tasks ∧
    (∀ k, k ≠ x.k → e.core k = d.core k ∧ m.core k = d.core k) ∧
    e.core x.k = { d.core x.k with slots := (e.core x.k).slots, copyQ := (e.core x.k).copyQ } ∧
    m.core x.k = { d.core x.k with slots := (m.core x.k).slots, matQ := (m.core x.k).matQ } ∧
    (∀ j, j ≠ x.j → e.slot x.k j = d.slot x.k j ∧ m.slot x.k j = d.slot x.k j) ∧
    e = { d with cores := e.cores, tasks := e.tasks, nextId := d.nextId + cs.length } ∧
    m = { d with cores := m.cores, nextId := d.nextId + ms.length })

/-- R294, R295, R300, R302, R328: PUBLISH waits for its publish point after its checks; LRINV drops the cached record that it
names, in its other form all of the context's; CBACQ and CBREL move a circular buffer's counters, CBACQ held while no slot is
filled and CBREL while accesses of the warp are outstanding; MZERO acts on its tiles at its place in the order. -/
def Obligations.RecordsAndBuffers : Prop :=
  ∀ (s : State) (c : Ctl) (imm : Word) (w : Warp) (d : Dst) (a b : Opnd), s.Follows c w →
    let x := s.site c imm w
    let k := s.dev.curCore
    let p := x.p
    let word := x.v.uniform a
    let bad (i : Instr) (reason : Nat) : Prop := s.Faults i c w (.engineParam reason p (word.setWidth 64))
    let pub := Instr.publish c a imm
    let r : BitVec 12 := word.setWidth 12
    let issuer : Issuer := { core := k, slot := s.dev.curSlot, ctx := w.ctx, task := w.task }
    let inv := Instr.lrinv c a imm
    let acq := Instr.cbacq c d a imm
    let rel := Instr.cbrel c a imm
    let zero := Instr.mzero c a b imm
    let count := x.v.uniform b
    (s.Issues pub c w →
      (x.v.has .i32 1 a = false → s.Faults pub c w (.format w.m)) ∧
      (x.v.has .i32 1 a = true → 2 ^ 12 ≤ word.toNat → bad pub 7) ∧
      (x.v.has .i32 1 a = true → word.toNat < 2 ^ 12 → s.dev.publishHeld issuer r = true → s.Holds pub s.dev .commands) ∧
      (x.v.has .i32 1 a = true → word.toNat < 2 ^ 12 → s.dev.publishHeld issuer r = false →
        (∀ e, s.dev.regionProbe w.ctx r = some e → s.Faults pub c w (writeBackFault p e)) ∧
        (s.dev.regionProbe w.ctx r = none →
          s.GoesOn pub (s.dev.commit w.task) { w with wait := some (.publish r p) }))) ∧
    (s.Issues inv c w →
      (x.v.has .i64 2 a = false → s.Faults inv c w (.format w.m)) ∧
      (x.v.has .i64 2 a = true → s.Completes inv { s.dev with
        tlrs := s.dev.tlrs.filter fun t => !(t.ctx == w.ctx && t.va == (x.v.uniformPair a).toNat) } w)) ∧
    (s.Issues (.lrinvAll c) c w → s.Completes (.lrinvAll c) { s.dev with
      tlrs := s.dev.tlrs.filter fun t => t.ctx != w.ctx } w) ∧
    (s.Issues acq c w →
      (x.v.has .i32 1 a = false → s.Faults acq c w (.format w.m)) ∧
      (x.v.has .i32 1 a = true → x.bufferOf a = none → bad acq 6) ∧
      (x.v.has .i32 1 a = true → ∀ l y, x.bufferOf a = some (l, y) →
        (y.filled = 0 → s.Holds acq s.dev (.cbacq l.core y.id)) ∧
        (y.filled ≠ 0 → s.Completes acq (s.dev.modCore l.core fun z => z.modBuf y.id fun y => { y with
            filled := y.filled - 1, acq := y.acq + 1, head := (y.head + 1) % y.n })
          (w.setDst d 0 p (fun _ => word + BitVec.ofNat 32 (y.head * (256 * 2 ^ y.e))) .i32)))) ∧
    (s.Issues rel c w →
      (x.v.has .i32 1 a = false → s.Faults rel c w (.format w.m)) ∧
      (x.v.has .i32 1 a = true → w.drained = false → s.Holds rel s.dev (.release 1)) ∧
      (x.v.has .i32 1 a = true → w.drained = true → x.bufferOf a = none → bad rel 6) ∧
      (x.v.has .i32 1 a = true → w.drained = true → ∀ l y, x.bufferOf a = some (l, y) →
        (y.acq = 0 → bad rel 6) ∧
        (y.acq ≠ 0 → s.Completes rel (s.dev.modCore l.core fun z => z.modBuf y.id fun y => { y with
          acq := y.acq - 1, free := y.free + 1 }) w))) ∧
    (s.Issues zero c w →
      let tags := x.v.has .i32 1 a && x.v.has .i32 1 b
      let range := count = 0 ∨ 96 < word.toNat + count.toNat
      (tags = false → s.Faults zero c w (.format w.m)) ∧ (tags = true → range → bad zero 18) ∧
      (tags = true → ¬range → s.Completes zero (s.dev.modCore k fun y =>
        (List.range count.toNat).foldl (fun y i => y.orderZero (word.toNat + i)) y) w))

/-- R23, R335, R342, R344, R345, R347: QNT, STATRD and STATRST check the index, then the record's access; QNT is an
outstanding load whose data is the quantised lanes and whose scale register is the record's scale, saturated elements a fault
or one update of OVFCNT by the record's policy; STATRD is an outstanding load of one word; STATRST resets the record at its
home. R334, R347: lanes that read one word of the pool read it together, whichever turn reads it, so that every lane receives the
same value. -/
def Obligations.StatisticsInstructions : Prop :=
  (∀ (s : State) (c : Ctl) (imm : Word) (w : Warp) (o : D2) (ws : Fin 32) (f : Fmt) (rnd : Rnd) (d : Dst) (a : Opnd)
    (word : Fin 64), s.Follows c w → s.Unsampled →
    let x := s.site c imm w
    let x0 := s.site c 0 w
    let k := s.dev.curCore
    let j := s.dev.curSlot
    let p := x.p
    let held : Bool := 63 ≤ w.st || w.releasing
    let full (i : Instr) : Prop := s.Releases i c w s.dev .cluster fun d => s.Holds i d .counter
    let record (i : Instr) (idx : Word) (at_ n : Nat) (acc : Access) (after : Nat → Dev → Loc → BitVec 10 → Prop) : Prop :=
      ((∀ z, s.dev.context w.ctx = some z → z.tsrIndexOk idx = false) →
        s.Faults i c w (.engineParam 32 p (idx.setWidth 64))) ∧
      ∀ z, s.dev.context w.ctx = some z → z.tsrIndexOk idx = true →
        let va := z.tsrVa idx + 4 * at_
        let place := s.dev.placeAt k j w .global va n true acc
        (∀ code, place = .error code → s.Fails i c w (.warpWide code p (BitVec.ofNat 64 va))) ∧
        (∀ e loc key, place = .ok (e, loc, key) → after va e loc key)
    let qnt := Instr.qnt c o ws imm f rnd
    let rd := Instr.statrd c d a word
    let rst := Instr.statrst c a imm
    (s.Issues qnt c w →
      (63 ≤ w.ld → s.Holds qnt s.dev .counter) ∧
      (w.ld < 63 → x.qntOk o f = false → s.Faults qnt c w (.format w.m)) ∧
      (w.ld < 63 → x.qntOk o f = true → record qnt (x.v.uniform o.b) 0 16 .read fun va e loc key =>
        let words := (List.range 16).map (Dev.locUp loc)
        (Dev.writeHeld w words = true → s.Holds qnt s.dev .atomic) ∧
        (Dev.writeHeld w words = false →
          let read := e.plainRead k j w va loc key 16
          let at_ (n : Nat) : Word := BitVec.ofNat 32 (leNat read.1 / 2 ^ (32 * n))
          let steps := scaleSteps (at_ 2) (at_ 1)
          let lanes := (lanesOf (Dst.lanes o.d p)).map fun l => (l, x.qntLane o f rnd steps l)
          let sats := lanes.foldl (fun n r => n + r.2.2) 0
          let done := x.startLoad read.2 { Site.blankLoad o.d f.tag 1 with
            lanes := lanes.map fun r => { lane := r.1, va := 0, l1 := false, bytes := (leBytes 4 r.2.1.toNat).map .held }
            also := some (ws, scaleCode steps) }
          (sats = 0 → s.Leaves qnt done) ∧
          (sats ≠ 0 → (at_ 1).getLsbD 0 = true → s.FaultsFrom qnt c w read.2 {
            code := Code.rescale, detail := x.v.uniform o.b
            lanes := (lanes.filter fun r => r.2.2 != 0).map fun r => { lane := r.1, cause := Code.rescale, addr := 0 } }) ∧
          (sats ≠ 0 → (at_ 1).getLsbD 0 = false → (held = true → full qnt) ∧
            (held = false → ∀ pa, loc = .phys pa → s.Leaves qnt (x.qntCount done pa key (at_ 0) sats)))))) ∧
    (s.Issues rd c w →
      (63 ≤ w.ld → s.Holds rd s.dev .counter) ∧
      (w.ld < 63 → x0.v.has .i32 1 a = false → s.Faults rd c w (.format w.m)) ∧
      (w.ld < 63 → x0.v.has .i32 1 a = true → record rd (x0.v.uniform a) word.val 4 .read fun va e loc key =>
        let ps : List Place := (lanesOf (Dst.lanes d p)).map fun l =>
          { lane := l, addr := BitVec.ofNat 64 va, loc := loc, key := key }
        s.Leaves rd (x0.startLoad e { Site.blankLoad d (if word.val = 2 ∨ word.val = 3 then .l32 else .i32) 1 with
          lanes := Site.laneLoads true 4 ps
          plain := true, fills := (ps.flatMap fun q => Site.sectorsOf q 4).eraseDups
          win := Site.windowsOf (ps.map fun q => (q.lane, q.addr, q.loc)) }))) ∧
    (s.Issues rst c w →
      (held = true → full rst) ∧
      (held = false → x.v.has .i32 1 a = false → s.Faults rst c w (.format w.m)) ∧
      (held = false → x.v.has .i32 1 a = true → record rst (x.v.uniform a) 0 256 .write fun _ e loc key => ∀ pa, loc = .phys pa →
        let bytes := (List.range 256).map (Dev.locUp loc)
        (Dev.writeHeld w bytes = true → s.Holds rst s.dev .atomic) ∧
        (Dev.writeHeld w bytes = false → s.Leaves rst
          ((((((e.capture k j bytes).drainFor bytes).tsrReset key pa).writtenBy (e.partOf w.ctx) e.regWrites.length).dropCopies k
            bytes).commit w.task))))) ∧
  (∀ (d : Dev) (k : CoreIx) (j : SlotIx) (i : Nat) (w : Warp) (p : PLoad) (va : Nat) (bytes : List ByteSrc),
    d.slot k j = some w → w.loads[i]? = some p → d.inPool w.ctx va = true →
    (∀ m ∈ p.lanes, m.va = va ∧ m.l1 = true ∧ m.bytes = bytes) →
    let one (e : Dev) : Prop := ∃ w' p' read, e.slot k j = some w' ∧ w'.loads[i]? = some p' ∧ ∀ m ∈ p'.lanes, m.bytes = read
    (∀ n, one (d.readLane k j i n)) ∧ (∀ ls, one (d.capture k j ls)) ∧ ∃ x, ∀ m ∈ p.lanes, d.laneNow k j w p.lanes m = x)

/-- R224, R278, R293, R303: COPY_ACCEPT takes the head of a copy queue into an engine context of its cluster: of the 48 heads the
first in turn that can be accepted, where a context is free and the command has its slot of a buffer, behind the earlier
reservations, or its buffer is gone (the error LOCAL_GONE); CB_RESERVE reserves the slot at TAIL for the head of a queue while
FREE is not zero; WINDOW_RING_RETRY asks a window ring for a slot again, once the earlier commands of the core to that ring have
theirs. -/
def Obligations.CommandsAccepted : Prop :=
  ∀ (s : State) (k : CoreIx) (cl : ClusterIx) (i : Nat) (c : CopyCmd) (rest : List CopyCmd),
    let d := s.dev
    let home := clusterOf k
    let gone := d.bufferGone c
    let first := (d.cluster home).nextCore
    let taken (c : CopyCmd) (e : Dev) : Prop :=
      (e.core k).copyQ = rest ∧ (e.cluster home).engine = (d.cluster home).engine ++ [c] ∧ e.mem = d.mem ∧
      (e.cluster home).nextCore.val = (coreInCluster k + 1) % 48
    (d.servedCore home ≠ some k → s.Moves (.copyAccept k) fun e => e = d) ∧
    ((d.core k).copyQ = c :: rest → d.servedCore home = some k →
      (d.engineRoom home c = true ∧ (gone = false → (c.buf = none ∨ c.slot ≠ none) ∧ d.reservedEarlier c = false) ∧
        ∀ m n : Fin 48, k = coreOf home (first + m) → n < m → d.acceptable (coreOf home (first + n)) = none) ∧
      (gone = true → ∀ p, c.place = some p → s.Moves (.copyAccept k) (taken
        { c with error := some (Reason.localGone, BitVec.ofNat 64 (p.addr + c.slotAt), c.kind.number) })) ∧
      (gone = false → c.out.qnt = false → ¬(c.kind = .gg ∧ c.out.ring = true) → s.Moves (.copyAccept k) (taken c))) ∧
    (∀ h : i < 48, (d.core (coreOf cl ⟨i, h⟩)).copyQ = c :: rest → ∀ p id b, c.place = some p → c.buf = some id → c.slot = none →
      ((d.core p.core).bufs.find? fun y => y.id == id) = some b →
      (b.free = 0 → s.Moves (.cbReserve cl i) fun e => e = d) ∧
      (b.free ≠ 0 → s.Moves (.cbReserve cl i) fun e =>
        (e.core (coreOf cl ⟨i, h⟩)).copyQ = { c with slot := some b.tail, slotAt := b.tail * Dev.slotBytes b } :: rest ∧
        ((e.core p.core).bufs.find? fun y => y.id == id) = some { b with
          free := b.free - 1, rsv := b.rsv + 1, tail := (b.tail + 1) % b.n, order := b.order ++ [(b.tail, false)] })) ∧
    ((d.cluster cl).engine[i]? = some c → c.kind = .gg → c.out.ring = true → c.ringSlot = none → d.cmdWaits c = false →
      c.error = none →
      let earlier := ((d.cluster cl).engine.takeWhile fun y => y.id != c.id).any fun y => y.kind == .gg && y.out.ring &&
        y.ringSlot.isNone && y.error.isNone && y.by_.core == c.by_.core && y.by_.ctx == c.by_.ctx && y.out.top == c.out.top
      let becomes (c : CopyCmd) (e : Dev) : Prop := (e.cluster cl).engine[i]? = some c
      (earlier = true → s.Moves (.windowRingRetry cl i) fun e => e = d) ∧
      (earlier = false →
        (∀ e slot, d.ringTake c = .ok (e, slot) → s.Moves (.windowRingRetry cl i) fun e' =>
          e' = e.modCmd cl c.id fun y => { y with ringSlot := slot }) ∧
        (∀ reason addr kind, d.ringTake c = .error (.fail reason addr kind) → s.Moves (.windowRingRetry cl i) fun e =>
          e.mem = d.mem ∧ becomes { c with error := some (reason, addr, kind.getD 0) } e) ∧
        (∀ va, d.ringTake c = .error (.wait va) → s.Moves (.windowRingRetry cl i) fun e =>
          e.mem = d.mem ∧ becomes { c with waiting := some (Dev.pageOf va) } e)))

/-- R285, R291, R292, R297: COPY_COMPLETION performs the rest of a ready command, its elements in any order, and ends it where
nothing stops it; a command that an error or a page that is not resident has stopped keeps its progress, and COPY_ERROR ends
one that has met an error, once the updates of what it has moved are sent. Neither takes effect while the scheduler's queue
grants no entry (R177). R291, R292, R301: a command that ends leaves its engine context, counts its warp's CPCNT down, and sends
its dependence counter one decrement, under an error with the error flag, when the region of its shadow is poisoned too. R297:
CPYM_DRAIN brings the tile of a multicast into the slot at the TAIL of a receiver's circular buffer while FREE is not zero, and
skips a receiver without a buffer that can take it; that receiver is then over. -/
def Obligations.CommandsPerformed : Prop :=
  (∀ (s : State) (cl : ClusterIx) (i : Nat) (order : List Nat) (c : CopyCmd), (s.dev.cluster cl).engine[i]? = some c →
    let d := s.dev
    let done := Instr.copyCompletion cl i order
    let failed := Instr.copyError cl i order
    let result := if c.kind = .multicast then d.multicastRead cl c order else d.perform c order
    let sent (d : Dev) (c : CopyCmd) := if c.tile.isSome then (d, c, none) else d.sendUpdates c
    let ends (d : Dev) (c : CopyCmd) (reason : Nat) (addr : DWord) (kind : Nat) : Prop := ∀ e c' stop, sent d c = (e, c', stop) →
      (∀ va, stop = some (.wait va) → s.Moves failed fun e' =>
        e' = e.stopped cl { c' with error := some (reason, addr, kind) } (some (.wait va))) ∧
      ((∀ va, stop ≠ some (.wait va)) → s.Moves failed fun e' => e' = e.cmdError cl c' reason addr kind)
    (Dev.grants (d.cluster cl) 3 0 = false → (s.Moves done fun e => e = d) ∧ s.Moves failed fun e => e = d) ∧
    (Dev.grants (d.cluster cl) 3 0 = true →
      (d.cmdReady c = false → s.Moves done fun e => e = d) ∧
      (c.error = none → d.cmdReady c = false → s.Moves failed fun e => e = d) ∧
      (d.cmdReady c = true →
        (∀ e c', result = (e, c', none) →
          (s.Moves done fun e' => e' = if c.kind = .multicast then e else e.cmdDone cl c') ∧ s.Moves failed fun e' => e' = d) ∧
        (∀ e c' stop, result = (e, c', some stop) → s.Moves done fun e' => e' = e.stopped cl c' (some stop)) ∧
        (∀ e c' va, result = (e, c', some (.wait va)) → s.Moves failed fun e' => e' = e.stopped cl c' (some (.wait va))) ∧
        (∀ e c' reason addr kind, result = (e, c', some (.fail reason addr kind)) →
          ends e c' reason addr (kind.getD c'.kind.number))) ∧
      (∀ reason addr kind, c.error = some (reason, addr, kind) → d.cmdWaits c = false → ends d c reason addr kind))) ∧
  (∀ (d : Dev) (cl : ClusterIx) (c y : CopyCmd) (i : Nat), (d.cluster cl).engine[i]? = some y →
    let at_ (stop : Option EngErr) := ((d.stopped cl c stop).cluster cl).engine[i]?
    (y.id ≠ c.id → ∀ stop, at_ stop = some y) ∧
    (y.id = c.id → at_ none = some c ∧ (∀ va, at_ (some (.wait va)) = some { c with waiting := some (Dev.pageOf va) }) ∧
      ∀ reason addr kind, at_ (some (.fail reason addr kind)) =
        some { c with error := some (reason, addr, kind.getD c.kind.number) })) ∧
  (∀ (d : Dev) (cl : ClusterIx) (c : CopyCmd) (w : Warp) (reason kind : Nat) (addr : DWord), c.packet = none → c.tile = none →
    d.trace = none → d.slot c.by_.core c.by_.slot = some w → w.task = c.by_.task → w.status ≠ .ended →
    reason ≠ Reason.violation →
    let ended (e : Dev) (err : Bool) : Prop :=
      (e.cluster cl).engine = (d.cluster cl).engine.filter (fun y => y.id != c.id) ∧
      (∃ w', e.slot c.by_.core c.by_.slot = some w' ∧ w'.cp = w.cp - 1 ∧ w'.pc = w.pc ∧ w'.m = w.m ∧ w'.v = w.v) ∧
      (∀ n i, c.dep = some (n, i) →
        (e.cluster n).decs = (d.cluster n).decs ++ [{ index := i, err := err, times := 1, by_ := none }]) ∧
      (c.dep = none → ∀ n, (e.cluster n).decs = (d.cluster n).decs)
    ended (d.cmdDone cl c) false ∧ ended (d.cmdError cl c reason addr kind) true ∧
    (∀ r x, c.shadow = some r → d.context c.by_.ctx = some x →
      ((d.cmdError cl c reason addr kind).context c.by_.ctx).any fun y => y.poison.contains r)) ∧
  (∀ (s : State) (cl : ClusterIx) (i : Nat) (c : CopyCmd) (r : Fin 48) (alloc slot : Option Nat) (bs : List Byte),
    (s.dev.drains cl)[i]? = some (c, r, alloc, slot) → s.dev.cmdWaits c = false → c.tile = some bs → s.dev.trace = none →
    let d := s.dev
    let k := coreOf cl r
    let off := (c.place.map fun (p : LocalRef) => p.off).getD 0
    let buf := alloc.bind fun a => d.bufferAt { core := k, alloc := a, off := off, addr := off }
    let ended (e : Dev) : Prop := ∀ y ∈ (e.cluster cl).engine, y.id = c.id → ∀ q ∈ y.receivers, q.1 ≠ r
    (Dev.grants (d.cluster cl) 3 0 = false → s.Moves (.cpymDrain cl i) fun e => e = d) ∧
    (Dev.grants (d.cluster cl) 3 0 = true →
      (slot = none → (∀ b, buf = some b → Dev.slotBytes b < bs.length) → s.Moves (.cpymDrain cl i) ended) ∧
      (∀ n, slot = some n → (∀ va, d.drainUpdate c bs ≠ .error (.wait va)) → s.Moves (.cpymDrain cl i) ended) ∧
      (∀ n b va, slot = some n → buf = some b → d.drainUpdate c bs = .error (.wait va) →
        s.Moves (.cpymDrain cl i) fun e => e = d.cmdWait cl c va) ∧
      (∀ b, slot = none → buf = some b → bs.length ≤ Dev.slotBytes b →
        (b.free = 0 → s.Moves (.cpymDrain cl i) fun e => e = d) ∧
        (b.free ≠ 0 → c.out.stat = false → s.Moves (.cpymDrain cl i) fun e => ended e ∧
          ∀ n (h : n < bs.length), e.readLoc (.bank k (b.start + b.tail * Dev.slotBytes b + n)) 0 = bs[n]))))

/-- R261, R300, R301: at the publish point of a clean region the selector of the region flips and no L1 holds a line of it; a
poisoned region keeps its selector and is clean again; either way the warp goes on. -/
def Obligations.PublishPoint : Prop :=
  ∀ (s : State) (k : CoreIx) (j : SlotIx) (w : Warp) (r : BitVec 12) (p : Mask) (x : Context), s.dev.slot k j = some w →
    w.wait = some (.publish r p) → w.status = .running → w.finish.isOver = false → s.dev.context w.ctx = some x → s.Unsampled →
    let d := s.dev
    let on (e : Dev) : Prop := ∃ w', e.slot k j = some w' ∧ w'.pc = w.finish.pc ∧ w'.m = w.finish.m ∧ w'.wait = none
    (x.poison.contains r = true → s.Moves (.publishPoint k j) fun e => on e ∧
      e.context w.ctx = some { x with poison := x.poison.filter (· != r) }) ∧
    (x.poison.contains r = false → d.regionProbe w.ctx r = none → s.Moves (.publishPoint k j) fun e => on e ∧
      (∃ y, e.context w.ctx = some y ∧ y.poison = x.poison ∧
        (y.flipped.contains r = !x.flipped.contains r) ∧
        ∀ r', r' ≠ r → y.flipped.contains r' = x.flipped.contains r') ∧
      ∀ k' l, l ∈ (e.core k').l1 → e.inRegion w.ctx r l = false)

/-- R309, R314, R315, R321, R323, R324, R438: MATRIX_OP_START moves the head of a matrix queue into the engine while none runs
and the clamp does not withhold it; its completion writes the tiles of the products, an error the NaN code into every element,
a table buffer that is gone before its last block has its set being one too, and either counts TLCNT down; TBLD writes its entry
where no block of the running operation still uses it and the engine does not wait for a table set; TABLE_PULL stages a filled slot. -/
def Obligations.MatrixSteps : Prop :=
  ∀ (s : State) (k : CoreIx) (by_ : Issuer) (w : Warp), s.dev.slot by_.core by_.slot = some w → w.task = by_.task →
    w.status ≠ .ended → s.dev.trace = none →
    let d := s.dev
    let c := d.core k
    let counted (e : Dev) : Prop := ∃ w', e.slot by_.core by_.slot = some w' ∧ w'.tl = w.tl - 1 ∧ w'.pc = w.pc ∧ w'.cp = w.cp
    (∀ id m r a b z t rest, c.running = none → c.matQ = .op id by_ m r a b z t :: rest →
      (s.board.holdMatrix = true → s.Moves (.matrixOpStart k) fun e => e = d) ∧
      (s.board.holdMatrix = false → s.Moves (.matrixOpStart k) fun e =>
        e.core k = { c with running := some (.op id by_ m r a b z t), started := 0, matQ := rest })) ∧
    (∀ id m r a b z t, c.running = some (.op id by_ m r a b z t) → d.opHeld k = false → c.zeros = [] →
      let failed (e : Dev) : Prop := (e.core k).running = none ∧ counted e ∧
        ∀ n < Mpb.tiles m * 2048, Sparse.get 0x40000000 (e.core k).tiles (Mpb.tile m * 2048 + n) = 0x60000000
      (∀ e rows cols, (Mpb.tmode m = 2 → Mpb.blocks m ≤ c.started) →
        d.readOperands k id by_.ctx m r a b z (Mpb.blocks m) = .ok (e, rows, cols) → s.Moves (.matrixOpCompletion k) fun e' =>
          (e'.core k).running = none ∧ counted e' ∧
          (e'.core k).tiles = Sparse.setList 0x40000000 (Mpb.tile m * 2048) (Dev.opTiles c m rows cols) c.tiles ∧
          (Mpb.tsrv m = true → ∀ i < Mpb.tiles m, Sparse.find? (e'.core k).drec (Mpb.tile m + i) = some (Mpb.tsr m))) ∧
      ((Mpb.tmode m = 2 ∧ c.started < Mpb.blocks m) ∨ (∃ reason addr kind,
          d.readOperands k id by_.ctx m r a b z (Mpb.blocks m) = .error (.fail reason addr kind)) →
        s.Moves (.matrixOpCompletion k) fun e => e = d) ∧
      (d.tableGone c = none → ∀ reason addr kind,
        d.readOperands k id by_.ctx m r a b z (Dev.blocksRead c m) = .error (.fail reason addr kind) →
        s.Moves (.matrixOpError k) failed) ∧
      (d.tableGone c ≠ none → s.Moves (.matrixOpError k) failed)) ∧
    (∀ id src y rest, c.matQ = .tbld id by_ src y :: rest →
      let held : Bool := (Dev.entriesDue c).contains y.val || d.pullWaits c
      (held = true → s.Moves (.tbldExecute k) fun e => e = d) ∧
      (held = false → ∀ va, Dev.placesOf k id .t 0 src 1024 d = .error (.wait va) →
        s.Moves (.tbldExecute k) fun e => e = d.request by_.ctx va) ∧
      (held = false → ∀ e bs, Dev.placesOf k id .t 0 src 1024 d = .ok (e, bs) → s.Moves (.tbldExecute k) fun e' =>
        (e'.core k).matQ = rest ∧ counted e' ∧ Sparse.getList 0 (e'.core k).tables (y.val * 1024) 1024 = bs)) ∧
    (∀ p id b, Dev.pullFor c = some (p, id) → ((d.core p.core).bufs.find? fun y => y.id == id) = some b →
      (b.filled = 0 → s.Moves (.tablePull k) fun e => e = d) ∧
      (b.filled ≠ 0 → s.Moves (.tablePull k) fun e =>
        (e.core k).staging = c.staging ++ [(List.range 1024).map fun i =>
          d.readLoc (.bank p.core (b.start + b.head * Dev.slotBytes b + i)) 0] ∧
        ((e.core p.core).bufs.find? fun y => y.id == id) = some { b with
          filled := b.filled - 1, free := b.free + 1, head := (b.head + 1) % b.n, acq := b.acq + 1 - 1 }))

/-- R334, R337: an update of a statistics record, all its additions and its MAXLOG in one step, adds to its words at the record's
home where the record still has the update's generation, and else changes nothing; the store that waited for it is then over. R338,
R341: it waits while bytes of its store are on their way through a port. That MAXLOG with a NaN has no value (log 36), and that an
update which meets a frame protected meanwhile ends its context (log 106), are the model's choices. -/
def Obligations.StatisticsUpdates : Prop :=
  ∀ (s : State) (i : Nat) (u : TsrSend), s.dev.tsrs[i]? = some u →
    let d := s.dev
    let word (d : Dev) (n : Nat) : Word := d.tsrWord u.key u.pa n
    let sum (n : Nat) : Nat := ((u.delta.adds.filter fun a => a.1 == n).map (·.2)).sum
    let rest := removeAt i d.tsrs
    (d.updateHeld u = true → s.Moves (.tsrUpdate i) fun e => e = d) ∧
    (u.by_ = none → word d 0 ≠ u.gen → s.Moves (.tsrUpdate i) fun e => e = { d with tsrs := rest }) ∧
    (u.by_ = none → word d 0 = u.gen → paKind u.pa = .dram → d.isProtected (u.pa / 0x10000) = true →
      ∀ x, d.context u.ctx = some x → s.Moves (.tsrUpdate i) fun e => e.context u.ctx = some { x with ended := true }) ∧
    (u.by_ = none → word d 0 = u.gen → paKind u.pa = .dram → d.isProtected (u.pa / 0x10000) = false → u.pa % 256 = 0 →
      (∀ a ∈ u.delta.adds, a.1 < 64 ∧ a.1 ≠ 7) →
      s.Moves (.tsrUpdate i) fun e => e.tsrs = rest ∧
        (∀ q < 64, q ≠ 2 → q ≠ 6 → q ≠ 7 → word e q = word d q + BitVec.ofNat 32 (sum q)) ∧
        word e 7 ++ word e 6 = (word d 7 ++ word d 6) + BitVec.ofNat 64 (sum 6) ∧
        let old := word d 2 + BitVec.ofNat 32 (sum 2)
        (u.delta.maxlog = none → word e 2 = old) ∧
        ∀ m, u.delta.maxlog = some m →
          (((Num.ofCode .l32 old.toNat).isNan || (Num.ofCode .l32 m.toNat).isNan) = false →
            word e 2 = TsrDelta.larger old m &&& 0x7FFFFFFF) ∧
          (((Num.ofCode .l32 old.toNat).isNan || (Num.ofCode .l32 m.toNat).isNan) = true → word e 2 = Config.freeWord d.draw)) ∧
    (∀ k j n w p, u.by_ = some (k, j, n) → d.updateHeld u = false → word d 0 ≠ u.gen → d.slot k j = some w → w.status ≠ .ended →
      s.Unsampled → w.stores = [p] → p.seq = n → p.lines = [] → p.flight = [] → p.red = [] → p.stat = none →
      s.Moves (.tsrUpdate i) fun e => e.slot k j = some { w with stores := [], st := w.st - 1 })

/-! ### Schedulers, paging, pre-emption -/

/-- R171, R173, R197, R239, Table 6.6a: decrements, those of one core or of one scheduler in the order sent, take a counter down to
zero, where its waiting tasks become ready or, under the error flag, those without ERRRUN complete unrun, and one below zero sets the
flag; arming a free counter clears the flag, and a
value above 65,535 saturates and sets it. -/
def Obligations.DependenceCounters : Prop :=
  ∀ (s : State) (cl : ClusterIx) (n : BitVec 12) (i : Nat) (err : Bool) (times : Nat) (by_ : Option Nat),
    let d := s.dev
    let x := d.dep cl n
    let follows := ∃ h, by_ = some h ∧ ∃ y ∈ (d.cluster cl).decs.take i, y.by_ = some h
    ((d.cluster cl).decs[i]? = some { index := n, err := err, times := times, by_ := by_ } →
      (follows → s.Moves (.dependenceDecrement cl i) fun e => e = d) ∧
      (¬follows → times < x.value.toNat → s.Moves (.dependenceDecrement cl i) fun e =>
        e.dep cl n = { x with value := x.value - BitVec.ofNat 16 times, err := x.err || (err && times ≠ 0) } ∧
        e.tasks = d.tasks ∧ (e.cluster cl).decs = removeAt i (d.cluster cl).decs) ∧
      (¬follows → 0 < times → x.value.toNat = times → s.Moves (.dependenceDecrement cl i) fun e =>
        let flag := x.err || err
        e.dep cl n = { value := 0, err := flag, waiters := [] } ∧
        (∀ t ∈ x.waiters, ∀ y ∈ e.tasks, y.id = t → y.inErr = flag ∧ y.readySince = d.clock ∧
          y.state = (if flag && !y.errrun then .completing else .readyToCapture)) ∧
        ∀ y ∈ d.tasks, y.id ∉ x.waiters → y ∈ e.tasks) ∧
      (¬follows → x.value.toNat < times → s.Moves (.dependenceDecrement cl i) fun e =>
        (e.dep cl n).value = 0 ∧ (e.dep cl n).err = true)) ∧
    (∀ k, let y := (d.depArm cl n k).dep cl n
      y.value.toNat = min (x.value.toNat + k) 65535 ∧ y.waiters = x.waiters ∧
      y.err = ((x.err && !(x.value == 0 && x.waiters.isEmpty)) || decide (65535 < x.value.toNat + k))) ∧
    (∀ t, (x.value = 0 → d.depWait cl n t = d.makeReady t x.err) ∧
      (x.value ≠ 0 → (d.depWait cl n t).dep cl n = { x with waiters := x.waiters ++ [t] } ∧
        ∀ y ∈ (d.depWait cl n t).tasks, y.id = t → y.state = .waiting))

/-- R161 to R166: TASK_PLACEMENT writes the bind record of the next warp of a task without launch bands, for the core named,
whose queue takes it while it has room, for a pipe of the core with a free slot while it has one (the model's choice, log 61); the
task is running, one warp further. Of a task with launch bands it starts the next band whole, its members on the cores named, one
core unless the task is a gang, held if it is one, where each core has their slots and takes the context and the band's allocation;
else nothing. R17, R161, R163: BIND_RECORD_DISPATCH starts
the warp of the head record in the lowest free slot of its pipe, in the state in which a warp starts; a malformed record is
discarded and reported to the cluster's fault queue, under a content that the manual does not give (log 114). -/
def Obligations.TaskStarts : Prop :=
  (∀ (s : State) (cl : ClusterIx) (t : Nat) (x : Task) (c : Fin 48) (e0 : Dev), s.dev.task? t = some x → s.dev.trace = none →
    let d := s.dev
    let k := coreOf cl c
    (x.home ≠ cl ∨ d.mayBind cl x.ctx = false ∨ (d.cluster cl).binds ≠ [] →
      s.Moves (.taskPlacement cl t [c]) fun e => e = d) ∧
    (x.home = cl → d.mayBind cl x.ctx = true → (d.cluster cl).binds = [] → (x.state = .ready ∨ x.state = .running) →
      x.bandsz = 0 → x.placed < x.warpCount → d.prepare x (.task t) k = some e0 →
      s.Moves (.taskPlacement cl t [c]) fun e => ∃ pipe,
        let r := Dev.bindRecord x x.placed pipe none false
        ((∃ q, e0.pipeFree k q ≠ 0) → e0.pipeFree k pipe ≠ 0) ∧
        ((d.core k).bindQ.length < 8 → (e.core k).bindQ = (d.core k).bindQ ++ [r] ∧ (e.cluster cl).binds = []) ∧
        (8 ≤ (d.core k).bindQ.length → (e.core k).bindQ = (d.core k).bindQ ∧ (e.cluster cl).binds = [(k, r)]) ∧
        e.task? t = some { x with placed := x.placed + 1, state := .running } ∧ (e.core k).ctxOwner = some x.ctx)) ∧
  (∀ (s : State) (cl : ClusterIx) (t : Nat) (x : Task) (cs : List (Fin 48)), s.dev.task? t = some x → s.dev.trace = none →
    let d := s.dev
    let ks := cs.map (coreOf cl)
    let place := Instr.taskPlacement cl t cs
    let unused (id : BitVec 8) : Prop := ∀ b ∈ (d.cluster cl).bands, b.id ≠ id
    let made (id : BitVec 8) : Option Dev :=
      ks.eraseDups.foldl (fun o k => o.bind fun e => e.prepare x (.band id) k) (some { d with draw := d.draw + 1 })
    x.home = cl → d.mayBind cl x.ctx = true → (d.cluster cl).binds = [] → (x.state = .ready ∨ x.state = .running) →
    x.bandsz ≠ 0 → x.placed < x.warpCount → ks.length = min x.bandsz (x.warpCount - x.placed) →
      let narrow := (x.gang = false ∧ ks.eraseDups.length ≠ 1) ∨ ∃ k ∈ ks, d.coreFree k < ks.count k
      (narrow ∨ (∀ id, ¬unused id) ∨ (∀ id, unused id → made id = none) → s.Moves place fun e => e = d) ∧
      (¬narrow → (∃ id, unused id) → (∀ id, unused id → (made id).isSome = true) → s.Moves place fun e =>
        ∃ (id : BitVec 8) (pipe : Nat → Fin 8), unused id ∧
          let record (m : Nat) : BitVec 128 := Dev.bindRecord x (x.placed + m) (pipe m) (some id) x.gang
          (e.cluster cl).bands = (d.cluster cl).bands ++ [{
            id := id, task := x.id, ctx := x.ctx, gang := x.gang, home := ks.headD 0, members := [], coming := ks, arrived := []
            joins := [], generation := 0 }] ∧
          e.task? t = some { x with placed := x.placed + ks.length, state := .running } ∧
          ∀ k, clusterOf k = cl → e.recordsTo k = (d.core k).bindQ ++
              (List.range ks.length).filterMap (fun m => if ks[m]? = some k then some (record m) else none) ∧
            (k ∈ ks → (e.core k).ctxOwner = some x.ctx ∧ (x.spbytes ≠ 0 → (e.allocOf k (.band id)).isSome = true)))) ∧
  (∀ (s : State) (k : CoreIx) (j : SlotIx) (r : BitVec 128) (rest : List (BitVec 128)),
    let d := s.dev
    let cl := clusterOf k
    let i := Instr.bindRecordDispatch k j
    (d.core k).bindQ = r :: rest →
      (Dev.recordBad r = true → s.Moves i fun e =>
        (∃ v, (∀ n : Fin 256, v[n.val] &&& ~~~Dev.reportMask n.val = 0) ∧
          let sent := Dev.putFault (d.cluster cl) (d.partOf (r.extractLsb' 96 12), v)
          (e.cluster cl).faultQ = sent.faultQ ∧ (e.cluster cl).faultHeld = sent.faultHeld) ∧
        ∀ k' j', e.slot k' j' = d.slot k' j') ∧
      (Dev.recordBad r = false → d.lowestFree k (fieldOf r 93 91) ≠ some j → s.Moves i fun e => e = d) ∧
      (∀ t x o, Dev.recordBad r = false → ((d.cluster cl).preempting.any fun p => p.1.toNat == fieldOf r 107 96) = false →
        d.lowestFree k (fieldOf r 93 91) = some j →
        (d.tasks.find? fun t => t.home == cl && t.handle.toNat == fieldOf r 127 112) = some t →
        d.context t.ctx = some x → (x.objs.find? fun o => o.id == t.codeobj) = some o → s.Moves i fun e =>
          ∃ w, e.slot k j = some w ∧ w.ctx = t.ctx ∧ w.task = t.id ∧ w.index = fieldOf r 79 64 ∧ w.prio.val = fieldOf r 90 89 ∧
            w.pc = BitVec.ofNat 64 (canon57 (va57 (o.base + t.entry))) ∧ w.hold = r.getLsbD 94 ∧
            w.band = (if r.getLsbD 88 then some (r.extractLsb' 80 8) else none) ∧
            w.m = (if w.index + 1 = t.warpCount ∧ t.tail ≠ 0 then BitVec.ofNat 32 (2 ^ t.tail - 1) else Mask.all) ∧
            w.x = 0 ∧ w.stack = [] ∧ (∀ q, w.vTag q = .undef) ∧ (∀ q l, w.vAt q l = 0) ∧
            pairOf (w.wAt 0) (w.wAt 1) = BitVec.ofNat 64 t.param ∧ w.wTag 0 = .i64 ∧ w.wTag 1 = .i64 ∧
            (∀ q : Fin 32, 2 ≤ q.val → w.wTag q = .undef) ∧ (∀ q : Fin 7, w.p[q.val] = 0) ∧
            w.ld = 0 ∧ w.st = 0 ∧ w.cp = 0 ∧ w.tl = 0 ∧ w.mode = 0 ∧ w.chain = none ∧ w.status = .running))

/-- R163 and R174: HOLD_RELEASE lets every held warp of a task run once no warp of its started bands is still to come, later bands
of the task notwithstanding, which is the model's reading (log 112); TASK_COMPLETION of a task whose warps are over writes its record,
sends its decrement, and removes it. -/
def Obligations.TaskEnds : Prop :=
  ∀ (s : State) (cl : ClusterIx) (x : Task), s.dev.task? x.id = some x → s.dev.trace = none →
    let d := s.dev
    let rel := Instr.holdRelease cl x.id
    let fin := Instr.taskCompletion cl x.id
    let coming := ∃ b ∈ (d.cluster cl).bands, b.task = x.id ∧ b.coming ≠ []
    let waits := x.waitVa ≠ 0 ∧ d.requested x.ctx x.waitVa = true
    (coming → s.Moves rel fun e => e = d) ∧
    (¬coming → x.home = cl → s.Moves rel fun e => ∀ k j w, d.slot k j = some w → ∃ w', e.slot k j = some w' ∧
      w'.hold = (if w.task = x.id then false else w.hold) ∧ w'.pc = w.pc ∧ w'.m = w.m) ∧
    (x.home ≠ cl ∨ Dev.taskOver x = false ∨ waits → s.Moves fin fun e => e = d) ∧
    (x.home = cl → Dev.taskOver x = true → ¬waits →
      (x.ctgt = 0 → s.Moves fin fun e => (∀ y ∈ e.tasks, y.id ≠ x.id) ∧ e.mem = d.mem ∧
        (x.cdep.getLsbD 15 = true → (e.cluster (Dev.depRef x.cdep).1).decs =
          (d.cluster (Dev.depRef x.cdep).1).decs ++
            [{ index := (Dev.depRef x.cdep).2, err := Dev.taskStatus x != 0, times := 1, by_ := some (384 + cl.val) }])) ∧
      (x.ctgt ≠ 0 → x.ctgt % 8 = 0 → ∀ r, d.translate x.ctx x.ctgt .write = .ok r → paKind r.pa = .dram →
        s.Moves fin fun e => (∀ y ∈ e.tasks, y.id ≠ x.id) ∧
          e.readBytes r.key r.pa 8 = leBytes 8 (x.cval % 2 ^ 32 + Dev.taskStatus x * 2 ^ 32)) ∧
      (d.translate x.ctx x.ctgt .write = .error Code.notres → x.ctgt ≠ 0 → x.ctgt % 8 = 0 →
        s.Moves fin fun e => ∃ y, e.task? x.id = some y ∧ y.waitVa = Dev.pageOf x.ctgt ∧ e.mem = d.mem))

/-- R177, R180 to R182: an idle cluster reserves five entries for each task and asks its next victim; the victim sends tasks
that it may donate, in the order of rank, each as a packet with its TCB image, the carriage word and its parameters, and its
reply, which copies the request's TAG; the packets arrive in the order sent (R239), each making its task ready at the thief with what
it carries, and the reply,
once the packets are in, releases the entries. A request that the victim's queue does not grant is answered with no task. -/
def Obligations.WorkDonation : Prop :=
  ∀ (s : State) (thief victim : ClusterIx) (want i : Nat) (ids : List Nat) (m : StealMsg) (rest : List StealMsg),
    let d := s.dev
    let c := d.cluster thief
    let ask := Instr.stealRequest thief victim want
    let allowed := d.clusterOn thief = true ∧ d.idle thief = true ∧ c.stealOut = none ∧ 0 < want ∧ want ≤ 4 ∧
      victim = d.nextVictim thief ∧ Dev.grantsAll c 1 (5 * want) = true
    (¬allowed → s.Moves ask fun e => e = d) ∧
    (allowed → s.Moves ask fun e => ∃ msg : StealMsg, msg.thief = thief ∧ msg.want = want ∧
      (e.cluster thief).stealOut = some msg ∧ (e.cluster thief).counts[1] = c.counts[1] + 5 * want ∧
      (e.cluster thief).stealNext.val = (c.stealNext.val + 1) % 7 ∧
      (Dev.grants (d.cluster victim) 2 0 = true → (e.cluster victim).stealIn = (d.cluster victim).stealIn ++ [msg]) ∧
      (Dev.grants (d.cluster victim) 2 0 = false → (e.cluster thief).replyIn = some (msg.tag, 0))) ∧
    ((d.cluster victim).stealIn = m :: rest →
      let ts := ids.filterMap d.task?
      let good := ts.length = ids.length ∧ ts.length ≤ m.want ∧ d.goodChoice victim m [] ts = true
      (¬good → s.Moves (.stealRequestReceive victim ids) fun e => e = d) ∧
      (good → s.Moves (.stealRequestReceive victim ids) fun e => (e.cluster victim).stealIn = rest ∧
        (e.cluster m.thief).replyIn = some (m.tag, ids.length) ∧
        (∀ n (h : n < ts.length), (e.cluster m.thief).packetsIn[(d.cluster m.thief).packetsIn.length + n]? = some {
          task := ts[n].id
          image := BitVec.ofNat 512 (ts[n].tcb.toNat % 2 ^ 448 +
            2 ^ 448 * (m.tag.toNat * 2 ^ 32 + n * 2 ^ 16 + victim.val * 2 ^ 12 + ts[n].ctx.toNat))
          param := d.rawBytes (Dev.paramPa ts[n].ctx ts[n].param) ((ts[n].paramlen + 63) / 64 * 64) }) ∧
        ∀ t ∈ ts, ∀ y ∈ e.tasks, y.id = t.id → y.state = .donated)) ∧
    (0 < i → s.Moves (.sorediumPacket thief i) fun e => e = d) ∧
    (∀ p left, c.packetsIn = p :: left → s.Moves (.sorediumPacket thief 0) fun e =>
      (e.cluster thief).packetsIn = left ∧
      (∀ t, d.task? p.task = some t → e.mem = Sparse.setList (0 : Byte) (Dev.paramPa t.ctx t.param) p.param d.mem) ∧
      ∀ y ∈ e.tasks, y.id = p.task → y.home = thief ∧ y.state = .ready ∧ y.readySince = d.clock ∧
        y.tcb = BitVec.ofNat 512 (p.image.toNat % 2 ^ 448)) ∧
    (∀ n, c.replyIn = some n →
      (c.packetsIn ≠ [] → s.Moves (.stealReply thief) fun e => e = d) ∧
      (c.packetsIn = [] → s.Moves (.stealReply thief) fun e => (e.cluster thief).stealOut = none ∧
        (e.cluster thief).replyIn = none ∧ (e.cluster thief).counts[1] = 0 ∧ e.tasks = d.tasks))

/-- R248, R361, R368: PAGE_RESIDENT makes the page of a request resident where its entry is valid and well-formed; every wait
on it then ends: the request is gone, an aborted task is ready again, and a parked warp that needs no other page goes on at
its instruction, one that pre-emption has saved too. -/
def Obligations.PageRequests : Prop :=
  ∀ (s : State) (i : Nat),
    let d := s.dev
    (i ≥ d.requests.length → s.Moves (.pageResident i) fun e => e = d) ∧
    (∀ r, d.requests[i]? = some r → d.context r.ctx = none →
      s.Moves (.pageResident i) fun e => e = { d with requests := removeAt i d.requests }) ∧
    (∀ r x, d.requests[i]? = some r → d.context r.ctx = some x → d.submissions = [] → (d.cores.map (·.1)).Nodup →
      (∀ y ∈ d.warps, y.2.2.wait = some .resident → y.2.2.m ≠ 0 ∧
        ∀ v, y.2.2.nested.or y.2.2.record = some v → Dev.recordComplete v = false) →
      s.Moves (.pageResident i) fun e =>
        (∀ y, y ∈ e.requests ↔ y ∈ d.requests ∧ ¬(y.ctx = r.ctx ∧ y.va = r.va)) ∧
        (∀ a n, r.pages = [] → d.walkPte x r.va = some n → d.pteAddr x r.va = some a → d.isProtected (a / 0x10000) = false →
          e.rawNat a 8 = (if pteRes n then n else n + 2) ∧ ∀ pa, pa < a ∨ a + 8 ≤ pa → e.rawByte pa = d.rawByte pa) ∧
        (∀ t ∈ d.tasks, t.ctx = r.ctx → t.waitVa = r.va → t.state = .aborted →
          { t with state := .ready, waitVa := 0, readySince := d.clock } ∈ e.tasks) ∧
        (∀ t ∈ d.tasks, t.ctx ≠ r.ctx ∨ t.waitVa ≠ r.va → t ∈ e.tasks) ∧
        (∀ k j w v, d.slot k j = some w → w.ctx = r.ctx → w.wait = some .resident → w.nested = none → w.record = some v →
          Dev.recordPages v = [r.va] → ∃ w', e.slot k j = some w' ∧ w'.status = .running ∧ w'.wait = none ∧ w'.record = none ∧
            w'.pc = w.pc ∧ w'.m = w.m ∧ w'.v = w.v) ∧
        (∀ k j w, d.slot k j = some w → w.ctx ≠ r.ctx ∨ w.wait ≠ some .resident → ∃ w', e.slot k j = some w' ∧
          { w' with monitor := w.monitor, alarm := w.alarm } = w)) ∧
    (∀ r x, d.requests[i]? = some r → d.context r.ctx = some x → d.submissions = [] →
      let left : Dev := { d with requests := d.requests.filter fun y => !(y.ctx == r.ctx && y.va == r.va) }
      s.Moves (.pageResident i) fun e =>
        e.saved = (d.mapSaved fun _ _ w => if left.resumesAt r.ctx r.va w then Dev.resumeParked w 0 else w).saved)

/-- R368, R369, R415: FAULT_RECORD_DELIVERY writes the head of a cluster's fault queue into the next entry of its partition's
ring while the ring has room, a record that its sender holds takes its place where the pool grants it an entry (R177), and the
parked warp that sent it is forwarded; an answer of the host to a forwarded warp, one that pre-emption has saved too, resumes it,
skips the lanes of HSKIP at its instruction, or kills it; every other answer is discarded. -/
def Obligations.FaultRecords : Prop :=
  ∀ (s : State) (cl : ClusterIx) (f : FnIx) (who : AnswerTo) (hskip : Mask),
    let d := s.dev
    let deliver := Instr.faultRecordDelivery cl
    let resume := Instr.fanswerResume f who
    let skip := Instr.fanswerSkip f who hskip
    let kill := Instr.fanswerKill f who
    ((d.cluster cl).faultQ = [] → s.Moves deliver fun e => e = d) ∧
    (∀ g r rest, (d.cluster cl).faultQ = (g, r) :: rest → r[5].toNat / 2 ^ 8 % 2 ^ 8 ≠ 0 →
      let base := (d.fn g).fltbase.toNat
      let logn := (d.fn g).fltctl.toNat
      let write := d.rawNat base 8
      let full := 2 ^ logn ≤ (write + 2 ^ 64 - d.rawNat (base + 8) 8) % 2 ^ 64
      let entry := base + 1024 + 1024 * (write % 2 ^ logn)
      (logn < 2 ∨ 12 < logn ∨ (∃ p, portOf base = some p ∧ (d.port p).up = false) → s.Moves deliver fun e => e = d) ∧
      (2 ≤ logn → logn ≤ 12 → portOf base = none → full → s.Moves deliver fun e => e = d) ∧
      (2 ≤ logn → logn ≤ 12 → portOf base = none → ¬full → d.isProtected (base / 0x10000) = false →
        d.isProtected (entry / 0x10000) = false → s.Moves deliver fun e =>
        ((d.cluster cl).faultHeld = [] → (e.cluster cl).faultQ = rest ∧ (e.cluster cl).faultHeld = []) ∧
        (∀ h hs, (d.cluster cl).faultHeld = h :: hs →
          let granted := Dev.grants { d.cluster cl with faultQ := rest } 4 0 = true
          (granted → (e.cluster cl).faultQ = rest ++ [h] ∧ (e.cluster cl).faultHeld = hs) ∧
          (¬granted → (e.cluster cl).faultQ = rest ∧ (e.cluster cl).faultHeld = h :: hs)) ∧
        e.rawNat base 8 = (write + 1) % 2 ^ 64 ∧
        e.rawBytes entry 1024 = (r.toList.flatMap fun x => leBytes 4 x.toNat) ∧
        (∀ pa, (pa < base ∨ base + 8 ≤ pa) → (pa < entry ∨ entry + 1024 ≤ pa) → e.rawByte pa = d.rawByte pa) ∧
        (∀ k j w, d.slot k j = some w → w.status = .parked → w.wait ≠ some .resident → w.nested.or w.record = some r →
          ∃ w', e.slot k j = some w' ∧ w'.status = .forwarded ∧ w'.pc = w.pc ∧ w'.m = w.m) ∧
        ∀ k j w, d.slot k j = some w → w.status ≠ .parked → ∃ w', e.slot k j = some w' ∧
          { w' with monitor := w.monitor, alarm := w.alarm } = w)) ∧
    ((d.port 0).up = false ∨ (d.answered f who = none ∧ ∀ y ∈ d.saved, ∀ z ∈ y.cores, ∀ q ∈ z.warps,
        d.answers f who z.core q.1 q.2 = false) → ∀ i ∈ [resume, skip, kill], s.Moves i fun e => e = d) ∧
    ((d.port 0).up = true → d.answered f who = none →
      let saved (m : Mask) : Dev := d.mapSaved fun k j w => if d.answers f who k j w then Dev.resumeParked w m else w
      (s.Moves resume fun e => e = saved 0) ∧ (s.Moves skip fun e => e = saved hskip) ∧
      s.Moves kill fun e => ∀ y ∈ d.saved, ∀ z ∈ y.cores, ∀ q ∈ z.warps, d.answers f who z.core q.1 q.2 = true →
        ∀ t ∈ e.tasks, t.id = q.2.task → t.killed = true) ∧
    ((d.port 0).up = true → ∀ k j w, d.answered f who = some (k, j) → d.slot k j = some w →
      let others (e : Dev) : Prop := ∀ k' j', (k', j') ≠ (k, j) → e.slot k' j' = d.slot k' j'
      (∀ r, w.nested = none → w.record = some r →
        let back : Warp := { w with record := none, status := .running }
        (Dev.recordComplete r = false → w.m ≠ 0 →
          (s.Moves resume fun e => e.slot k j = some { back with wait := none, skip := 0 } ∧ others e) ∧
          s.Moves skip fun e => e.slot k j = some { back with wait := none, skip := hskip } ∧ others e) ∧
        (Dev.recordComplete r = true → back.finish.isOver = false →
          (s.Moves resume fun e => e.slot k j = some back.finish ∧ others e) ∧
          s.Moves skip fun e => e.slot k j = some back.finish ∧ others e)) ∧
      (w.band = none → s.Moves kill fun e => (∀ w', e.slot k j = some w' → w'.status = .ended) ∧
        ∀ t ∈ e.tasks, t.id = w.task → t.killed = true))

/-- R373 to R377: PREEMPT_CONTEXT signals every warp of the context on the cluster, and saves them, at a later turn, once each
stands where it may stop and the engines have settled; RESTORE_CONTEXT brings the warps back to the slots and bank space that they
left once these are free, which is the model's choice (log 64); PREEMPT_TIMEOUT ends the context once the time allowed has passed. -/
def Obligations.Preemption : Prop :=
  ∀ (s : State) (cl : ClusterIx) (c : CtxIx) (x : Context), s.dev.context c = some x →
    let d := s.dev
    let save := Instr.preemptContext cl c
    let back := Instr.restoreContext cl c
    let late := Instr.preemptTimeout cl c
    let asked : Prop := ∃ p ∈ (d.cluster cl).preempting, p.1 = c
    let kept (y : Saved) : Prop := y.cluster = cl ∧ y.ctx = c
    let stopped : Prop := ∀ y ∈ d.warpsOf cl c, d.mayStop y.1 y.2.2 = true
    (x.ended = true ∨ (∃ y ∈ d.saved, kept y) → s.Moves save fun e => e = d) ∧
    (x.ended = false → (∀ y ∈ d.saved, ¬kept y) → ¬asked → s.Moves save fun e =>
      (e.cluster cl).preempting = (d.cluster cl).preempting ++ [(c, d.clock)] ∧
      ∀ k j w, clusterOf k = cl → e.slot k j = some w → w.ctx = c → w.preempt = true) ∧
    (x.ended = false → (∀ y ∈ d.saved, ¬kept y) → asked → ¬stopped ∨ d.settledEngines cl c = false →
      s.Moves save fun e => e = d) ∧
    (x.ended = false → (∀ y ∈ d.saved, ¬kept y) → asked → stopped → d.settledEngines cl c = true →
      (∀ k, clusterOf k = cl → d.dirtyLines k (fun l => l.ctx == c) = []) → Dev.storesHome (d.warpsOf cl c) = true →
      s.Moves save fun e => ∃ y, e.saved = d.saved ++ [y] ∧ kept y ∧
        (∀ k j w, clusterOf k = cl → d.slot k j = some w → w.ctx = c →
          e.slot k j = none ∧ ∃ z ∈ y.cores, z.core = k ∧ (j, d.savedWarp k w) ∈ z.warps) ∧
        (∀ k j, (clusterOf k ≠ cl ∨ ∀ w, d.slot k j = some w → w.ctx ≠ c) → e.slot k j = d.slot k j) ∧
        (∀ p ∈ (e.cluster cl).preempting, p.1 ≠ c) ∧ e.mem = d.mem) ∧
    ((∀ y ∈ d.saved, ¬kept y) → s.Moves back fun e => e = d) ∧
    (∀ y, (d.saved.find? fun s => s.cluster == cl && s.ctx == c) = some y →
      (y.cores.all (d.roomFor c) = false → s.Moves back fun e => e = d) ∧
      (y.cores.all (d.roomFor c) = true → (y.cores.map (·.core)).Nodup → (∀ z ∈ y.cores, (z.warps.map (·.1)).Nodup) →
        (∀ z ∈ y.cores, ∀ q ∈ z.warps, q.2.stores = [] ∧ q.2.isOver = false) →
        s.Moves back fun e => (∀ z ∈ y.cores, ∀ j w, (j, w) ∈ z.warps →
            e.slot z.core j = some { w with nextIssue := d.clock, readyAt := none }) ∧
          (∀ k j, (∀ z ∈ y.cores, z.core = k → ∀ w, (j, w) ∉ z.warps) →
            (∀ w, d.slot k j = some w → clusterOf k ≠ cl ∨ w.ctx ≠ c) → e.slot k j = d.slot k j) ∧
          e.saved = (d.saved.filter fun s => !(s.cluster == cl && s.ctx == c)) ∧ (d.warpsOf cl c = [] → e.mem = d.mem))) ∧
    (¬asked → s.Moves late fun e => e = d) ∧
    (∀ p, ((d.cluster cl).preempting.find? fun p => p.1 == c) = some p →
      (d.clock < p.2 + Dev.ptimeout x → s.Moves late fun e => e = d) ∧
      (p.2 + Dev.ptimeout x ≤ d.clock → s.Moves late fun e => (e.context c = some { x with ended := true }) ∧
        ∀ k j w, e.slot k j = some w → w.ctx ≠ c))

/-- R237, R382 to R384: SAFE_POINT_HALT halts a warp before its safe point issues, where a cause of Table 17.1 holds, and
writes the halt record and the live registers into the context's debug area, or loses them where that lies behind a port that is down
(R407; the image's form and place, and what a lost record leaves, are the model's choice, log 66); ECC_ERROR reports the address of an
uncorrectable error to the host and ends the context that owns the data. The form of that notice (log 69) and who owns an address and
which ring hears of it (log 70) are the model's choices. -/
def Obligations.HaltsAndErrors : Prop :=
  ∀ (s : State) (k : CoreIx) (j : SlotIx) (w : Warp) (pa : Nat),
    let d := s.dev
    let halt := Instr.safePointHalt k j
    let ecc := Instr.eccError pa
    (d.slot k j = none → s.Moves halt fun e => e = d) ∧
    (d.slot k j = some w → d.atSafePoint k w = false ∨ d.haltCause w = none → s.Moves halt fun e => e = d) ∧
    (∀ cause x, d.slot k j = some w → d.atSafePoint k w = true → d.haltCause w = some cause → d.context w.ctx = some x →
      let m := d.liveAt w.ctx w.pc.toNat
      let halted (w' : Warp) (at_ : Option (Nat × List Byte)) : Prop :=
        { w' with monitor := w.monitor, alarm := w.alarm } = { w with
          status := .halted, haltPend := false, stepPend := false, haltAt := at_, wait := none }
      (d.isProtected (x.dbgarea / 0x10000) = false → d.isProtected (x.dbgarea / 0x10000 + 1) = false →
        (∀ n < 0x10000, portOf (x.dbgarea + n) = none) →
        s.Moves halt fun e => ∃ a w' t, e.slot k j = some w' ∧ halted w' (some (a, haltImage w m t)) ∧
          e.rawBytes a (64 + imageBytes m) = d.haltRecord k j w cause ++ haltImage w m t ∧
          (∃ n, a = x.dbgarea + 64 * n) ∧ a + 64 + imageBytes m ≤ x.dbgarea + 0x10000 ∧
          ∀ q, q < a ∨ a + 64 + imageBytes m ≤ q → e.rawByte q = d.rawByte q) ∧
      ((∀ n < 0x10000, ∃ p, portOf (x.dbgarea + n) = some p ∧ (d.port p).up = false) →
        s.Moves halt fun e => (∃ w', e.slot k j = some w' ∧ halted w' none) ∧ e.mem = d.mem)) ∧
    (d.owners pa = [] → s.Moves ecc fun e => e.mem = d.mem ∧ e.cores = d.cores ∧
      let sent := Dev.putFault (d.cluster 0) (0, Dev.notice Code.ecc pa)
      (e.cluster 0).faultQ = sent.faultQ ∧ (e.cluster 0).faultHeld = sent.faultHeld) ∧
    (∀ c x, d.owners pa = [c] → d.context c = some x → s.Moves ecc fun e => e.context c = some { x with ended := true } ∧
      (∀ k' j' v, e.slot k' j' = some v → v.ctx ≠ c) ∧
      (d.partOf c, Dev.notice Code.ecc pa) ∈ (e.cluster 0).faultQ ++ (e.cluster 0).faultHeld)

/-! ### The host -/

/-- R159, R411 to R414: a packet that its scheduler cannot consume changes nothing; a consumed one moves HEAD on by one; NOCTX
writes no record and ENDED one, with no other effect; LAUNCH submits its control block, SIGNAL acts once no earlier packet of
the ring is left, WAIT holds the ring until its word is reached, and WAIT_POLL looks at the word again. -/
def Obligations.RingCommands : Prop :=
  ∀ (s : State) (q : RingIx) (h : PktHdr) (a b : DWord),
    let d := s.dev
    let n := (d.ring q).head.toNat
    let passed := d.modRing q fun r => { r with head := r.head + 1 }
    let queued (w : RingWork) : Dev := passed.modRing q fun r => { r with cmds := r.cmds ++ [{ n := n, hdr := h, work := w }] }
    let ended (status : Nat) (e : Dev) : Prop := e = passed.writeCaddr h status false
    let alone := (d.ring q).cmds = []
    let behind := ∃ c rest, (d.ring q).cmds = c :: rest ∧ ∀ x y z, c.work ≠ .signal x y z
    let packet (i : Instr) (cmd : ClusterIx → Prop) : Prop :=
      (d.consumer q h.barrier = none → s.Moves i fun e => e = d) ∧
      (∀ cl, d.consumer q h.barrier = some cl →
        (d.ownContext q.fn h.ctx = none → s.Moves i fun e => e = passed) ∧
        (∀ x, d.ownContext q.fn h.ctx = some x → x.ended = true → s.Moves i (ended PktStatus.ended)) ∧
        (∀ x, d.ownContext q.fn h.ctx = some x → x.ended = false → cmd cl))
    let launch := Instr.launch q h a
    let signal (add : Bool) : Prop :=
      let i := if add then Instr.signalAdd q h a b else .signalWrite q h a b
      packet i fun _ =>
        let at_ := passed.translate h.ctx a.toNat .write
        (a.toNat % 8 ≠ 0 → s.Moves i (ended PktStatus.badpkt)) ∧
        (a.toNat % 8 = 0 → behind → s.Moves i fun e => e = queued (.signal a b add)) ∧
        (a.toNat % 8 = 0 → alone → ∀ code, at_ = .error code → s.Moves i (ended PktStatus.badpkt)) ∧
        (a.toNat % 8 = 0 → alone → ∀ t, at_ = .ok t →
          (∀ p, portOf t.pa = some p → (d.port p).up = false → s.Moves i (ended PktStatus.link)) ∧
          (portOf t.pa = none →
            let old := if add then leNat (passed.readBytes t.key t.pa 8) else 0
            s.Moves i fun e => e = ((passed.writeBytes t.key t.pa (leBytes 8 ((old + b.toNat) % 2 ^ 64))).writtenBy
              (d.partOf h.ctx) d.regWrites.length).writeCaddr h PktStatus.ok false))
    let wait (i : Instr) (eq : Bool) : Prop :=
      packet i fun _ =>
        let at_ := passed.translate h.ctx a.toNat .read
        (a.toNat % 8 ≠ 0 → s.Moves i (ended PktStatus.badpkt)) ∧
        (a.toNat % 8 = 0 → ∀ code, at_ = .error code → s.Moves i (ended PktStatus.badpkt)) ∧
        (a.toNat % 8 = 0 → ∀ t, at_ = .ok t → portOf t.pa = none →
          let x := leNat (passed.readBytes t.key t.pa 8)
          let reached := if eq then x = b.toNat else b.toNat ≤ x
          (reached → s.Moves i (ended PktStatus.ok)) ∧
          (¬reached → alone ∨ behind → s.Moves i fun e => e = queued (.wait a b eq)))
    packet launch (fun cl =>
      (a.toNat % 64 ≠ 0 ∨ canonical a.toNat = false → s.Moves launch (ended PktStatus.badpkt)) ∧
      (a.toNat % 64 = 0 → canonical a.toNat = true → alone → s.Moves launch fun e =>
        e = (queued .launch).runSubmission { ctx := h.ctx, va := a.toNat, cluster := cl, by_ := none, packet := some (q, n) })) ∧
    signal false ∧ signal true ∧ wait (.waitGe q h a b) false ∧ wait (.waitEq q h a b) true ∧
    ((d.ring q).cmds = [] → s.Moves (.waitPoll q) fun e => e = d) ∧
    (∀ m x, (d.ring q).cmds = [{ n := m, hdr := h, work := .wait a b false }] → d.ownContext q.fn h.ctx = some x →
      x.ended = false → a.toNat % 8 = 0 → ∀ t, d.translate h.ctx a.toNat .read = .ok t → portOf t.pa = none →
        let y := leNat (d.readBytes t.key t.pa 8)
        (y < b.toNat → s.Moves (.waitPoll q) fun e => e = d) ∧
        (b.toNat ≤ y → s.Moves (.waitPoll q) fun e =>
          e = (d.modRing q fun r => { r with cmds := [] }).writeCaddr h PktStatus.ok false))

/-- R247, R278, R349, R386, R389, R413: TRACE_START begins the one capture with its start record, TRACE_STOP closes it and
completes once its STOP record is at home; STAT_MERGE enters the engines of its cluster; MAP and UNMAP PAGES invalidate what the
TLBs and the instruction caches hold of the range, over once the accesses issued before are at home. The model's choices are these:
BUSY for a second TRACE_START and the checks of the ring (log 75), what a TRACE_STOP without a capture of its own does (log 57), that a
STAT_MERGE waits at HEAD while the engines are full (log 93), and that every access issued before is waited for (log 78). -/
def Obligations.CapturesAndPages : Prop :=
  ∀ (s : State) (q : RingIx) (h : PktHdr) (a cats : DWord) (bytes src dst : Word) (k j : Byte) (cl : ClusterIx) (x : Context),
    s.dev.consumer q h.barrier = some cl → s.dev.ownContext q.fn h.ctx = some x → x.ended = false →
    let d := s.dev
    let n := (d.ring q).head.toNat
    let passed := d.modRing q fun r => { r with head := r.head + 1 }
    let ended (status : Nat) (e : Dev) : Prop := e = passed.writeCaddr h status false
    let calm := ∀ c rest, (d.ring q).cmds = c :: rest → ∀ x y z, c.work ≠ .signal x y z
    let start := Instr.traceStart q h a bytes k j cats
    let size := bytes.toNat
    let bad := size < 4096 ∨ size ≠ 2 ^ size.log2 ∨ k.toNat < 4 ∨ 20 < k.toNat ∨ j.toNat < 8 ∨ 20 < j.toNat ∨
      passed.ringWritable h.ctx a.toNat size = false
    let capture : Trace := {
      ctx := h.ctx, base := a, bytes := size, k := k.toNat, j := j.toNat, cats := cats, written := 0, shown := 0, dropped := 0
      queue := [], closed := false, stopPut := false }
    let stop := Instr.traceStop q h
    let merge := Instr.statMerge q h src dst
    let port := fieldOf dst 22 20
    let refused := x.tsrIndexOk src = false ∨ fieldOf dst 31 23 ≠ 0 ∨ 5 < port ∨ (port ≠ 0 ∧ x.peerpool port = 0) ∨
      (port = 0 ∧ x.tsrIndexOk (dst &&& 0xFFFFF) = false)
    let pages (i : Instr) (count : Word) : Prop :=
      let hit (t : TlbEntry) : Bool := t.ctx == h.ctx && Dev.tlbCovers t a.toNat count.toNat
      let old := (passed.tlbDrop hit).dropLines fun l => l.ctx == h.ctx && Dev.inSpan a.toNat count.toNat l.va
      let e : Dev := { old with walks := old.walks.map fun (w : Walk) => if w.ctx = h.ctx then { w with got := [] } else w }
      (∀ t, hit t = true → t ∉ e.tlb ∧ (∀ y, t ∉ (e.core y).tlb) ∧ ∀ y, t ∉ (e.cluster y).tlb) ∧
      (Dev.spanOk a count = false → s.Moves i (ended PktStatus.badpkt)) ∧
      (Dev.spanOk a count = true → e.accessesHome h.ctx d.seq = true →
        s.Moves i fun e' => e' = (e.resolveRange h.ctx a.toNat count.toNat).writeCaddr h PktStatus.ok false) ∧
      (Dev.spanOk a count = true → e.accessesHome h.ctx d.seq = false → calm →
        s.Moves i fun e' => e' = e.modRing q fun r => { r with
          cmds := r.cmds ++ [{ n := n, hdr := h, work := .pages a.toNat count.toNat d.seq }] })
    (bad → s.Moves start (ended PktStatus.badpkt)) ∧
    (¬bad → d.trace ≠ none → s.Moves start (ended PktStatus.busy)) ∧
    (¬bad → d.trace = none → s.Moves start fun e =>
      e = ({ passed with trace := some capture }.emit 0xFF 0xFF 0xFF 0 [(10, cats.setWidth 128)]).writeCaddr h PktStatus.ok
        false) ∧
    (d.trace = none → s.Moves stop (ended PktStatus.ok)) ∧
    (∀ t, d.trace = some t → t.closed = true → s.Moves stop (ended PktStatus.ok)) ∧
    (∀ t, d.trace = some t → t.closed = false →
      let e := { passed with trace := some { t with closed := true } }.traceOn
      (∀ y, e.trace = some y → y.closed = true) ∧
      s.Moves stop fun e' => e' = (e.modRing q fun r => { r with
        cmds := r.cmds ++ [{ n := n, hdr := h, work := .home none }] }).settleHome.runSignals q (e.ring q).cmds.length.succ) ∧
    (d.mergeRoom q = false → s.Moves merge fun e => e = d) ∧
    (d.mergeRoom q = true → refused → s.Moves merge (ended PktStatus.badpkt)) ∧
    (d.mergeRoom q = true → ¬refused → calm → s.Moves merge fun e =>
      (e.cluster cl).engine = (d.cluster cl).engine ++ [{
        CopyCmd.blank .merge { core := coreOf cl 0, slot := 0, ctx := h.ctx, task := d.nextId } with
        id := d.nextId, merge := (src, dst), packet := some (q, n) }] ∧
      (e.ring q).cmds = (d.ring q).cmds ++ [{ n := n, hdr := h, work := .statMerge }] ∧ e.mem = d.mem) ∧
    pages (.mapPages q h a bytes) bytes ∧ pages (.unmapPages q h a bytes) bytes

/-- R40, R135, R405, R413, R418 to R420, R443: MAP EXEC scans the pages of a range one after another and records each executable, or
logs why not; UNMAP EXEC takes the executable bit from the frames of a range in which no warp stands, and their lines from every
instruction cache; MAP CODE checks an object in the order of R420 and then loads it; UNMAP CODE removes an object that no live task
runs. That objects of class 2 and 3 are recorded unscanned (log 73), and that MAP EXEC of a frame that is no local memory is BADPKT
(log 77), are the model's choices. -/
def Obligations.CodePackets : Prop :=
  ∀ (s : State) (q : RingIx) (h : PktHdr) (a : DWord) (count codeId : Word) (asked : Bool) (cl : ClusterIx) (x : Context),
    s.dev.consumer q h.barrier = some cl → s.dev.ownContext q.fn h.ctx = some x → x.ended = false →
    let d := s.dev
    let passed := d.modRing q fun r => { r with head := r.head + 1 }
    let ended (status : Nat) (e : Dev) : Prop := e = passed.writeCaddr h status false
    let map_ := Instr.mapExec q h a count codeId asked
    let pages := Dev.pagesOf a.toNat count.toNat
    let obj := x.objs.find? fun o => o.id == codeId && o.cls ≤ 1
    let opts : ScanOpts := match obj with
      | some o => { cls := o.cls, live := some o.live, digest := none }
      | none => { cls := 0, live := none, digest := none }
    let unmap := Instr.unmapExec q h a count
    let frames := (Dev.pagesOf a.toNat count.toNat).filterMap (d.frameAt h.ctx x)
    let code := Instr.mapCode q h a codeId asked
    let read := passed.behindVa h.ctx a.toNat
    let answers (status : Nat) (e : Dev) : Prop := e = read.writeCaddr h status false
    let remove := Instr.unmapCode q h codeId
    let running := ∃ t ∈ d.tasks, t.ctx = h.ctx ∧ t.codeobj = codeId ∧ Dev.liveTask t = true
    let scans (r r' : Dev × Bool) (va : Nat) : Prop :=
      (r.1.scanPlace h.ctx va = none → r' = (r.1, false)) ∧
      ∀ t, r.1.scanPlace h.ctx va = some t →
        let page := r.1.readBytes t.key t.pa 0x10000
        (∀ f, scanPage opts none page = .error f → r' = (r.1.logScan x codeId f va, false)) ∧
        (∀ m, scanPage opts none page = .ok m → ∃ p : ExecPage,
          r' = (r.1.putExec p, r.2) ∧ p.frame = t.pa / 0x10000 ∧ p.ctx = h.ctx ∧ p.va = va57 va ∧
          p.codeId = codeId ∧ p.objLoaded = obj.isSome ∧
          (∀ o, obj = some o → p.cls = o.cls ∧ p.base = va57 o.base ∧ p.interlocked = r.1.runsInterlocked asked o.target) ∧
          (obj = none → p.cls = 0 ∧ p.base = va57 a.toNat ∧ p.interlocked = true))
    let bad := Dev.spanOk a count = false ∨ ∃ va ∈ pages, passed.scanPlace h.ctx va = none
    (bad → s.Moves map_ (ended PktStatus.badpkt)) ∧
    (¬bad → s.Moves map_ fun e => ∃ rs : List (Dev × Bool), rs.length = pages.length + 1 ∧ rs[0]? = some (passed, true) ∧
      (∀ n r r' va, rs[n]? = some r → rs[n + 1]? = some r' → pages[n]? = some va → scans r r' va) ∧
      ∃ r, rs[pages.length]? = some r ∧ e = r.1.writeCaddr h (if r.2 then PktStatus.ok else PktStatus.scan) false) ∧
    (Dev.spanOk a count = false → s.Moves unmap (ended PktStatus.badpkt)) ∧
    (Dev.spanOk a count = true → d.pcInSpan h.ctx a.toNat count.toNat = true → s.Moves unmap (ended PktStatus.busy)) ∧
    (Dev.spanOk a count = true → d.pcInSpan h.ctx a.toNat count.toNat = false → s.Moves unmap fun e =>
      e.exec = (d.exec.filter fun p => !frames.contains p.frame) ∧
      ∀ k, ∀ l ∈ (e.core k).icache, frames.contains l.frame = false ∧
        (l.ctx = h.ctx → Dev.inSpan a.toNat count.toNat l.va = false)) ∧
    (a.toNat % 0x10000 ≠ 0 ∨ canonical a.toNat = false → s.Moves code (ended PktStatus.badpkt)) ∧
    (∀ status, a.toNat % 0x10000 = 0 → canonical a.toNat = true → read.context h.ctx = some x →
      read.objectBytes h.ctx a.toNat 0 128 = .error status → s.Moves code (answers status)) ∧
    (∀ bs, a.toNat % 0x10000 = 0 → canonical a.toNat = true → read.context h.ctx = some x →
      read.objectBytes h.ctx a.toNat 0 128 = .ok bs →
      let hdr : ObjHeader := ⟨bs⟩
      let cls := hdr.cls
      let fuse := ((s.board.fuses[cls - 1]?).getD 0).val
      (hdr.wellFormed = false → s.Moves code (answers PktStatus.badpkt)) ∧
      (hdr.wellFormed = true → cls ≠ 0 → q.fn ≠ 0 → s.Moves code (answers PktStatus.perm)) ∧
      (hdr.wellFormed = true → cls = 0 ∨ q.fn = 0 →
        (∀ status, read.objectImage h.ctx a.toNat hdr = .error status → s.Moves code (answers status)) ∧
        (∀ o, read.objectImage h.ctx a.toNat hdr = .ok o →
          let old := cls ≠ 0 ∧ hdr.svn < fuse
          let signed := (cls ≠ 0 ∨ x.sigreq = true) →
            o.sig ≠ [] ∧ Config.signaturesVerify (max cls 1) o.man o.sig = true
          let used := ∃ y ∈ x.objs, y.id = codeId
          (old → s.Moves code (answers PktStatus.svn)) ∧
          (¬old → o.digestsMatch = false → s.Moves code (answers PktStatus.sig)) ∧
          (¬old → o.digestsMatch = true → ¬signed → s.Moves code (answers PktStatus.sig)) ∧
          (¬old → o.digestsMatch = true → signed → used → s.Moves code (answers PktStatus.busy)) ∧
          (¬old → o.digestsMatch = true → signed → ¬used →
            let scan := if 2 ≤ cls then (read, PktStatus.ok) else read.scanObject h.ctx x codeId asked a.toNat o
            (scan.2 ≠ PktStatus.ok → s.Moves code fun e => e = scan.1.writeCaddr h scan.2 false) ∧
            (scan.2 = PktStatus.ok → s.Moves code fun e =>
              e = (scan.1.loadObject h.ctx codeId a.toNat o).writeCaddr h PktStatus.ok false))))) ∧
    (running → s.Moves remove (ended PktStatus.busy)) ∧
    (¬running → s.Moves remove fun e => e.context h.ctx = some { x with objs := x.objs.filter fun o => o.id != codeId })

/-- R241, R372, R407 to R409, R412, R413, R419: the PF-only packets: no effect for a VF, and no record at the physical address that it
names (log 76); MAP and UNMAP KEY load a key slot (BADPKT where R421 keeps the firmware from its bytes is the model's choice,
log 117), MAP CONTEXT reads a descriptor and the breakpoint table that it names (that a context mapped again keeps its objects, and
starts with its regions clean and unflipped, is the model's choice, log 74), UNMAP CONTEXT ends a context and frees its number, MAP FUSE blows fuses up to a target that a
loaded object of the class covers, and never one back. -/
def Obligations.PrivilegedPackets : Prop :=
  ∀ (s : State) (q : RingIx) (h : PktHdr) (n : BitVec 16) (a : DWord) (cls target : Byte) (cl : ClusterIx),
    s.dev.consumer q h.barrier = some cl →
    let d := s.dev
    let passed := d.modRing q fun r => { r with head := r.head + 1 }
    let ended (status : Nat) (e : Dev) : Prop := e = passed.writeCaddr h status true
    let map_ := Instr.mapKey q h n a
    let unmap := Instr.unmapKey q h n
    let ctx := Instr.mapContext q h n a
    let free := Instr.unmapContext q h n
    let fuse := Instr.mapFuse q h cls target
    let c : CtxIx := n.setWidth 12
    let keyed (m : BitVec 512) (e : Dev) : Prop :=
      e = { passed with keys := Sparse.set 0 n.toNat m d.keys }.writeCaddr h PktStatus.ok true
    let x : Context := {
      desc := BitVec.ofNat 2048 (d.rawNat a.toNat 256), flipped := [], poison := [], stale := []
      objs := ((d.context c).map Context.objs).getD [], bps := [], ended := false }
    let placed := n.toNat < 4096 ∧ a.toNat % 256 = 0 ∧ paKind a.toNat = .dram
    let live := ∃ t ∈ d.tasks, t.ctx = c ∧ Dev.liveTask t = true
    let away := x.bpcount ≠ 0 ∧ ∃ p, portOf x.bptab = some p ∧ (d.port p).up = false
    let noEntry (e : Dev) : Prop := (∀ t ∈ e.tlb, t.ctx ≠ c) ∧ (∀ k, ∀ t ∈ (e.core k).tlb, t.ctx ≠ c) ∧
      ∀ y, ∀ t ∈ (e.cluster y).tlb, t.ctx ≠ c
    let blown (board : Board) (status : Nat) : Prop := s.board.on = true →
      exec fuse s = .next { s with board := board, dev := passed.writeCaddr h status true }
    (q.fn ≠ 0 → (∀ i ∈ [map_, unmap, ctx, free], s.Moves i fun e => e = passed) ∧
      (s.board.on = true → exec fuse s = .next { s with dev := passed })) ∧
    (q.fn = 0 →
      (1024 ≤ n.toNat → s.Moves map_ (ended PktStatus.badpkt) ∧ s.Moves unmap (ended PktStatus.badpkt)) ∧
      (n.toNat < 1024 → s.Moves unmap (keyed 0)) ∧
      (n.toNat < 1024 → Dev.physOk a.toNat 64 = false ∨ d.fwSent a.toNat 64 = false →
        s.Moves map_ (ended PktStatus.badpkt)) ∧
      (n.toNat < 1024 → Dev.physOk a.toNat 64 = true → d.fwSent a.toNat 64 = true →
        (∀ p, portOf a.toNat = some p → (d.port p).up = false → s.Moves map_ (ended PktStatus.link)) ∧
        (portOf a.toNat = none → s.Moves map_ (keyed (BitVec.ofNat 512 (leNat (d.rawBytes a.toNat 64)))))) ∧
      (¬placed ∨ x.wellFormed = false → s.Moves ctx (ended PktStatus.badpkt)) ∧
      (placed → x.wellFormed = true → live → s.Moves ctx (ended PktStatus.busy)) ∧
      (placed → x.wellFormed = true → ¬live → away → s.Moves ctx (ended PktStatus.link)) ∧
      (placed → x.wellFormed = true → ¬live → ¬away → s.Moves ctx fun e =>
        (∃ y, e.context c = some y ∧ { y with bps := [] } = x) ∧ noEntry e ∧
        ∀ c', c' ≠ c → e.context c' = d.context c') ∧
      (4096 ≤ n.toNat → s.Moves free (ended PktStatus.badpkt)) ∧
      (n.toNat < 4096 → d.context c = none → s.Moves free (ended PktStatus.ok)) ∧
      (n.toNat < 4096 → d.context c ≠ none → s.Moves free fun e =>
        e.context c = none ∧ (∀ k j w, e.slot k j = some w → w.ctx ≠ c) ∧ (∀ t ∈ e.tasks, t.ctx ≠ c) ∧
        noEntry e ∧ ∀ c', c' ≠ c → e.context c' = d.context c') ∧
      (cls.toNat < 1 ∨ 3 < cls.toNat → blown s.board PktStatus.badpkt) ∧
      (∀ i : Fin 3, cls.toNat = i.val + 1 →
        let covered := ∃ y ∈ d.contexts, ∃ o ∈ y.2.objs, o.cls = cls.toNat ∧ target.toNat ≤ o.svn
        let may := s.board.fuses[i.val].val ≤ target.toNat ∧ covered
        (64 < target.toNat ∨ ¬may → blown s.board PktStatus.perm) ∧
        (∀ t : Fin 65, t.val = target.toNat → may →
          blown { s.board with fuses := s.board.fuses.set i.val t } PktStatus.ok)))

/-- R381, R383, R385, R392, R408, R411, R415, R421, R438: what the host's writes to the register pages do, where port 0 is up:
a ring's registers under their locks, fault rings and answers, BPSYNC, HALT, RESUME and STEP over the warps in scope, the PTP
clock, and the power limit and the firmware lock, which only the PF may write. -/
def Obligations.RegisterPages : Prop :=
  ∀ (s : State) (q : RingIx) (f : FnIx) (tail v : Word) (x : DWord) (z : DebugScope),
    let d := s.dev
    let up := (d.port 0).up = true
    let ring (off : Nat) : Instr := .registerWrite q.fn (32 * q.ring.val + off) x
    let r := d.ring q
    let set (r' : Ring) (e : Dev) : Prop := e = d.modRing q fun _ => r'
    let halt := Instr.dbgctlHalt f z
    let pending (w : Warp) : Warp := { Dev.markHaltPend w with haltPend := true }
    let sleeps (w : Warp) : Bool := match w.wait with
      | some (.sleep _ _) | some (.waitmon _ _) => true
      | _ => false
    let go (step : Bool) : Instr := if step then .dbgctlStep f z else .dbgctlResume f z
    let bp := Instr.dbgctlBpsync f z
    let ofs := Instr.ptpofsWrite f x
    let rate := Instr.ptprateWrite f v
    let flt (off : Nat) : Instr := .registerWrite 0 off x
    let answer := (d.fn f).fanswer
    let answered := Instr.registerWrite f 0x208 x
    let watts := v.toNat % 2 ^ 16
    let limit : BitVec 16 := if watts < 600 then 600 else if 1800 < watts then 1800 else BitVec.ofNat 16 watts
    (¬up → ∀ i ∈ [Instr.ringDoorbell q tail, .registerWrite f (x.toNat % 4096) x, halt, go true, go false, bp, ofs, rate,
        .pwrlimWrite f v, .fwlockWrite f v], s.Moves i fun e => e = d) ∧
    (up →
      s.Moves (.ringDoorbell q tail) (set { r with tail := tail }) ∧
      s.Moves (ring 0) (set (if r.enable then r else { r with base := x })) ∧
      s.Moves (ring 8) (set (if fieldOf x 4 0 < 6 ∨ 16 < fieldOf x 4 0 ∨ fieldOf x 7 5 ≠ 0 ∨ fieldOf x 31 9 ≠ 0 then r
        else { r with logn := if r.enable then r.logn else x.setWidth 5, enable := x.getLsbD 8 })) ∧
      s.Moves (ring 16) (set { r with tail := loWord x }) ∧ s.Moves (ring 24) (set r) ∧
      s.Moves (flt 0x230) (fun e => e = if x.toNat % 4096 = 0 then d.modFn 0 (fun g => { g with fltbase := x }) else d) ∧
      s.Moves (flt 0x238) (fun e => e = if fieldOf x 31 4 = 0 ∧ 2 ≤ fieldOf x 3 0 ∧ fieldOf x 3 0 ≤ 12
        then d.modFn 0 (fun g => { g with fltctl := loWord x }) else d) ∧
      s.Moves (.registerWrite f 0x200 x) (fun e => e = d.modFn f fun g => { g with fanswer := x }) ∧
      (fieldOf answer 57 56 = 0 → s.Moves answered fun e => e = d.answerGo f (Dev.answerTo answer) 0) ∧
      (fieldOf answer 57 56 = 1 → s.Moves answered fun e => e = d.answerGo f (Dev.answerTo answer) (loWord x)) ∧
      (fieldOf answer 57 56 = 2 → s.Moves answered fun e => e = d.answerKill f (Dev.answerTo answer)) ∧
      (fieldOf answer 57 56 = 3 → s.Moves answered fun e => e = d) ∧
      ((∀ y ∈ d.warps, sleeps y.2.2 = false) → s.Moves halt fun e => ∀ k j w, d.slot k j = some w →
        (d.inScope f z w = false ∨ w.status = .halted → e.slot k j = some w) ∧
        (d.inScope f z w = true → w.status ≠ .halted → e.slot k j = some (pending w))) ∧
      (∀ k j w, d.slot k j = some w → (d.warps.filter fun y => sleeps y.2.2) = [(k, j, w)] → d.inScope f z w = true →
        w.status ≠ .halted → (pending w).finish.isOver = false →
        s.Moves halt fun e => ∃ w', e.slot k j = some w' ∧ { w' with monitor := w.monitor, alarm := w.alarm } =
          { (pending w).finish with monitor := w.monitor, alarm := w.alarm }) ∧
      (∀ step, s.Moves (go step) fun e => ∀ k j w, d.slot k j = some w →
        (d.inScope f z w = false ∨ w.status ≠ .halted → ∃ w', e.slot k j = some w' ∧
          { w' with monitor := w.monitor, alarm := w.alarm } = w) ∧
        (d.inScope f z w = true → w.status = .halted → ∃ w', e.slot k j = some w' ∧ w'.status = .running ∧
          w'.pass = true ∧ w'.stepPend = step ∧ w'.haltAt = none ∧ w'.pc = w.pc ∧ w'.m = w.m ∧ w'.stack = w.stack)) ∧
      (∀ c, d.context z.ctx = some c →
        (d.partOf z.ctx ≠ f ∨ (c.bpcount ≠ 0 ∧ ∃ p, portOf c.bptab = some p ∧ (d.port p).up = false) →
          s.Moves bp fun e => e = d) ∧
        (d.partOf z.ctx = f → portOf c.bptab = none → s.Moves bp fun e => e = d.putContext z.ctx { c with
          bps := (List.range (min c.bpcount 64)).map fun i => BitVec.ofNat 64 (d.rawNat (c.bptab + 8 * i) 8) })) ∧
      (f ≠ 0 → ∀ i ∈ [ofs, rate, .pwrlimWrite f v, .fwlockWrite f v], s.Moves i fun e => e = d) ∧
      (f = 0 →
        (0 ≤ x.toInt → s.Moves ofs fun e => e = { d with ptp := (d.ptp + x.toNat * 2 ^ 32) % 2 ^ 96 }) ∧
        (x.toInt < 0 → s.Moves ofs fun e => e = { d with ptpDue := d.ptpDue + (-x.toInt).toNat * 2 ^ 32 }) ∧
        (-500000 ≤ v.toInt ∧ v.toInt ≤ 500000 → s.Moves rate fun e => e = { d with ptpRate := v.toInt }) ∧
        s.Moves (.pwrlimWrite f v) (fun e => e = { d with pwrlim := limit, hostLim := limit }) ∧
        s.Moves (.fwlockWrite f v) fun e => e = if v = 1 then { d with fwlock := true } else d))

/-- R402 to R408, R441, R442, Tables 19.1 and 19.2: an inbound read answers the bytes at its places, a posted write and an
AtomicOp change them, under the key of each place, each whole or not at all; a write to a register page is its function's write there,
a VF's to a PF-only register having no effect (the other registers of 0x200 to 0x220 are not stated here); a request outside its aperture is answered UR, and one that would write a
protected frame is dropped with a notice to the host; a port that is down answers nothing; a zero-length read returns once the
posted writes before it are at home. That a request which is too long or misaligned changes nothing is the model's choice (log 79),
and so is the form of the notice (log 69). -/
def Obligations.InboundRequests : Prop :=
  ∀ (s : State) (path : InPath) (off n : Nat) (data : List Byte) (wide : Bool) (op : InAtomic) (port : PortIx),
    s.board.on = true →
    let d := s.dev
    let answers (i : Instr) (e : Dev) (r : Reply) : Prop := exec i s = .next { s with dev := e, replies := r :: s.replies }
    let read := Instr.inboundRead path off n
    let write := Instr.inboundWrite path off data
    let atom := Instr.inboundAtomic path off wide op
    let w := if wide then 8 else 4
    let fault (pa : Nat) : Dev := d.sendNotice (Dev.inFn path) Code.violation pa
    let p := d.port port
    (d.inOk path off n 4096 = false → s.Moves read fun e => e = d) ∧
    (d.inOk path off n 4096 = true →
      (∀ ps, d.inPlaces path off n .read = .ok ps → answers read d (.data (ps.map fun x => d.readPa x.2 x.1))) ∧
      (∀ r, d.inPlaces path off n .read = .error r → answers read d .ur)) ∧
    (d.inOk path off data.length 512 = false → s.Moves write fun e => e = d) ∧
    (d.inOk path off data.length 512 = true →
      (d.inPlaces path off data.length .write = .error .refused → s.Moves write fun e => e = d) ∧
      (∀ pa, d.inPlaces path off data.length .write = .error (.guarded pa) → s.Moves write fun e => e = fault pa) ∧
      (∀ ps, d.inPlaces path off data.length .write = .ok ps → (ps.map (·.1)).Nodup → (∀ x ∈ ps, paKind x.1 ≠ .regs) →
        (∀ x ∈ ps, ∀ y ∈ ps, x.1 / 128 = y.1 / 128 → x.2 = y.2) → s.Moves write fun e =>
          (∀ (m pa : Nat) (key : BitVec 10) (b : Byte), ps[m]? = some (pa, key) → data[m]? = some b → e.readPa key pa = b) ∧
          ∀ pa key, paKind pa ≠ .regs → (∀ x ∈ ps, x.1 ≠ pa ∧ (x.1 / 128 = pa / 128 → x.2 = key)) →
            e.readPa key pa = d.readPa key pa) ∧
      (∀ ps g start width old, d.inPlaces path off data.length .write = .ok ps → d.regSpan g start = some (start, width, old) →
        data.length = width →
        ps.map (·.1) = (List.range width).map (fun m => 0xFF0000000000 + 0x100000 + 0x10000 * g.val + start + m) →
        (start < 0x200 → s.Moves write fun e =>
          e = d.putRegister (Dev.inFn path) g start (BitVec.ofNat 64 (leNat data))) ∧
        (0x228 ≤ start → Dev.inFn path ≠ 0 → s.Moves write fun e => e = d))) ∧
    (d.inOk path off w 8 = false ∨ off % w ≠ 0 → s.Moves atom fun e => e = d) ∧
    (d.inOk path off w 8 = true → off % w = 0 →
      (d.inPlaces path off w .write = .error .refused → answers atom d .ur) ∧
      (∀ pa, d.inPlaces path off w .write = .error (.guarded pa) → answers atom (fault pa) .abort) ∧
      (∀ pa key ps, d.inPlaces path off w .write = .ok ((pa, key) :: ps) → paKind pa = .regs → answers atom d .ur) ∧
      (∀ pa key ps, d.inPlaces path off w .write = .ok ((pa, key) :: ps) → paKind pa ≠ .regs →
        let old := d.readBytes key pa w
        answers atom (d.writeBytes key pa (leBytes w (Dev.inResult w op (leNat old)))) (.data old))) ∧
    (p.up = false → s.Moves (.configRequest port) fun e => e = d) ∧
    (p.up = true → answers (.configRequest port) d .ok) ∧
    (p.zreads = [] → s.Moves (.zeroLengthReadCompletion port) fun e => e = d) ∧
    (∀ m who rest, p.zreads = (m, who) :: rest → (∀ q, (d.ring q).cmds = []) →
      s.Moves (.zeroLengthReadCompletion port) fun e =>
        e.port port = { p with posted := p.posted.drop m, zreads := rest.map fun y => (y.1 - m, y.2) } ∧
        ∀ pa, (∀ y ∈ p.posted.take m, ∀ b ∈ y.bytes, b.1 ≠ pa ∧ paKind b.1 ≠ .dram) → e.rawByte pa = d.rawByte pa)

/-- R304, R402, R407, R419, R422, R438, R439, R441, R442: PORT_UP and PORT_DOWN; COLD_RESET leaves the machine of R441, or what the
steps before the failing one have made of it, with that step's code; JUNCTION_TRIP leaves a die without power; the fuses and the
memories outside the module stay. A module in bring-up answers retry at port 0. The clamp withholds the matrix engines first and the
vector pipes next; its stages and what a sample at the limit does are the model's reading (log 83), and so is the counter of draws
that a reset keeps (log 89). A firmware watchdog completes what a ring has consumed with FWRESET; that of the management core completes
so a packet that the core has under way, or leaves it. -/
def Obligations.PortsAndResets : Prop :=
  ∀ (s : State) (port : PortIx) (fails : Option (Fin 7)) (trained : BitVec 6) (watts celsius : Nat) (cl : ClusterIx),
    let d := s.dev
    let b := s.board
    let low := min d.pwrlim.toNat 1800
    let hot := low < watts ∨ 105 ≤ celsius
    let clamp := Instr.powerClampSample watts celsius
    let reset := Instr.coldReset fails trained
    let links (up : BitVec 6) : Vector Port 6 := Vector.ofFn fun p => { Port.reset with up := up.getLsbD p.val }
    let outside := d.mem.filter fun x => isWindow x.1
    let fresh (up : BitVec 6) : Dev := { Dev.reset with mem := outside, ports := links up, draw := d.draw }
    let begun : Board := { b with power := true, stage := 0, failure := 0, holdMatrix := false, holdVector := false }
    (b.power = true → exec (.portUp port) s = .next { s with dev := d.modPort port fun x => { x with up := true } }) ∧
    (b.power = false → exec (.portUp port) s = .next s) ∧
    (b.on = false → exec (.portDown port) s = .next { s with dev := d.modPort port fun x => { x with up := false } }) ∧
    (s.Moves (.portDown port) fun e => (e.port port).up = false ∧ (e.port port).posted = [] ∧ (e.port port).zreads = [] ∧
      ∀ p, p ≠ port → (e.port p).up = (d.port p).up) ∧
    ((d.port port).posted = [] → s.Moves (.portDown port) fun e => ∀ k j w, d.slot k j = some w → w.status = .running →
      (∃ l ∈ w.loads, ∃ x ∈ l.win, x.1 = port) → ((d.task? w.task).any fun t => !t.faulted) = true →
      (∀ t ∈ e.tasks, t.id = w.task → t.faulted = true) ∧ ∀ v, e.slot k j = some v → v.status = .ended) ∧
    (fails = none ∨ fails = some 5 → exec reset s = .next { s with dev := fresh trained, board := { begun with stage := 8 } }) ∧
    (∀ n : Fin 7, fails = some n → n.val ≠ 5 →
      let stopped : Board := { begun with stage := ⟨n.val, by omega⟩, failure := BitVec.ofNat 8 (n.val + 1) }
      (n.val < 5 → exec reset s = .next { s with dev := { d with ports := links trained }, board := stopped }) ∧
      (n.val = 6 → exec reset s = .next { s with dev := { fresh trained with errata := d.errata }, board := stopped })) ∧
    exec .junctionTrip s = .next { s with dev := fresh 0, board := { begun with power := false } } ∧
    (b.answers = false → (d.port port).up = true → exec (.configRequest port) s = .next { s with
      replies := (if port = 0 ∧ b.failure = 0 then Reply.retry else Reply.ur) :: s.replies }) ∧
    (b.on = true →
      (hot → exec clamp s = .next { s with board := { b with holdMatrix := true, holdVector := b.holdMatrix } }) ∧
      (¬hot → watts < low → exec clamp s = .next { s with board := { b with holdMatrix := false, holdVector := false } }) ∧
      (¬hot → watts = low → exec clamp s = .next s)) ∧
    ((∀ q, (d.ring q).enable = false) → s.Moves (.firmwareWatchdogReset 8) fun e => e = { d with draw := d.draw + 288 }) ∧
    (∀ q h n a, (∀ q', q' ≠ q → (d.ring q').enable = false) →
      (d.headPacket q).bind Packet.cmd = some (.mapKey q h n a) → d.consumer q h.barrier ≠ none →
      portOf (d.ring q).base.toNat = none → q.fn = 0 → s.Moves (.firmwareWatchdogReset 8) fun e => ∃ first last,
        let d : Dev := { d with draw := first }
        e = { d with draw := last } ∨
        e = { (d.modRing q fun r => { r with head := r.head + 1 }).writeCaddr h PktStatus.fwreset true with draw := last }) ∧
    s.Moves (.firmwareWatchdogReset ⟨cl.val, by omega⟩) (fun e => ∀ q,
      (d.ringCluster q = some cl → (e.ring q).cmds = []) ∧ (e.ring q).head = (d.ring q).head) ∧
    ∀ q h m a v, d.ringCluster q = some cl → (d.ring q).cmds = [{ n := m, hdr := h, work := .wait a v false }] →
      (∀ q', q' ≠ q → d.ringCluster q' = some cl → (d.ring q').cmds = []) →
      s.Moves (.firmwareWatchdogReset ⟨cl.val, by omega⟩) fun e =>
        e = ({ d with draw := d.draw + 1 }.modRing q fun r => { r with cmds := [] }).writeCaddr h PktStatus.fwreset false

/-- R391, R393, R394: COUNTER_PAGE_REFRESH raises SEQ by one, to write the page's entries and then SEQ's second rise, the clocks
and the counts that have no free part among them, or writes some more of them in that order (the pieces of a refresh and their order
are the model's choice, log 71); COUNTER_GROUP_ROTATION goes on to
the next groups; PC_SAMPLE moves to the slot after the next warp that has not ended, where a capture of its category runs. -/
def Obligations.CounterPages : Prop :=
  ∀ (s : State) (f : FnIx) (k : CoreIx),
    let d := s.dev
    let g := d.fn f
    let entry (e : Dev) (i : Nat) : DWord := Sparse.get 0 (e.fn f).page i
    let due (e : Dev) (i : Nat) (x : DWord) : Prop := (i, x) ∈ (e.fn f).refresh.dropLast
    let others (e : Dev) : Prop := (e.fn f).rings = g.rings ∧ (∀ h, h ≠ f → e.fn h = d.fn h) ∧ e.mem = d.mem ∧ e.cores = d.cores
    let sampling := ∃ t, d.trace = some t ∧ t.cats.getLsbD 6 = true
    let order := (List.range 64).map fun i => ((d.core k).pcSlot + i) % 64
    let busy (n : Nat) : Prop := ∃ j : SlotIx, j.val = n ∧ ∃ w, d.slot k j = some w ∧ w.status ≠ .ended
    (g.refresh = [] → s.Moves (.counterPageRefresh f) fun e => others e ∧ entry e 0 = entry d 0 + 1 ∧
      (∀ i ≠ 0, entry e i = entry d i) ∧ (e.fn f).refresh.getLast? = some (0, entry d 0 + 2) ∧
      (e.fn f).refresh.map (·.1) = ((List.range 511).map (· + 1)) ++ [0] ∧
      due e 1 (BitVec.ofNat 64 d.clock) ∧ due e 2 (BitVec.ofNat 64 d.ptpNs) ∧
      (∀ i, i = 3 ∨ i = 4 ∨ (10 ≤ i ∧ i < 16) → due e i (Sparse.get 0 g.counts i)) ∧ ∀ i, 16 ≤ i → i < 64 → due e i 0) ∧
    (g.refresh ≠ [] → s.Moves (.counterPageRefresh f) fun e => others e ∧ ∃ n, 0 < n ∧ (e.fn f).refresh = g.refresh.drop n ∧
      (e.fn f).page = (g.refresh.take n).foldl (fun m x => Sparse.set 0 x.1 x.2 m) g.page) ∧
    (s.Moves .counterGroupRotation fun e => e.rotation = d.rotation + 1 ∧ e.clock = d.clock ∧
      ∀ g, (e.fn g).page = (d.fn g).page) ∧
    (¬sampling → s.Moves (.pcSample k) fun e => e = d) ∧
    (sampling → (∀ n ∈ order, ¬busy n) → s.Moves (.pcSample k) fun e => e = d) ∧
    ∀ (i n : Nat), sampling → order[i]? = some n → busy n → (∀ m < i, ∀ n', order[m]? = some n' → ¬busy n') →
      s.Moves (.pcSample k) fun e => (e.core k).pcSlot = (n + 1) % 64 ∧
        ∀ k' j w, d.slot k' j = some w → ∃ w', e.slot k' j = some w' ∧ { w' with monitor := w.monitor, alarm := w.alarm } = w
end

