-- ==== Sys2Proof/Laws/Sparse.lean ====
section
/-! SUPPORT. Tables by number: a read after a write, and that every write keeps the canonical form. -/

namespace Sys2Proof.Machine.Sparse

variable {α : Type}

@[simp] theorem get_put_same (z : α) (k : Nat) (v : α) (l : Sparse α) : get z (put k v l) k = v := by
  induction l with
  | nil => simp [put, get]
  | cons e t ih =>
    obtain ⟨a, b⟩ := e
    unfold put
    split <;> rename_i h
    · simp [get, ih]; omega
    · split <;> simp [get]

@[simp] theorem put_put (k : Nat) (v w : α) (l : Sparse α) : put k w (put k v l) = put k w l := by
  induction l with
  | nil => simp [put]
  | cons e t ih =>
    obtain ⟨k', v'⟩ := e
    simp only [put]
    split
    · simp [put, *]
    · split <;> simp [put, *]

theorem get_put_other (z : α) {k j : Nat} (h : j ≠ k) (v : α) (l : Sparse α) : get z (put k v l) j = get z l j := by
  induction l with
  | nil => simp [put, get]; omega
  | cons e t ih =>
    obtain ⟨a, b⟩ := e
    unfold put
    split <;> rename_i h1
    · simp [get, ih]
    · split <;> rename_i h2
      · subst h2; simp [get, h.symm]
      · simp [get, h.symm]

@[simp] theorem find?_put_same (k : Nat) (v : α) (l : Sparse α) : find? (put k v l) k = some v := by
  induction l with
  | nil => simp [put, find?]
  | cons e t ih =>
    obtain ⟨a, b⟩ := e
    unfold put
    split <;> rename_i h
    · simp [find?, ih]; omega
    · split <;> simp [find?]

theorem find?_put_other {k j : Nat} (h : j ≠ k) (v : α) (l : Sparse α) : find? (put k v l) j = find? l j := by
  induction l with
  | nil => simp [put, find?]; omega
  | cons e t ih =>
    obtain ⟨a, b⟩ := e
    unfold put
    split <;> rename_i h1
    · simp [find?, ih]
    · split <;> rename_i h2
      · subst h2; simp [find?, h.symm]
      · simp [find?, h.symm]

theorem get_erase_same (z : α) (k : Nat) (l : Sparse α) : get z (erase k l) k = z := by
  induction l with
  | nil => rfl
  | cons e t ih =>
    obtain ⟨a, b⟩ := e
    unfold erase
    split <;> rename_i h
    · exact ih
    · simp [get, h, ih]

theorem get_erase_other (z : α) {k j : Nat} (h : j ≠ k) (l : Sparse α) : get z (erase k l) j = get z l j := by
  induction l with
  | nil => rfl
  | cons e t ih =>
    obtain ⟨a, b⟩ := e
    unfold erase
    split <;> rename_i h1
    · subst h1; simp [get, ih, h.symm]
    · simp [get, ih]

variable [DecidableEq α]

@[simp] theorem get_set_same (z : α) (k : Nat) (v : α) (l : Sparse α) : get z (set z k v l) k = v := by
  unfold set
  split <;> rename_i h
  · rw [get_erase_same, h]
  · exact get_put_same z k v l

theorem get_set_other (z : α) {k j : Nat} (h : j ≠ k) (v : α) (l : Sparse α) : get z (set z k v l) j = get z l j := by
  unfold set
  split
  · exact get_erase_other z h l
  · exact get_put_other z h v l

/-! ### The canonical form -/

theorem wfFrom_mono (z : α) {a b : Nat} (h : a ≤ b) {l : Sparse α} (w : wfFrom z b l = true) : wfFrom z a l = true := by
  cases l with
  | nil => rfl
  | cons e t => obtain ⟨k, v⟩ := e; simp [wfFrom] at w ⊢; exact ⟨⟨by omega, w.1.2⟩, w.2⟩

theorem wfFrom_put (z : α) {lo k : Nat} {v : α} (hv : v ≠ z) (hk : lo ≤ k) {l : Sparse α} (w : wfFrom z lo l = true) :
    wfFrom z lo (put k v l) = true := by
  induction l generalizing lo with
  | nil => simp [put, wfFrom, hv, hk]
  | cons e t ih =>
    obtain ⟨a, b⟩ := e
    simp [wfFrom] at w
    unfold put
    split <;> rename_i h1
    · simp only [wfFrom, Bool.and_eq_true, decide_eq_true_eq]
      exact ⟨w.1, ih (by omega) w.2⟩
    · split <;> rename_i h2
      · subst h2; simp [wfFrom, hv, w]
      · simp only [wfFrom, Bool.and_eq_true, decide_eq_true_eq]
        exact ⟨⟨hk, hv⟩, ⟨by omega, w.1.2⟩, w.2⟩

theorem wfFrom_erase (z : α) {lo : Nat} (k : Nat) {l : Sparse α} (w : wfFrom z lo l = true) :
    wfFrom z lo (erase k l) = true := by
  induction l generalizing lo with
  | nil => rfl
  | cons e t ih =>
    obtain ⟨a, b⟩ := e
    simp [wfFrom] at w
    unfold erase
    split
    · exact wfFrom_mono z (by omega) (ih w.2)
    · simp only [wfFrom, Bool.and_eq_true, decide_eq_true_eq]
      exact ⟨w.1, ih w.2⟩

theorem wf_set (z : α) (k : Nat) (v : α) {l : Sparse α} (w : wf z l = true) : wf z (set z k v l) = true := by
  unfold set
  split <;> rename_i h
  · exact wfFrom_erase z k w
  · exact wfFrom_put z h (Nat.zero_le k) w

theorem wf_setList (z : α) (k : Nat) (vs : List α) {l : Sparse α} (w : wf z l = true) : wf z (setList z k vs l) = true := by
  induction vs generalizing k l with
  | nil => exact w
  | cons v vs ih => exact ih (k + 1) (wf_set z k v w)

theorem get_setList_below (z : α) {k j : Nat} (h : j < k) (vs : List α) (l : Sparse α) :
    get z (setList z k vs l) j = get z l j := by
  induction vs generalizing k l with
  | nil => rfl
  | cons v vs ih => rw [setList, ih (by omega), get_set_other z (by omega)]

theorem get_setList_above (z : α) {k j : Nat} (vs : List α) (h : k + vs.length ≤ j) (l : Sparse α) :
    get z (setList z k vs l) j = get z l j := by
  induction vs generalizing k l with
  | nil => rfl
  | cons v vs ih =>
    simp at h
    rw [setList, ih (by omega), get_set_other z (by omega)]

theorem get_setList_in (z : α) {k : Nat} (vs : List α) (i : Nat) (h : i < vs.length) (l : Sparse α) :
    get z (setList z k vs l) (k + i) = vs[i] := by
  induction vs generalizing k l i with
  | nil => simp at h
  | cons v vs ih =>
    cases i with
    | zero => simp [setList, get_setList_below z (Nat.lt_succ_self k)]
    | succ n =>
      have := ih (k := k + 1) n (by simpa using h) (set z k v l)
      simpa [setList, Nat.add_assoc, Nat.add_comm 1 n] using this

end Sys2Proof.Machine.Sparse
end

