-- ==== Sys2Proof/Laws/State.lean ====
section
/-! SUPPORT. One lemma per field per update of the die, so that no later proof unfolds a record update; the reads of a core,
a slot and a byte after an update of another or of the same one. -/

namespace Sys2Proof.Machine.Dev

/-! ### putCore -/

@[simp] theorem putCore_clusters (d : Dev) (k : CoreIx) (c : Core) : (d.putCore k c).clusters = d.clusters := rfl
@[simp] theorem putCore_tasks (d : Dev) (k : CoreIx) (c : Core) : (d.putCore k c).tasks = d.tasks := rfl
@[simp] theorem putCore_submissions (d : Dev) (k : CoreIx) (c : Core) : (d.putCore k c).submissions = d.submissions := rfl
@[simp] theorem putCore_contexts (d : Dev) (k : CoreIx) (c : Core) : (d.putCore k c).contexts = d.contexts := rfl
@[simp] theorem putCore_exec (d : Dev) (k : CoreIx) (c : Core) : (d.putCore k c).exec = d.exec := rfl
@[simp] theorem putCore_mem (d : Dev) (k : CoreIx) (c : Core) : (d.putCore k c).mem = d.mem := rfl
@[simp] theorem putCore_keys (d : Dev) (k : CoreIx) (c : Core) : (d.putCore k c).keys = d.keys := rfl
@[simp] theorem putCore_lineKey (d : Dev) (k : CoreIx) (c : Core) : (d.putCore k c).lineKey = d.lineKey := rfl
@[simp] theorem putCore_tlb (d : Dev) (k : CoreIx) (c : Core) : (d.putCore k c).tlb = d.tlb := rfl
@[simp] theorem putCore_walks (d : Dev) (k : CoreIx) (c : Core) : (d.putCore k c).walks = d.walks := rfl
@[simp] theorem putCore_monitors (d : Dev) (k : CoreIx) (c : Core) : (d.putCore k c).monitors = d.monitors := rfl
@[simp] theorem putCore_requests (d : Dev) (k : CoreIx) (c : Core) : (d.putCore k c).requests = d.requests := rfl
@[simp] theorem putCore_tlrs (d : Dev) (k : CoreIx) (c : Core) : (d.putCore k c).tlrs = d.tlrs := rfl
@[simp] theorem putCore_tsrs (d : Dev) (k : CoreIx) (c : Core) : (d.putCore k c).tsrs = d.tsrs := rfl
@[simp] theorem putCore_ports (d : Dev) (k : CoreIx) (c : Core) : (d.putCore k c).ports = d.ports := rfl
@[simp] theorem putCore_fns (d : Dev) (k : CoreIx) (c : Core) : (d.putCore k c).fns = d.fns := rfl
@[simp] theorem putCore_pfkey (d : Dev) (k : CoreIx) (c : Core) : (d.putCore k c).pfkey = d.pfkey := rfl
@[simp] theorem putCore_peers (d : Dev) (k : CoreIx) (c : Core) : (d.putCore k c).peers = d.peers := rfl
@[simp] theorem putCore_pwrlim (d : Dev) (k : CoreIx) (c : Core) : (d.putCore k c).pwrlim = d.pwrlim := rfl
@[simp] theorem putCore_hostLim (d : Dev) (k : CoreIx) (c : Core) : (d.putCore k c).hostLim = d.hostLim := rfl
@[simp] theorem putCore_fwwin (d : Dev) (k : CoreIx) (c : Core) : (d.putCore k c).fwwin = d.fwwin := rfl
@[simp] theorem putCore_fwlock (d : Dev) (k : CoreIx) (c : Core) : (d.putCore k c).fwlock = d.fwlock := rfl
@[simp] theorem putCore_regWrites (d : Dev) (k : CoreIx) (c : Core) : (d.putCore k c).regWrites = d.regWrites := rfl
@[simp] theorem putCore_errata (d : Dev) (k : CoreIx) (c : Core) : (d.putCore k c).errata = d.errata := rfl
@[simp] theorem putCore_trace (d : Dev) (k : CoreIx) (c : Core) : (d.putCore k c).trace = d.trace := rfl
@[simp] theorem putCore_saved (d : Dev) (k : CoreIx) (c : Core) : (d.putCore k c).saved = d.saved := rfl
@[simp] theorem putCore_clock (d : Dev) (k : CoreIx) (c : Core) : (d.putCore k c).clock = d.clock := rfl
@[simp] theorem putCore_ptp (d : Dev) (k : CoreIx) (c : Core) : (d.putCore k c).ptp = d.ptp := rfl
@[simp] theorem putCore_ptpRate (d : Dev) (k : CoreIx) (c : Core) : (d.putCore k c).ptpRate = d.ptpRate := rfl
@[simp] theorem putCore_ptpDue (d : Dev) (k : CoreIx) (c : Core) : (d.putCore k c).ptpDue = d.ptpDue := rfl
@[simp] theorem putCore_rotation (d : Dev) (k : CoreIx) (c : Core) : (d.putCore k c).rotation = d.rotation := rfl
@[simp] theorem putCore_seq (d : Dev) (k : CoreIx) (c : Core) : (d.putCore k c).seq = d.seq := rfl
@[simp] theorem putCore_draw (d : Dev) (k : CoreIx) (c : Core) : (d.putCore k c).draw = d.draw := rfl
@[simp] theorem putCore_nextId (d : Dev) (k : CoreIx) (c : Core) : (d.putCore k c).nextId = d.nextId := rfl
@[simp] theorem putCore_curCore (d : Dev) (k : CoreIx) (c : Core) : (d.putCore k c).curCore = d.curCore := rfl
@[simp] theorem putCore_curSlot (d : Dev) (k : CoreIx) (c : Core) : (d.putCore k c).curSlot = d.curSlot := rfl

/-! ### modCluster -/

@[simp] theorem modCluster_cores (d : Dev) (k : ClusterIx) (f : Cluster → Cluster) : (d.modCluster k f).cores = d.cores := rfl
@[simp] theorem modCluster_tasks (d : Dev) (k : ClusterIx) (f : Cluster → Cluster) : (d.modCluster k f).tasks = d.tasks := rfl
@[simp] theorem modCluster_submissions (d : Dev) (k : ClusterIx) (f : Cluster → Cluster) : (d.modCluster k f).submissions = d.submissions := rfl
@[simp] theorem modCluster_contexts (d : Dev) (k : ClusterIx) (f : Cluster → Cluster) : (d.modCluster k f).contexts = d.contexts := rfl
@[simp] theorem modCluster_exec (d : Dev) (k : ClusterIx) (f : Cluster → Cluster) : (d.modCluster k f).exec = d.exec := rfl
@[simp] theorem modCluster_mem (d : Dev) (k : ClusterIx) (f : Cluster → Cluster) : (d.modCluster k f).mem = d.mem := rfl
@[simp] theorem modCluster_keys (d : Dev) (k : ClusterIx) (f : Cluster → Cluster) : (d.modCluster k f).keys = d.keys := rfl
@[simp] theorem modCluster_lineKey (d : Dev) (k : ClusterIx) (f : Cluster → Cluster) : (d.modCluster k f).lineKey = d.lineKey := rfl
@[simp] theorem modCluster_tlb (d : Dev) (k : ClusterIx) (f : Cluster → Cluster) : (d.modCluster k f).tlb = d.tlb := rfl
@[simp] theorem modCluster_walks (d : Dev) (k : ClusterIx) (f : Cluster → Cluster) : (d.modCluster k f).walks = d.walks := rfl
@[simp] theorem modCluster_monitors (d : Dev) (k : ClusterIx) (f : Cluster → Cluster) : (d.modCluster k f).monitors = d.monitors := rfl
@[simp] theorem modCluster_requests (d : Dev) (k : ClusterIx) (f : Cluster → Cluster) : (d.modCluster k f).requests = d.requests := rfl
@[simp] theorem modCluster_tlrs (d : Dev) (k : ClusterIx) (f : Cluster → Cluster) : (d.modCluster k f).tlrs = d.tlrs := rfl
@[simp] theorem modCluster_tsrs (d : Dev) (k : ClusterIx) (f : Cluster → Cluster) : (d.modCluster k f).tsrs = d.tsrs := rfl
@[simp] theorem modCluster_ports (d : Dev) (k : ClusterIx) (f : Cluster → Cluster) : (d.modCluster k f).ports = d.ports := rfl
@[simp] theorem modCluster_fns (d : Dev) (k : ClusterIx) (f : Cluster → Cluster) : (d.modCluster k f).fns = d.fns := rfl
@[simp] theorem modCluster_pfkey (d : Dev) (k : ClusterIx) (f : Cluster → Cluster) : (d.modCluster k f).pfkey = d.pfkey := rfl
@[simp] theorem modCluster_peers (d : Dev) (k : ClusterIx) (f : Cluster → Cluster) : (d.modCluster k f).peers = d.peers := rfl
@[simp] theorem modCluster_pwrlim (d : Dev) (k : ClusterIx) (f : Cluster → Cluster) : (d.modCluster k f).pwrlim = d.pwrlim := rfl
@[simp] theorem modCluster_hostLim (d : Dev) (k : ClusterIx) (f : Cluster → Cluster) : (d.modCluster k f).hostLim = d.hostLim := rfl
@[simp] theorem modCluster_fwwin (d : Dev) (k : ClusterIx) (f : Cluster → Cluster) : (d.modCluster k f).fwwin = d.fwwin := rfl
@[simp] theorem modCluster_fwlock (d : Dev) (k : ClusterIx) (f : Cluster → Cluster) : (d.modCluster k f).fwlock = d.fwlock := rfl
@[simp] theorem modCluster_regWrites (d : Dev) (k : ClusterIx) (f : Cluster → Cluster) : (d.modCluster k f).regWrites = d.regWrites := rfl
@[simp] theorem modCluster_errata (d : Dev) (k : ClusterIx) (f : Cluster → Cluster) : (d.modCluster k f).errata = d.errata := rfl
@[simp] theorem modCluster_trace (d : Dev) (k : ClusterIx) (f : Cluster → Cluster) : (d.modCluster k f).trace = d.trace := rfl
@[simp] theorem modCluster_saved (d : Dev) (k : ClusterIx) (f : Cluster → Cluster) : (d.modCluster k f).saved = d.saved := rfl
@[simp] theorem modCluster_clock (d : Dev) (k : ClusterIx) (f : Cluster → Cluster) : (d.modCluster k f).clock = d.clock := rfl
@[simp] theorem modCluster_ptp (d : Dev) (k : ClusterIx) (f : Cluster → Cluster) : (d.modCluster k f).ptp = d.ptp := rfl
@[simp] theorem modCluster_ptpRate (d : Dev) (k : ClusterIx) (f : Cluster → Cluster) : (d.modCluster k f).ptpRate = d.ptpRate := rfl
@[simp] theorem modCluster_ptpDue (d : Dev) (k : ClusterIx) (f : Cluster → Cluster) : (d.modCluster k f).ptpDue = d.ptpDue := rfl
@[simp] theorem modCluster_rotation (d : Dev) (k : ClusterIx) (f : Cluster → Cluster) : (d.modCluster k f).rotation = d.rotation := rfl
@[simp] theorem modCluster_seq (d : Dev) (k : ClusterIx) (f : Cluster → Cluster) : (d.modCluster k f).seq = d.seq := rfl
@[simp] theorem modCluster_draw (d : Dev) (k : ClusterIx) (f : Cluster → Cluster) : (d.modCluster k f).draw = d.draw := rfl
@[simp] theorem modCluster_nextId (d : Dev) (k : ClusterIx) (f : Cluster → Cluster) : (d.modCluster k f).nextId = d.nextId := rfl
@[simp] theorem modCluster_curCore (d : Dev) (k : ClusterIx) (f : Cluster → Cluster) : (d.modCluster k f).curCore = d.curCore := rfl
@[simp] theorem modCluster_curSlot (d : Dev) (k : ClusterIx) (f : Cluster → Cluster) : (d.modCluster k f).curSlot = d.curSlot := rfl

/-! ### modFn -/

@[simp] theorem modFn_cores (d : Dev) (k : FnIx) (f : Function → Function) : (d.modFn k f).cores = d.cores := rfl
@[simp] theorem modFn_clusters (d : Dev) (k : FnIx) (f : Function → Function) : (d.modFn k f).clusters = d.clusters := rfl
@[simp] theorem modFn_tasks (d : Dev) (k : FnIx) (f : Function → Function) : (d.modFn k f).tasks = d.tasks := rfl
@[simp] theorem modFn_submissions (d : Dev) (k : FnIx) (f : Function → Function) : (d.modFn k f).submissions = d.submissions := rfl
@[simp] theorem modFn_contexts (d : Dev) (k : FnIx) (f : Function → Function) : (d.modFn k f).contexts = d.contexts := rfl
@[simp] theorem modFn_exec (d : Dev) (k : FnIx) (f : Function → Function) : (d.modFn k f).exec = d.exec := rfl
@[simp] theorem modFn_mem (d : Dev) (k : FnIx) (f : Function → Function) : (d.modFn k f).mem = d.mem := rfl
@[simp] theorem modFn_keys (d : Dev) (k : FnIx) (f : Function → Function) : (d.modFn k f).keys = d.keys := rfl
@[simp] theorem modFn_lineKey (d : Dev) (k : FnIx) (f : Function → Function) : (d.modFn k f).lineKey = d.lineKey := rfl
@[simp] theorem modFn_tlb (d : Dev) (k : FnIx) (f : Function → Function) : (d.modFn k f).tlb = d.tlb := rfl
@[simp] theorem modFn_walks (d : Dev) (k : FnIx) (f : Function → Function) : (d.modFn k f).walks = d.walks := rfl
@[simp] theorem modFn_monitors (d : Dev) (k : FnIx) (f : Function → Function) : (d.modFn k f).monitors = d.monitors := rfl
@[simp] theorem modFn_requests (d : Dev) (k : FnIx) (f : Function → Function) : (d.modFn k f).requests = d.requests := rfl
@[simp] theorem modFn_tlrs (d : Dev) (k : FnIx) (f : Function → Function) : (d.modFn k f).tlrs = d.tlrs := rfl
@[simp] theorem modFn_tsrs (d : Dev) (k : FnIx) (f : Function → Function) : (d.modFn k f).tsrs = d.tsrs := rfl
@[simp] theorem modFn_ports (d : Dev) (k : FnIx) (f : Function → Function) : (d.modFn k f).ports = d.ports := rfl
@[simp] theorem modFn_pfkey (d : Dev) (k : FnIx) (f : Function → Function) : (d.modFn k f).pfkey = d.pfkey := rfl
@[simp] theorem modFn_peers (d : Dev) (k : FnIx) (f : Function → Function) : (d.modFn k f).peers = d.peers := rfl
@[simp] theorem modFn_pwrlim (d : Dev) (k : FnIx) (f : Function → Function) : (d.modFn k f).pwrlim = d.pwrlim := rfl
@[simp] theorem modFn_hostLim (d : Dev) (k : FnIx) (f : Function → Function) : (d.modFn k f).hostLim = d.hostLim := rfl
@[simp] theorem modFn_fwwin (d : Dev) (k : FnIx) (f : Function → Function) : (d.modFn k f).fwwin = d.fwwin := rfl
@[simp] theorem modFn_fwlock (d : Dev) (k : FnIx) (f : Function → Function) : (d.modFn k f).fwlock = d.fwlock := rfl
@[simp] theorem modFn_regWrites (d : Dev) (k : FnIx) (f : Function → Function) : (d.modFn k f).regWrites = d.regWrites := rfl
@[simp] theorem modFn_errata (d : Dev) (k : FnIx) (f : Function → Function) : (d.modFn k f).errata = d.errata := rfl
@[simp] theorem modFn_trace (d : Dev) (k : FnIx) (f : Function → Function) : (d.modFn k f).trace = d.trace := rfl
@[simp] theorem modFn_saved (d : Dev) (k : FnIx) (f : Function → Function) : (d.modFn k f).saved = d.saved := rfl
@[simp] theorem modFn_clock (d : Dev) (k : FnIx) (f : Function → Function) : (d.modFn k f).clock = d.clock := rfl
@[simp] theorem modFn_ptp (d : Dev) (k : FnIx) (f : Function → Function) : (d.modFn k f).ptp = d.ptp := rfl
@[simp] theorem modFn_ptpRate (d : Dev) (k : FnIx) (f : Function → Function) : (d.modFn k f).ptpRate = d.ptpRate := rfl
@[simp] theorem modFn_ptpDue (d : Dev) (k : FnIx) (f : Function → Function) : (d.modFn k f).ptpDue = d.ptpDue := rfl
@[simp] theorem modFn_rotation (d : Dev) (k : FnIx) (f : Function → Function) : (d.modFn k f).rotation = d.rotation := rfl
@[simp] theorem modFn_seq (d : Dev) (k : FnIx) (f : Function → Function) : (d.modFn k f).seq = d.seq := rfl
@[simp] theorem modFn_draw (d : Dev) (k : FnIx) (f : Function → Function) : (d.modFn k f).draw = d.draw := rfl
@[simp] theorem modFn_nextId (d : Dev) (k : FnIx) (f : Function → Function) : (d.modFn k f).nextId = d.nextId := rfl
@[simp] theorem modFn_curCore (d : Dev) (k : FnIx) (f : Function → Function) : (d.modFn k f).curCore = d.curCore := rfl
@[simp] theorem modFn_curSlot (d : Dev) (k : FnIx) (f : Function → Function) : (d.modFn k f).curSlot = d.curSlot := rfl

/-! ### modPort -/

@[simp] theorem modPort_cores (d : Dev) (k : PortIx) (f : Port → Port) : (d.modPort k f).cores = d.cores := rfl
@[simp] theorem modPort_clusters (d : Dev) (k : PortIx) (f : Port → Port) : (d.modPort k f).clusters = d.clusters := rfl
@[simp] theorem modPort_tasks (d : Dev) (k : PortIx) (f : Port → Port) : (d.modPort k f).tasks = d.tasks := rfl
@[simp] theorem modPort_submissions (d : Dev) (k : PortIx) (f : Port → Port) : (d.modPort k f).submissions = d.submissions := rfl
@[simp] theorem modPort_contexts (d : Dev) (k : PortIx) (f : Port → Port) : (d.modPort k f).contexts = d.contexts := rfl
@[simp] theorem modPort_exec (d : Dev) (k : PortIx) (f : Port → Port) : (d.modPort k f).exec = d.exec := rfl
@[simp] theorem modPort_mem (d : Dev) (k : PortIx) (f : Port → Port) : (d.modPort k f).mem = d.mem := rfl
@[simp] theorem modPort_keys (d : Dev) (k : PortIx) (f : Port → Port) : (d.modPort k f).keys = d.keys := rfl
@[simp] theorem modPort_lineKey (d : Dev) (k : PortIx) (f : Port → Port) : (d.modPort k f).lineKey = d.lineKey := rfl
@[simp] theorem modPort_tlb (d : Dev) (k : PortIx) (f : Port → Port) : (d.modPort k f).tlb = d.tlb := rfl
@[simp] theorem modPort_walks (d : Dev) (k : PortIx) (f : Port → Port) : (d.modPort k f).walks = d.walks := rfl
@[simp] theorem modPort_monitors (d : Dev) (k : PortIx) (f : Port → Port) : (d.modPort k f).monitors = d.monitors := rfl
@[simp] theorem modPort_requests (d : Dev) (k : PortIx) (f : Port → Port) : (d.modPort k f).requests = d.requests := rfl
@[simp] theorem modPort_tlrs (d : Dev) (k : PortIx) (f : Port → Port) : (d.modPort k f).tlrs = d.tlrs := rfl
@[simp] theorem modPort_tsrs (d : Dev) (k : PortIx) (f : Port → Port) : (d.modPort k f).tsrs = d.tsrs := rfl
@[simp] theorem modPort_fns (d : Dev) (k : PortIx) (f : Port → Port) : (d.modPort k f).fns = d.fns := rfl
@[simp] theorem modPort_pfkey (d : Dev) (k : PortIx) (f : Port → Port) : (d.modPort k f).pfkey = d.pfkey := rfl
@[simp] theorem modPort_peers (d : Dev) (k : PortIx) (f : Port → Port) : (d.modPort k f).peers = d.peers := rfl
@[simp] theorem modPort_pwrlim (d : Dev) (k : PortIx) (f : Port → Port) : (d.modPort k f).pwrlim = d.pwrlim := rfl
@[simp] theorem modPort_hostLim (d : Dev) (k : PortIx) (f : Port → Port) : (d.modPort k f).hostLim = d.hostLim := rfl
@[simp] theorem modPort_fwwin (d : Dev) (k : PortIx) (f : Port → Port) : (d.modPort k f).fwwin = d.fwwin := rfl
@[simp] theorem modPort_fwlock (d : Dev) (k : PortIx) (f : Port → Port) : (d.modPort k f).fwlock = d.fwlock := rfl
@[simp] theorem modPort_regWrites (d : Dev) (k : PortIx) (f : Port → Port) : (d.modPort k f).regWrites = d.regWrites := rfl
@[simp] theorem modPort_errata (d : Dev) (k : PortIx) (f : Port → Port) : (d.modPort k f).errata = d.errata := rfl
@[simp] theorem modPort_trace (d : Dev) (k : PortIx) (f : Port → Port) : (d.modPort k f).trace = d.trace := rfl
@[simp] theorem modPort_saved (d : Dev) (k : PortIx) (f : Port → Port) : (d.modPort k f).saved = d.saved := rfl
@[simp] theorem modPort_clock (d : Dev) (k : PortIx) (f : Port → Port) : (d.modPort k f).clock = d.clock := rfl
@[simp] theorem modPort_ptp (d : Dev) (k : PortIx) (f : Port → Port) : (d.modPort k f).ptp = d.ptp := rfl
@[simp] theorem modPort_ptpRate (d : Dev) (k : PortIx) (f : Port → Port) : (d.modPort k f).ptpRate = d.ptpRate := rfl
@[simp] theorem modPort_ptpDue (d : Dev) (k : PortIx) (f : Port → Port) : (d.modPort k f).ptpDue = d.ptpDue := rfl
@[simp] theorem modPort_rotation (d : Dev) (k : PortIx) (f : Port → Port) : (d.modPort k f).rotation = d.rotation := rfl
@[simp] theorem modPort_seq (d : Dev) (k : PortIx) (f : Port → Port) : (d.modPort k f).seq = d.seq := rfl
@[simp] theorem modPort_draw (d : Dev) (k : PortIx) (f : Port → Port) : (d.modPort k f).draw = d.draw := rfl
@[simp] theorem modPort_nextId (d : Dev) (k : PortIx) (f : Port → Port) : (d.modPort k f).nextId = d.nextId := rfl
@[simp] theorem modPort_curCore (d : Dev) (k : PortIx) (f : Port → Port) : (d.modPort k f).curCore = d.curCore := rfl
@[simp] theorem modPort_curSlot (d : Dev) (k : PortIx) (f : Port → Port) : (d.modPort k f).curSlot = d.curSlot := rfl

/-! ### modTask -/

@[simp] theorem modTask_cores (d : Dev) (k : Nat) (f : Task → Task) : (d.modTask k f).cores = d.cores := rfl
@[simp] theorem modTask_clusters (d : Dev) (k : Nat) (f : Task → Task) : (d.modTask k f).clusters = d.clusters := rfl
@[simp] theorem modTask_submissions (d : Dev) (k : Nat) (f : Task → Task) : (d.modTask k f).submissions = d.submissions := rfl
@[simp] theorem modTask_contexts (d : Dev) (k : Nat) (f : Task → Task) : (d.modTask k f).contexts = d.contexts := rfl
@[simp] theorem modTask_exec (d : Dev) (k : Nat) (f : Task → Task) : (d.modTask k f).exec = d.exec := rfl
@[simp] theorem modTask_mem (d : Dev) (k : Nat) (f : Task → Task) : (d.modTask k f).mem = d.mem := rfl
@[simp] theorem modTask_keys (d : Dev) (k : Nat) (f : Task → Task) : (d.modTask k f).keys = d.keys := rfl
@[simp] theorem modTask_lineKey (d : Dev) (k : Nat) (f : Task → Task) : (d.modTask k f).lineKey = d.lineKey := rfl
@[simp] theorem modTask_tlb (d : Dev) (k : Nat) (f : Task → Task) : (d.modTask k f).tlb = d.tlb := rfl
@[simp] theorem modTask_walks (d : Dev) (k : Nat) (f : Task → Task) : (d.modTask k f).walks = d.walks := rfl
@[simp] theorem modTask_monitors (d : Dev) (k : Nat) (f : Task → Task) : (d.modTask k f).monitors = d.monitors := rfl
@[simp] theorem modTask_requests (d : Dev) (k : Nat) (f : Task → Task) : (d.modTask k f).requests = d.requests := rfl
@[simp] theorem modTask_tlrs (d : Dev) (k : Nat) (f : Task → Task) : (d.modTask k f).tlrs = d.tlrs := rfl
@[simp] theorem modTask_tsrs (d : Dev) (k : Nat) (f : Task → Task) : (d.modTask k f).tsrs = d.tsrs := rfl
@[simp] theorem modTask_ports (d : Dev) (k : Nat) (f : Task → Task) : (d.modTask k f).ports = d.ports := rfl
@[simp] theorem modTask_fns (d : Dev) (k : Nat) (f : Task → Task) : (d.modTask k f).fns = d.fns := rfl
@[simp] theorem modTask_pfkey (d : Dev) (k : Nat) (f : Task → Task) : (d.modTask k f).pfkey = d.pfkey := rfl
@[simp] theorem modTask_peers (d : Dev) (k : Nat) (f : Task → Task) : (d.modTask k f).peers = d.peers := rfl
@[simp] theorem modTask_pwrlim (d : Dev) (k : Nat) (f : Task → Task) : (d.modTask k f).pwrlim = d.pwrlim := rfl
@[simp] theorem modTask_hostLim (d : Dev) (k : Nat) (f : Task → Task) : (d.modTask k f).hostLim = d.hostLim := rfl
@[simp] theorem modTask_fwwin (d : Dev) (k : Nat) (f : Task → Task) : (d.modTask k f).fwwin = d.fwwin := rfl
@[simp] theorem modTask_fwlock (d : Dev) (k : Nat) (f : Task → Task) : (d.modTask k f).fwlock = d.fwlock := rfl
@[simp] theorem modTask_regWrites (d : Dev) (k : Nat) (f : Task → Task) : (d.modTask k f).regWrites = d.regWrites := rfl
@[simp] theorem modTask_errata (d : Dev) (k : Nat) (f : Task → Task) : (d.modTask k f).errata = d.errata := rfl
@[simp] theorem modTask_trace (d : Dev) (k : Nat) (f : Task → Task) : (d.modTask k f).trace = d.trace := rfl
@[simp] theorem modTask_saved (d : Dev) (k : Nat) (f : Task → Task) : (d.modTask k f).saved = d.saved := rfl
@[simp] theorem modTask_clock (d : Dev) (k : Nat) (f : Task → Task) : (d.modTask k f).clock = d.clock := rfl
@[simp] theorem modTask_ptp (d : Dev) (k : Nat) (f : Task → Task) : (d.modTask k f).ptp = d.ptp := rfl
@[simp] theorem modTask_ptpRate (d : Dev) (k : Nat) (f : Task → Task) : (d.modTask k f).ptpRate = d.ptpRate := rfl
@[simp] theorem modTask_ptpDue (d : Dev) (k : Nat) (f : Task → Task) : (d.modTask k f).ptpDue = d.ptpDue := rfl
@[simp] theorem modTask_rotation (d : Dev) (k : Nat) (f : Task → Task) : (d.modTask k f).rotation = d.rotation := rfl
@[simp] theorem modTask_seq (d : Dev) (k : Nat) (f : Task → Task) : (d.modTask k f).seq = d.seq := rfl
@[simp] theorem modTask_draw (d : Dev) (k : Nat) (f : Task → Task) : (d.modTask k f).draw = d.draw := rfl
@[simp] theorem modTask_nextId (d : Dev) (k : Nat) (f : Task → Task) : (d.modTask k f).nextId = d.nextId := rfl
@[simp] theorem modTask_curCore (d : Dev) (k : Nat) (f : Task → Task) : (d.modTask k f).curCore = d.curCore := rfl
@[simp] theorem modTask_curSlot (d : Dev) (k : Nat) (f : Task → Task) : (d.modTask k f).curSlot = d.curSlot := rfl

/-! ### putContext -/

@[simp] theorem putContext_cores (d : Dev) (k : CtxIx) (x : Context) : (d.putContext k x).cores = d.cores := rfl
@[simp] theorem putContext_clusters (d : Dev) (k : CtxIx) (x : Context) : (d.putContext k x).clusters = d.clusters := rfl
@[simp] theorem putContext_tasks (d : Dev) (k : CtxIx) (x : Context) : (d.putContext k x).tasks = d.tasks := rfl
@[simp] theorem putContext_submissions (d : Dev) (k : CtxIx) (x : Context) : (d.putContext k x).submissions = d.submissions := rfl
@[simp] theorem putContext_exec (d : Dev) (k : CtxIx) (x : Context) : (d.putContext k x).exec = d.exec := rfl
@[simp] theorem putContext_mem (d : Dev) (k : CtxIx) (x : Context) : (d.putContext k x).mem = d.mem := rfl
@[simp] theorem putContext_keys (d : Dev) (k : CtxIx) (x : Context) : (d.putContext k x).keys = d.keys := rfl
@[simp] theorem putContext_lineKey (d : Dev) (k : CtxIx) (x : Context) : (d.putContext k x).lineKey = d.lineKey := rfl
@[simp] theorem putContext_tlb (d : Dev) (k : CtxIx) (x : Context) : (d.putContext k x).tlb = d.tlb := rfl
@[simp] theorem putContext_walks (d : Dev) (k : CtxIx) (x : Context) : (d.putContext k x).walks = d.walks := rfl
@[simp] theorem putContext_monitors (d : Dev) (k : CtxIx) (x : Context) : (d.putContext k x).monitors = d.monitors := rfl
@[simp] theorem putContext_requests (d : Dev) (k : CtxIx) (x : Context) : (d.putContext k x).requests = d.requests := rfl
@[simp] theorem putContext_tlrs (d : Dev) (k : CtxIx) (x : Context) : (d.putContext k x).tlrs = d.tlrs := rfl
@[simp] theorem putContext_tsrs (d : Dev) (k : CtxIx) (x : Context) : (d.putContext k x).tsrs = d.tsrs := rfl
@[simp] theorem putContext_ports (d : Dev) (k : CtxIx) (x : Context) : (d.putContext k x).ports = d.ports := rfl
@[simp] theorem putContext_fns (d : Dev) (k : CtxIx) (x : Context) : (d.putContext k x).fns = d.fns := rfl
@[simp] theorem putContext_pfkey (d : Dev) (k : CtxIx) (x : Context) : (d.putContext k x).pfkey = d.pfkey := rfl
@[simp] theorem putContext_peers (d : Dev) (k : CtxIx) (x : Context) : (d.putContext k x).peers = d.peers := rfl
@[simp] theorem putContext_pwrlim (d : Dev) (k : CtxIx) (x : Context) : (d.putContext k x).pwrlim = d.pwrlim := rfl
@[simp] theorem putContext_hostLim (d : Dev) (k : CtxIx) (x : Context) : (d.putContext k x).hostLim = d.hostLim := rfl
@[simp] theorem putContext_fwwin (d : Dev) (k : CtxIx) (x : Context) : (d.putContext k x).fwwin = d.fwwin := rfl
@[simp] theorem putContext_fwlock (d : Dev) (k : CtxIx) (x : Context) : (d.putContext k x).fwlock = d.fwlock := rfl
@[simp] theorem putContext_regWrites (d : Dev) (k : CtxIx) (x : Context) : (d.putContext k x).regWrites = d.regWrites := rfl
@[simp] theorem putContext_errata (d : Dev) (k : CtxIx) (x : Context) : (d.putContext k x).errata = d.errata := rfl
@[simp] theorem putContext_trace (d : Dev) (k : CtxIx) (x : Context) : (d.putContext k x).trace = d.trace := rfl
@[simp] theorem putContext_saved (d : Dev) (k : CtxIx) (x : Context) : (d.putContext k x).saved = d.saved := rfl
@[simp] theorem putContext_clock (d : Dev) (k : CtxIx) (x : Context) : (d.putContext k x).clock = d.clock := rfl
@[simp] theorem putContext_ptp (d : Dev) (k : CtxIx) (x : Context) : (d.putContext k x).ptp = d.ptp := rfl
@[simp] theorem putContext_ptpRate (d : Dev) (k : CtxIx) (x : Context) : (d.putContext k x).ptpRate = d.ptpRate := rfl
@[simp] theorem putContext_ptpDue (d : Dev) (k : CtxIx) (x : Context) : (d.putContext k x).ptpDue = d.ptpDue := rfl
@[simp] theorem putContext_rotation (d : Dev) (k : CtxIx) (x : Context) : (d.putContext k x).rotation = d.rotation := rfl
@[simp] theorem putContext_seq (d : Dev) (k : CtxIx) (x : Context) : (d.putContext k x).seq = d.seq := rfl
@[simp] theorem putContext_draw (d : Dev) (k : CtxIx) (x : Context) : (d.putContext k x).draw = d.draw := rfl
@[simp] theorem putContext_nextId (d : Dev) (k : CtxIx) (x : Context) : (d.putContext k x).nextId = d.nextId := rfl
@[simp] theorem putContext_curCore (d : Dev) (k : CtxIx) (x : Context) : (d.putContext k x).curCore = d.curCore := rfl
@[simp] theorem putContext_curSlot (d : Dev) (k : CtxIx) (x : Context) : (d.putContext k x).curSlot = d.curSlot := rfl

/-! ### putByte -/

@[simp] theorem putByte_cores (d : Dev) (k : Nat) (b : Byte) : (d.putByte k b).cores = d.cores := rfl
@[simp] theorem putByte_clusters (d : Dev) (k : Nat) (b : Byte) : (d.putByte k b).clusters = d.clusters := rfl
@[simp] theorem putByte_tasks (d : Dev) (k : Nat) (b : Byte) : (d.putByte k b).tasks = d.tasks := rfl
@[simp] theorem putByte_submissions (d : Dev) (k : Nat) (b : Byte) : (d.putByte k b).submissions = d.submissions := rfl
@[simp] theorem putByte_contexts (d : Dev) (k : Nat) (b : Byte) : (d.putByte k b).contexts = d.contexts := rfl
@[simp] theorem putByte_exec (d : Dev) (k : Nat) (b : Byte) : (d.putByte k b).exec = d.exec := rfl
@[simp] theorem putByte_keys (d : Dev) (k : Nat) (b : Byte) : (d.putByte k b).keys = d.keys := rfl
@[simp] theorem putByte_lineKey (d : Dev) (k : Nat) (b : Byte) : (d.putByte k b).lineKey = d.lineKey := rfl
@[simp] theorem putByte_tlb (d : Dev) (k : Nat) (b : Byte) : (d.putByte k b).tlb = d.tlb := rfl
@[simp] theorem putByte_walks (d : Dev) (k : Nat) (b : Byte) : (d.putByte k b).walks = d.walks := rfl
@[simp] theorem putByte_monitors (d : Dev) (k : Nat) (b : Byte) : (d.putByte k b).monitors = d.monitors := rfl
@[simp] theorem putByte_requests (d : Dev) (k : Nat) (b : Byte) : (d.putByte k b).requests = d.requests := rfl
@[simp] theorem putByte_tlrs (d : Dev) (k : Nat) (b : Byte) : (d.putByte k b).tlrs = d.tlrs := rfl
@[simp] theorem putByte_tsrs (d : Dev) (k : Nat) (b : Byte) : (d.putByte k b).tsrs = d.tsrs := rfl
@[simp] theorem putByte_ports (d : Dev) (k : Nat) (b : Byte) : (d.putByte k b).ports = d.ports := rfl
@[simp] theorem putByte_fns (d : Dev) (k : Nat) (b : Byte) : (d.putByte k b).fns = d.fns := rfl
@[simp] theorem putByte_pfkey (d : Dev) (k : Nat) (b : Byte) : (d.putByte k b).pfkey = d.pfkey := rfl
@[simp] theorem putByte_peers (d : Dev) (k : Nat) (b : Byte) : (d.putByte k b).peers = d.peers := rfl
@[simp] theorem putByte_pwrlim (d : Dev) (k : Nat) (b : Byte) : (d.putByte k b).pwrlim = d.pwrlim := rfl
@[simp] theorem putByte_hostLim (d : Dev) (k : Nat) (b : Byte) : (d.putByte k b).hostLim = d.hostLim := rfl
@[simp] theorem putByte_fwwin (d : Dev) (k : Nat) (b : Byte) : (d.putByte k b).fwwin = d.fwwin := rfl
@[simp] theorem putByte_fwlock (d : Dev) (k : Nat) (b : Byte) : (d.putByte k b).fwlock = d.fwlock := rfl
@[simp] theorem putByte_regWrites (d : Dev) (k : Nat) (b : Byte) : (d.putByte k b).regWrites = d.regWrites := rfl
@[simp] theorem putByte_errata (d : Dev) (k : Nat) (b : Byte) : (d.putByte k b).errata = d.errata := rfl
@[simp] theorem putByte_trace (d : Dev) (k : Nat) (b : Byte) : (d.putByte k b).trace = d.trace := rfl
@[simp] theorem putByte_saved (d : Dev) (k : Nat) (b : Byte) : (d.putByte k b).saved = d.saved := rfl
@[simp] theorem putByte_clock (d : Dev) (k : Nat) (b : Byte) : (d.putByte k b).clock = d.clock := rfl
@[simp] theorem putByte_ptp (d : Dev) (k : Nat) (b : Byte) : (d.putByte k b).ptp = d.ptp := rfl
@[simp] theorem putByte_ptpRate (d : Dev) (k : Nat) (b : Byte) : (d.putByte k b).ptpRate = d.ptpRate := rfl
@[simp] theorem putByte_ptpDue (d : Dev) (k : Nat) (b : Byte) : (d.putByte k b).ptpDue = d.ptpDue := rfl
@[simp] theorem putByte_rotation (d : Dev) (k : Nat) (b : Byte) : (d.putByte k b).rotation = d.rotation := rfl
@[simp] theorem putByte_seq (d : Dev) (k : Nat) (b : Byte) : (d.putByte k b).seq = d.seq := rfl
@[simp] theorem putByte_draw (d : Dev) (k : Nat) (b : Byte) : (d.putByte k b).draw = d.draw := rfl
@[simp] theorem putByte_nextId (d : Dev) (k : Nat) (b : Byte) : (d.putByte k b).nextId = d.nextId := rfl
@[simp] theorem putByte_curCore (d : Dev) (k : Nat) (b : Byte) : (d.putByte k b).curCore = d.curCore := rfl
@[simp] theorem putByte_curSlot (d : Dev) (k : Nat) (b : Byte) : (d.putByte k b).curSlot = d.curSlot := rfl

/-! ### mapWarps -/

@[simp] theorem mapWarps_clusters (d : Dev) (f : CoreIx → SlotIx → Warp → Option Warp) : (d.mapWarps f).clusters = d.clusters := rfl
@[simp] theorem mapWarps_tasks (d : Dev) (f : CoreIx → SlotIx → Warp → Option Warp) : (d.mapWarps f).tasks = d.tasks := rfl
@[simp] theorem mapWarps_submissions (d : Dev) (f : CoreIx → SlotIx → Warp → Option Warp) : (d.mapWarps f).submissions = d.submissions := rfl
@[simp] theorem mapWarps_contexts (d : Dev) (f : CoreIx → SlotIx → Warp → Option Warp) : (d.mapWarps f).contexts = d.contexts := rfl
@[simp] theorem mapWarps_exec (d : Dev) (f : CoreIx → SlotIx → Warp → Option Warp) : (d.mapWarps f).exec = d.exec := rfl
@[simp] theorem mapWarps_mem (d : Dev) (f : CoreIx → SlotIx → Warp → Option Warp) : (d.mapWarps f).mem = d.mem := rfl
@[simp] theorem mapWarps_keys (d : Dev) (f : CoreIx → SlotIx → Warp → Option Warp) : (d.mapWarps f).keys = d.keys := rfl
@[simp] theorem mapWarps_lineKey (d : Dev) (f : CoreIx → SlotIx → Warp → Option Warp) : (d.mapWarps f).lineKey = d.lineKey := rfl
@[simp] theorem mapWarps_tlb (d : Dev) (f : CoreIx → SlotIx → Warp → Option Warp) : (d.mapWarps f).tlb = d.tlb := rfl
@[simp] theorem mapWarps_walks (d : Dev) (f : CoreIx → SlotIx → Warp → Option Warp) : (d.mapWarps f).walks = d.walks := rfl
@[simp] theorem mapWarps_monitors (d : Dev) (f : CoreIx → SlotIx → Warp → Option Warp) : (d.mapWarps f).monitors = d.monitors := rfl
@[simp] theorem mapWarps_requests (d : Dev) (f : CoreIx → SlotIx → Warp → Option Warp) : (d.mapWarps f).requests = d.requests := rfl
@[simp] theorem mapWarps_tlrs (d : Dev) (f : CoreIx → SlotIx → Warp → Option Warp) : (d.mapWarps f).tlrs = d.tlrs := rfl
@[simp] theorem mapWarps_tsrs (d : Dev) (f : CoreIx → SlotIx → Warp → Option Warp) : (d.mapWarps f).tsrs = d.tsrs := rfl
@[simp] theorem mapWarps_ports (d : Dev) (f : CoreIx → SlotIx → Warp → Option Warp) : (d.mapWarps f).ports = d.ports := rfl
@[simp] theorem mapWarps_fns (d : Dev) (f : CoreIx → SlotIx → Warp → Option Warp) : (d.mapWarps f).fns = d.fns := rfl
@[simp] theorem mapWarps_pfkey (d : Dev) (f : CoreIx → SlotIx → Warp → Option Warp) : (d.mapWarps f).pfkey = d.pfkey := rfl
@[simp] theorem mapWarps_peers (d : Dev) (f : CoreIx → SlotIx → Warp → Option Warp) : (d.mapWarps f).peers = d.peers := rfl
@[simp] theorem mapWarps_pwrlim (d : Dev) (f : CoreIx → SlotIx → Warp → Option Warp) : (d.mapWarps f).pwrlim = d.pwrlim := rfl
@[simp] theorem mapWarps_hostLim (d : Dev) (f : CoreIx → SlotIx → Warp → Option Warp) : (d.mapWarps f).hostLim = d.hostLim := rfl
@[simp] theorem mapWarps_fwwin (d : Dev) (f : CoreIx → SlotIx → Warp → Option Warp) : (d.mapWarps f).fwwin = d.fwwin := rfl
@[simp] theorem mapWarps_fwlock (d : Dev) (f : CoreIx → SlotIx → Warp → Option Warp) : (d.mapWarps f).fwlock = d.fwlock := rfl
@[simp] theorem mapWarps_regWrites (d : Dev) (f : CoreIx → SlotIx → Warp → Option Warp) : (d.mapWarps f).regWrites = d.regWrites := rfl
@[simp] theorem mapWarps_errata (d : Dev) (f : CoreIx → SlotIx → Warp → Option Warp) : (d.mapWarps f).errata = d.errata := rfl
@[simp] theorem mapWarps_trace (d : Dev) (f : CoreIx → SlotIx → Warp → Option Warp) : (d.mapWarps f).trace = d.trace := rfl
@[simp] theorem mapWarps_saved (d : Dev) (f : CoreIx → SlotIx → Warp → Option Warp) : (d.mapWarps f).saved = d.saved := rfl
@[simp] theorem mapWarps_clock (d : Dev) (f : CoreIx → SlotIx → Warp → Option Warp) : (d.mapWarps f).clock = d.clock := rfl
@[simp] theorem mapWarps_ptp (d : Dev) (f : CoreIx → SlotIx → Warp → Option Warp) : (d.mapWarps f).ptp = d.ptp := rfl
@[simp] theorem mapWarps_ptpRate (d : Dev) (f : CoreIx → SlotIx → Warp → Option Warp) : (d.mapWarps f).ptpRate = d.ptpRate := rfl
@[simp] theorem mapWarps_ptpDue (d : Dev) (f : CoreIx → SlotIx → Warp → Option Warp) : (d.mapWarps f).ptpDue = d.ptpDue := rfl
@[simp] theorem mapWarps_rotation (d : Dev) (f : CoreIx → SlotIx → Warp → Option Warp) : (d.mapWarps f).rotation = d.rotation := rfl
@[simp] theorem mapWarps_seq (d : Dev) (f : CoreIx → SlotIx → Warp → Option Warp) : (d.mapWarps f).seq = d.seq := rfl
@[simp] theorem mapWarps_draw (d : Dev) (f : CoreIx → SlotIx → Warp → Option Warp) : (d.mapWarps f).draw = d.draw := rfl
@[simp] theorem mapWarps_nextId (d : Dev) (f : CoreIx → SlotIx → Warp → Option Warp) : (d.mapWarps f).nextId = d.nextId := rfl
@[simp] theorem mapWarps_curCore (d : Dev) (f : CoreIx → SlotIx → Warp → Option Warp) : (d.mapWarps f).curCore = d.curCore := rfl
@[simp] theorem mapWarps_curSlot (d : Dev) (f : CoreIx → SlotIx → Warp → Option Warp) : (d.mapWarps f).curSlot = d.curSlot := rfl

/-! ### mapCores -/

@[simp] theorem mapCores_clusters (d : Dev) (f : CoreIx → Core → Core) : (d.mapCores f).clusters = d.clusters := rfl
@[simp] theorem mapCores_tasks (d : Dev) (f : CoreIx → Core → Core) : (d.mapCores f).tasks = d.tasks := rfl
@[simp] theorem mapCores_submissions (d : Dev) (f : CoreIx → Core → Core) : (d.mapCores f).submissions = d.submissions := rfl
@[simp] theorem mapCores_contexts (d : Dev) (f : CoreIx → Core → Core) : (d.mapCores f).contexts = d.contexts := rfl
@[simp] theorem mapCores_exec (d : Dev) (f : CoreIx → Core → Core) : (d.mapCores f).exec = d.exec := rfl
@[simp] theorem mapCores_mem (d : Dev) (f : CoreIx → Core → Core) : (d.mapCores f).mem = d.mem := rfl
@[simp] theorem mapCores_keys (d : Dev) (f : CoreIx → Core → Core) : (d.mapCores f).keys = d.keys := rfl
@[simp] theorem mapCores_lineKey (d : Dev) (f : CoreIx → Core → Core) : (d.mapCores f).lineKey = d.lineKey := rfl
@[simp] theorem mapCores_tlb (d : Dev) (f : CoreIx → Core → Core) : (d.mapCores f).tlb = d.tlb := rfl
@[simp] theorem mapCores_walks (d : Dev) (f : CoreIx → Core → Core) : (d.mapCores f).walks = d.walks := rfl
@[simp] theorem mapCores_monitors (d : Dev) (f : CoreIx → Core → Core) : (d.mapCores f).monitors = d.monitors := rfl
@[simp] theorem mapCores_requests (d : Dev) (f : CoreIx → Core → Core) : (d.mapCores f).requests = d.requests := rfl
@[simp] theorem mapCores_tlrs (d : Dev) (f : CoreIx → Core → Core) : (d.mapCores f).tlrs = d.tlrs := rfl
@[simp] theorem mapCores_tsrs (d : Dev) (f : CoreIx → Core → Core) : (d.mapCores f).tsrs = d.tsrs := rfl
@[simp] theorem mapCores_ports (d : Dev) (f : CoreIx → Core → Core) : (d.mapCores f).ports = d.ports := rfl
@[simp] theorem mapCores_fns (d : Dev) (f : CoreIx → Core → Core) : (d.mapCores f).fns = d.fns := rfl
@[simp] theorem mapCores_pfkey (d : Dev) (f : CoreIx → Core → Core) : (d.mapCores f).pfkey = d.pfkey := rfl
@[simp] theorem mapCores_peers (d : Dev) (f : CoreIx → Core → Core) : (d.mapCores f).peers = d.peers := rfl
@[simp] theorem mapCores_pwrlim (d : Dev) (f : CoreIx → Core → Core) : (d.mapCores f).pwrlim = d.pwrlim := rfl
@[simp] theorem mapCores_hostLim (d : Dev) (f : CoreIx → Core → Core) : (d.mapCores f).hostLim = d.hostLim := rfl
@[simp] theorem mapCores_fwwin (d : Dev) (f : CoreIx → Core → Core) : (d.mapCores f).fwwin = d.fwwin := rfl
@[simp] theorem mapCores_fwlock (d : Dev) (f : CoreIx → Core → Core) : (d.mapCores f).fwlock = d.fwlock := rfl
@[simp] theorem mapCores_regWrites (d : Dev) (f : CoreIx → Core → Core) : (d.mapCores f).regWrites = d.regWrites := rfl
@[simp] theorem mapCores_errata (d : Dev) (f : CoreIx → Core → Core) : (d.mapCores f).errata = d.errata := rfl
@[simp] theorem mapCores_trace (d : Dev) (f : CoreIx → Core → Core) : (d.mapCores f).trace = d.trace := rfl
@[simp] theorem mapCores_saved (d : Dev) (f : CoreIx → Core → Core) : (d.mapCores f).saved = d.saved := rfl
@[simp] theorem mapCores_clock (d : Dev) (f : CoreIx → Core → Core) : (d.mapCores f).clock = d.clock := rfl
@[simp] theorem mapCores_ptp (d : Dev) (f : CoreIx → Core → Core) : (d.mapCores f).ptp = d.ptp := rfl
@[simp] theorem mapCores_ptpRate (d : Dev) (f : CoreIx → Core → Core) : (d.mapCores f).ptpRate = d.ptpRate := rfl
@[simp] theorem mapCores_ptpDue (d : Dev) (f : CoreIx → Core → Core) : (d.mapCores f).ptpDue = d.ptpDue := rfl
@[simp] theorem mapCores_rotation (d : Dev) (f : CoreIx → Core → Core) : (d.mapCores f).rotation = d.rotation := rfl
@[simp] theorem mapCores_seq (d : Dev) (f : CoreIx → Core → Core) : (d.mapCores f).seq = d.seq := rfl
@[simp] theorem mapCores_draw (d : Dev) (f : CoreIx → Core → Core) : (d.mapCores f).draw = d.draw := rfl
@[simp] theorem mapCores_nextId (d : Dev) (f : CoreIx → Core → Core) : (d.mapCores f).nextId = d.nextId := rfl
@[simp] theorem mapCores_curCore (d : Dev) (f : CoreIx → Core → Core) : (d.mapCores f).curCore = d.curCore := rfl
@[simp] theorem mapCores_curSlot (d : Dev) (f : CoreIx → Core → Core) : (d.mapCores f).curSlot = d.curSlot := rfl

end Sys2Proof.Machine.Dev
end

