-- ==== Sys2Proof/Laws/Slots.lean ====
section
/-! SUPPORT. Reads of cores, slots, clusters, functions and ports after updates of the same or of another one. -/

namespace Sys2Proof.Machine.Dev

@[simp] theorem core_putCore_same (d : Dev) (k : CoreIx) (c : Core) : (d.putCore k c).core k = c := by
  simp [core, putCore]

theorem core_putCore_other (d : Dev) {k j : CoreIx} (h : j ≠ k) (c : Core) : (d.putCore k c).core j = d.core j := by
  simp only [core, putCore]
  exact Sparse.get_put_other _ (by simpa [Fin.ext_iff] using h) _ _

@[simp] theorem core_modCore_same (d : Dev) (k : CoreIx) (f : Core → Core) : (d.modCore k f).core k = f (d.core k) := by
  simp [modCore]

theorem core_modCore_other (d : Dev) {k j : CoreIx} (h : j ≠ k) (f : Core → Core) : (d.modCore k f).core j = d.core j :=
  core_putCore_other d h _

@[simp] theorem slot_putSlot_same (d : Dev) (k : CoreIx) (j : SlotIx) (w : Option Warp) : (d.putSlot k j w).slot k j = w := by
  simp [slot, putSlot]

theorem slot_putSlot_other (d : Dev) {k k' : CoreIx} {j j' : SlotIx} (h : (k', j') ≠ (k, j)) (w : Option Warp) :
    (d.putSlot k j w).slot k' j' = d.slot k' j' := by
  by_cases hk : k' = k
  · subst hk
    have hj : j.val ≠ j'.val := fun e => h (by rw [Fin.ext e])
    simp [slot, putSlot, Vector.getElem_set_ne, hj]
  · exact congrArg (fun c : Core => c.slots[j'.val]) (core_modCore_other d hk _)

@[simp] theorem slot_putWarp_same (d : Dev) (k : CoreIx) (j : SlotIx) (w : Warp) : (d.putWarp k j w).slot k j = some w :=
  slot_putSlot_same d k j _

theorem slot_putWarp_other (d : Dev) {k k' : CoreIx} {j j' : SlotIx} (h : (k', j') ≠ (k, j)) (w : Warp) :
    (d.putWarp k j w).slot k' j' = d.slot k' j' := slot_putSlot_other d h _

@[simp] theorem putCore_putCore (d : Dev) (k : CoreIx) (c e : Core) : (d.putCore k c).putCore k e = d.putCore k e := by
  simp [putCore]

theorem putWarp_putWarp (d : Dev) (k : CoreIx) (j : SlotIx) (w w' : Warp) :
    (d.putWarp k j w).putWarp k j w' = d.putWarp k j w' := by
  simp [putWarp, putSlot, modCore]

theorem modWarp_of_some {d : Dev} {k : CoreIx} {j : SlotIx} {w : Warp} (h : d.slot k j = some w) (f : Warp → Warp) :
    d.modWarp k j f = d.putWarp k j (f w) := by simp [modWarp, h]

theorem modWarp_of_none {d : Dev} {k : CoreIx} {j : SlotIx} (h : d.slot k j = none) (f : Warp → Warp) :
    d.modWarp k j f = d := by simp [modWarp, h]

theorem slot_modWarp_same (d : Dev) (k : CoreIx) (j : SlotIx) (f : Warp → Warp) :
    (d.modWarp k j f).slot k j = (d.slot k j).map f := by
  unfold modWarp
  split <;> rename_i h <;> simp [h]

theorem slot_modWarp_other (d : Dev) {k k' : CoreIx} {j j' : SlotIx} (h : (k', j') ≠ (k, j)) (f : Warp → Warp) :
    (d.modWarp k j f).slot k' j' = d.slot k' j' := by
  unfold modWarp
  split
  · exact slot_putWarp_other d h _
  · rfl

/-- A change of a core that keeps its slots keeps every slot. -/
theorem slot_modCore (d : Dev) (k : CoreIx) {f : Core → Core} (hf : (f (d.core k)).slots = (d.core k).slots)
    (k' : CoreIx) (j' : SlotIx) : (d.modCore k f).slot k' j' = d.slot k' j' := by
  by_cases hk : k' = k
  · subst hk; simp [slot, hf]
  · exact congrArg (fun c : Core => c.slots[j'.val]) (core_modCore_other d hk _)

@[simp] theorem slot_modFn (d : Dev) (f : FnIx) (g : Function → Function) (k : CoreIx) (j : SlotIx) :
    (d.modFn f g).slot k j = d.slot k j := rfl
@[simp] theorem slot_modCluster (d : Dev) (c : ClusterIx) (g : Cluster → Cluster) (k : CoreIx) (j : SlotIx) :
    (d.modCluster c g).slot k j = d.slot k j := rfl
@[simp] theorem slot_modPort (d : Dev) (p : PortIx) (g : Port → Port) (k : CoreIx) (j : SlotIx) :
    (d.modPort p g).slot k j = d.slot k j := rfl
@[simp] theorem slot_modTask (d : Dev) (t : Nat) (g : Task → Task) (k : CoreIx) (j : SlotIx) :
    (d.modTask t g).slot k j = d.slot k j := rfl
@[simp] theorem slot_putContext (d : Dev) (c : CtxIx) (x : Context) (k : CoreIx) (j : SlotIx) :
    (d.putContext c x).slot k j = d.slot k j := rfl
@[simp] theorem slot_putByte (d : Dev) (a : Nat) (b : Byte) (k : CoreIx) (j : SlotIx) :
    (d.putByte a b).slot k j = d.slot k j := rfl

@[simp] theorem cluster_modCluster_same (d : Dev) (c : ClusterIx) (f : Cluster → Cluster) :
    (d.modCluster c f).cluster c = f (d.cluster c) := by simp [cluster, modCluster]

theorem cluster_modCluster_other (d : Dev) {c e : ClusterIx} (h : e ≠ c) (f : Cluster → Cluster) :
    (d.modCluster c f).cluster e = d.cluster e := by
  have : c.val ≠ e.val := fun x => h (Fin.ext x.symm)
  simp [cluster, modCluster, Vector.getElem_set_ne, this]

@[simp] theorem fn_modFn_same (d : Dev) (c : FnIx) (f : Function → Function) : (d.modFn c f).fn c = f (d.fn c) := by
  simp [fn, modFn]

theorem fn_modFn_other (d : Dev) {c e : FnIx} (h : e ≠ c) (f : Function → Function) : (d.modFn c f).fn e = d.fn e := by
  have : c.val ≠ e.val := fun x => h (Fin.ext x.symm)
  simp [fn, modFn, Vector.getElem_set_ne, this]

@[simp] theorem port_modPort_same (d : Dev) (c : PortIx) (f : Port → Port) : (d.modPort c f).port c = f (d.port c) := by
  simp [port, modPort]

theorem port_modPort_other (d : Dev) {c e : PortIx} (h : e ≠ c) (f : Port → Port) : (d.modPort c f).port e = d.port e := by
  have : c.val ≠ e.val := fun x => h (Fin.ext x.symm)
  simp [port, modPort, Vector.getElem_set_ne, this]

@[simp] theorem context_putContext_same (d : Dev) (c : CtxIx) (x : Context) : (d.putContext c x).context c = some x := by
  simp [context, putContext]

@[simp] theorem rawByte_putByte_same (d : Dev) (a : Nat) (b : Byte) : (d.putByte a b).rawByte a = b := by
  simp [rawByte, putByte]

theorem rawByte_putByte_other (d : Dev) {a e : Nat} (h : e ≠ a) (b : Byte) : (d.putByte a b).rawByte e = d.rawByte e :=
  Sparse.get_set_other _ h _ _

end Sys2Proof.Machine.Dev
end

