-- ==== Sys2Proof/Laws/Issue.lean ====
section
/-! SUPPORT. Everything that the issue of an instruction can do: one lemma for each answer of a meaning. -/

namespace Sys2Proof.Machine

open Sys2Proof

/-- A warp with the marks of its issue. -/
def Warp.marked (w : Warp) (at_ n : Nat) (h : List Hazard) (y : Bool) : Warp :=
  { w with
    age := 0, issuedAt := some at_, nextIssue := n, readyAt := none, walked := [], flushing := [], hazards := h, yielded := y }

/-- An instruction that issues is settled from what its meaning answers, which waits where it lacks a page walk. -/
theorem issue_of_issues {s : State} {i : Instr} {c : Ctl} {w : Warp} (h : s.Issues i c w) (imm : Word) (f : Site → Act) :
    issue i c imm f s = .next (s.onDev fun d =>
      d.settleAct s.dev.curCore s.dev.curSlot w i c (Dev.participants w c) ((s.site c imm w).orWalk (f (s.site c imm w)))) := by
  have hs : s.dev.siteAt s.dev.curCore s.dev.curSlot w i c imm = s.site c imm w := by
    simp [Dev.siteAt, State.site, h.sees]
  have hp : (s.site c imm w).p = Dev.participants w c := rfl
  have ha : Site.act (s.site c imm w) i f = (s.site c imm w).orWalk (f (s.site c imm w)) := by
    unfold Site.act; rw [if_neg]; rw [hp]; exact h.lanes
  unfold issue
  rw [h.here]
  simp only [h.on, h.may, h.pipe, hs, ha, Bool.not_true, Bool.or_self, Bool.false_eq_true, if_false]
  rfl

/-- A warp outside its slot's turn neither issues nor changes. -/
theorem issue_of_not {s : State} {i : Instr} {c : Ctl} {w : Warp} (on : s.board.on = true)
    (here : s.dev.slot s.dev.curCore s.dev.curSlot = some w)
    (h : s.dev.canIssue w i c = false ∨ s.dev.pipeOpen s.dev.curCore s.dev.curSlot = false) (imm : Word) (f : Site → Act) :
    issue i c imm f s = .next s := by
  unfold issue
  rw [here]
  rcases h with h | h <;> simp [on, h]

namespace Dev

/-- In interlocked mode a read sees every earlier result (R39). -/
theorem sees_interlocked {d : Dev} {w : Warp} (h : d.interlocked w = true) (i : Instr) : d.sees w i = (w, [], d) := by
  unfold sees; rw [if_pos h]

/-- Where no result and no load is under way, a read sees the registers as they are (R38). -/
theorem sees_calm (d : Dev) {w : Warp} (h : w.hazards = []) (hl : w.loads = []) (i : Instr) : d.sees w i = (w, [], d) := by
  unfold sees hazardView lateLoads
  simp [h, hl]

theorem emit_quiet (d : Dev) (cl core slot : Nat) (ser : Word) (x : BitVec 128)
    (h : ∀ t, d.trace = some t → t.cats.getLsbD 1 = false) : d.emit cl core slot ser [(1, x)] = d := by
  unfold emit
  cases ht : d.trace with
  | none => rfl
  | some t =>
    simp only [List.head?_cons, h t ht]
    cases t.closed <;> rfl

theorem trace_issueMark (d : Dev) (k : CoreIx) (j : SlotIx) (w : Warp) (i : Instr) (c : Ctl) (p : Mask) :
    (d.issueMark k j w i c p).trace = d.trace := by
  simp only [issueMark, count, countFn, modFn_trace, modCore, putCore_trace, modWarp]
  split <;> simp [putWarp, putSlot, modCore]

/-- What an issue writes besides its instruction's effect, where no record is captured. -/
theorem issued_quiet (d : Dev) (k : CoreIx) (j : SlotIx) (w : Warp) (i : Instr) (c : Ctl) (p : Mask)
    (h : ∀ t, d.trace = some t → c.stop = false ∨ t.cats.getLsbD 1 = false) :
    d.issued k j w i c p = d.issueMark k j w i c p := by
  unfold issued
  split
  · rename_i hc
    split
    · exact emit_quiet _ _ _ _ _ _ fun t ht =>
        (h t (trace_issueMark d k j w i c p ▸ ht)).resolve_left (by simp [hc])
    · rfl
  · rfl

theorem fn_countFn (d : Dev) (f g : FnIx) (e n : Nat) :
    (d.countFn f e n).fn g = { d.fn g with counts := ((d.countFn f e n).fn g).counts } := by
  by_cases h : g = f
  · subst h; simp [countFn]
  · simp [countFn, fn_modFn_other d h]

/-- The issue marks the warp in its slot, the pipe and the counts. -/
theorem issueMark_of_some {d : Dev} {k : CoreIx} {j : SlotIx} {w' : Warp} (here : d.slot k j = some w') (w : Warp)
    (i : Instr) (c : Ctl) (p : Mask) : ∃ next hazards yielded busy, d.issueMark k j w i c p =
      (((d.putWarp k j (w'.marked d.clock next hazards yielded)).modCore k
        fun x => { x with busy := x.busy.set (j.val % 8) busy, icache := useLine x.icache w.ctx w.pc.toNat }).count w.ctx 3 1).count
          w.ctx 4 (popCount p) := by
  unfold issueMark
  simp only
  rw [modWarp_of_some here]
  exact ⟨_, _, _, _, rfl⟩

/-- What stands after the issue of an instruction that has left the die `d` and the warp `w'` in its slot. -/
theorem issued_stands (s : State) {d : Dev} (w w' : Warp) (i : Instr) (c : Ctl) (p : Mask)
    (here : d.slot s.dev.curCore s.dev.curSlot = some w')
    (h : ∀ t, d.trace = some t → c.stop = false ∨ t.cats.getLsbD 1 = false) :
    s.Stands d w' (s.onDev fun _ => d.issued s.dev.curCore s.dev.curSlot w i c p) := by
  obtain ⟨n, hz, y, b, e⟩ := issueMark_of_some here w i c p
  rw [issued_quiet d _ _ w i c p h, e]
  have hcore : ∀ (x : Dev) f g k, (x.modFn f g).core k = x.core k := fun _ _ _ _ => rfl
  constructor
  · rfl
  · rfl
  · rfl
  · refine ⟨n, hz, y, ?_⟩
    simp only [State.onDev, count, countFn, slot_modFn]
    rw [slot_modCore _ _ (by rfl)]
    simp [Warp.marked]
  · intro k j hkj
    simp only [State.onDev, count, countFn, slot_modFn]
    rw [slot_modCore _ _ (by rfl), slot_putWarp_other _ hkj]
  · intro k
    simp only [State.onDev, count, countFn, hcore]
    by_cases hk : k = s.dev.curCore
    · subst hk
      simp [putWarp, putSlot]
    · rw [core_modCore_other _ hk, putWarp, putSlot, core_modCore_other _ hk]
  · intro f
    simp only [State.onDev, count]
    rw [fn_countFn, fn_countFn]
    rfl
  · simp only [State.onDev]
    rfl

end Dev

/-! ### The warp's last update -/

namespace Warp

theorem pathEnd_marked (w : Warp) (a n : Nat) (h : List Hazard) (y : Bool) :
    (w.marked a n h y).pathEnd = w.pathEnd.marked a n h y := by
  have e : popPath (w.marked a n h y).x (w.marked a n h y).stack = popPath w.x w.stack := rfl
  unfold pathEnd
  rw [e]
  cases popPath w.x w.stack <;> rfl

theorem settlePath_marked (m : Nat) (w : Warp) (a n : Nat) (h : List Hazard) (y : Bool) :
    settlePath m (w.marked a n h y) = (settlePath m w).marked a n h y := by
  induction m generalizing w with
  | zero => rfl
  | succ m ih =>
    have e1 : (w.marked a n h y).m = w.m := rfl
    have e2 : (w.marked a n h y).stack = w.stack := rfl
    have e3 : (w.marked a n h y).jpc = w.jpc := rfl
    have e4 : (w.marked a n h y).pc = w.pc := rfl
    simp only [settlePath, e1, e2, e3, e4, pathEnd_marked, ih]
    split <;> split <;> rfl

theorem finish_marked (w : Warp) (a n : Nat) (h : List Hazard) (y : Bool) :
    (w.marked a n h y).finish = w.finish.marked a n h y := by
  unfold finish toPc
  exact settlePath_marked 32 { { w with wait := none, skip := 0, pass := false } with pc := Dev.nextPc w.pc } a n h y

/-- Two warps on the same path. -/
def SamePath (w w' : Warp) : Prop := w'.pc = w.pc ∧ w'.m = w.m ∧ w'.x = w.x ∧ w'.stack = w.stack

theorem SamePath.pathEnd {w w' : Warp} (h : SamePath w w') : SamePath w.pathEnd w'.pathEnd := by
  obtain ⟨h1, h2, h3, h4⟩ := h
  unfold Warp.pathEnd
  rw [h3, h4]
  split <;> simp [SamePath, h1]

theorem SamePath.settlePath {w w' : Warp} (h : SamePath w w') (m : Nat) : SamePath (settlePath m w) (settlePath m w') := by
  induction m generalizing w w' with
  | zero => exact h
  | succ m ih =>
    have hj : w'.jpc = w.jpc := by unfold jpc; rw [h.2.2.2]
    simp only [Warp.settlePath, h.2.1, h.2.2.2, hj, h.1]
    split
    · split
      · exact h
      · exact ih h.pathEnd
    · split
      · exact ih h.pathEnd
      · exact h

theorem SamePath.finish {w w' : Warp} (h : SamePath w w') : SamePath w.finish w'.finish := by
  unfold Warp.finish toPc
  refine SamePath.settlePath (w := { { w with wait := none, skip := 0, pass := false } with pc := Dev.nextPc w.pc })
    (w' := { { w' with wait := none, skip := 0, pass := false } with pc := Dev.nextPc w'.pc }) ?_ 32
  exact ⟨by rw [h.1], h.2.1, h.2.2.1, h.2.2.2⟩

theorem SamePath.isOver {w w' : Warp} (h : SamePath w w') : w'.isOver = w.isOver := by
  unfold Warp.isOver; rw [h.2.1, h.2.2.2]

end Warp

/-- The last update of the warp in the current slot. -/
theorem State.Stands.modWarp {s t : State} {d : Dev} {w : Warp} (h : s.Stands d w t) (g : Warp → Warp)
    (hg : ∀ a n h y, g (w.marked a n h y) = (g w).marked a n h y) :
    s.Stands d (g w) (t.onDev fun e => e.modWarp s.dev.curCore s.dev.curSlot g) := by
  obtain ⟨n, hz, y, hh⟩ := h.here
  have e : t.dev.modWarp s.dev.curCore s.dev.curSlot g = t.dev.putWarp s.dev.curCore s.dev.curSlot ((g w).marked d.clock n hz y) := by
    rw [Dev.modWarp_of_some hh]; exact congrArg _ (hg d.clock n hz y)
  unfold State.onDev
  simp only [e]
  constructor
  · exact h.board
  · exact h.sched
  · exact h.replies
  · exact ⟨n, hz, y, by simp [Warp.marked]⟩
  · intro k j hkj
    rw [Dev.slot_putWarp_other _ hkj]; exact h.slots k j hkj
  · intro k
    have := h.cores k
    by_cases hk : k = s.dev.curCore
    · subst hk
      simp only [Dev.putWarp, Dev.putSlot, Dev.core_modCore_same]
      rw [this]
    · rw [Dev.putWarp, Dev.putSlot, Dev.core_modCore_other _ hk]; exact this
  · exact h.fns
  · show t.dev.putWarp _ _ _ = _
    have := h.rest
    rw [Dev.putWarp, Dev.putSlot, Dev.modCore, Dev.putCore]
    rw [this]

/-- What stands does not depend on what the current slot held before. -/
theorem State.Stands.of_put {s t : State} {d : Dev} {w w' : Warp}
    (h : s.Stands (d.putWarp s.dev.curCore s.dev.curSlot w') w t) : s.Stands d w t := by
  constructor
  · exact h.board
  · exact h.sched
  · exact h.replies
  · exact h.here
  · intro k j hkj
    rw [h.slots k j hkj, Dev.slot_putWarp_other _ hkj]
  · intro k
    have := h.cores k
    by_cases hk : k = s.dev.curCore
    · subst hk
      rw [this]
      simp [Dev.putWarp, Dev.putSlot]
    · rw [Dev.putWarp, Dev.putSlot, Dev.core_modCore_other _ hk] at this
      exact this
  · exact h.fns
  · exact h.rest

/-- The warp that the current slot holds. -/
theorem State.Stands.slot {s t : State} {d : Dev} {w : Warp} (h : s.Stands d w t) :
    ∃ n hz y, t.dev.slot s.dev.curCore s.dev.curSlot = some (w.marked d.clock n hz y) := h.here

/-! ### What comes of each answer -/

variable {s : State} {i : Instr} {c : Ctl} {w w' : Warp} {imm : Word} {f : Site → Act} {d : Dev}

/-- An instruction that answers `done` completes. -/
theorem issue_done' (h : s.Issues i c w) (hn : s.dev.seqFault s.dev.curCore w = none) (hq : s.Quiet c) (htr : d.trace = s.dev.trace)
    (hp : w'.finish.isOver = false) (here : d.slot s.dev.curCore s.dev.curSlot = some w') (e : f (s.site c imm w) = .done d) :
    ∃ t, issue i c imm f s = .next t ∧ s.Stands d w'.finish t := by
  rw [issue_of_issues h imm f, e]
  refine ⟨_, rfl, ?_⟩
  have hs := Dev.issued_stands s w w' i c (Dev.participants w c) here (by
    intro t ht; exact hq t (by rw [← htr]; exact ht))
  have hs' := hs.modWarp Warp.finish (Warp.finish_marked w')
  obtain ⟨n, hz, y, hh⟩ := hs'.slot
  have hover : (w'.finish.marked d.clock n hz y).isOver = false := by
    rw [← hp]; exact Warp.SamePath.isOver (w := w'.finish) ⟨rfl, rfl, rfl, rfl⟩
  have : (s.onDev fun d0 => d0.settleAct s.dev.curCore s.dev.curSlot w i c (Dev.participants w c)
      (.done d)) =
      ((s.onDev fun _ => d.issued s.dev.curCore s.dev.curSlot w i c
        (Dev.participants w c)).onDev fun e => e.modWarp s.dev.curCore s.dev.curSlot Warp.finish) := by
    simp only [State.onDev, Dev.settleAct, hn, Dev.stepPast]
    congr 1
    unfold Dev.closeWarp
    have hh' : Dev.slot (((d.issued s.dev.curCore s.dev.curSlot w i c
        (Dev.participants w c))).modWarp s.dev.curCore s.dev.curSlot Warp.finish) s.dev.curCore s.dev.curSlot = _ := hh
    rw [hh']
    simp [hover]
  exact (congrArg (s.Stands d w'.finish) this).mpr hs'

/-- An instruction that answers `done` and leaves its warp on its path completes. -/
theorem issue_done (h : s.Issues i c w) (hf : s.Follows c w) (htr : d.trace = s.dev.trace) (hp : Warp.SamePath w w')
    (here : d.slot s.dev.curCore s.dev.curSlot = some w') (e : f (s.site c imm w) = .done d) :
    ∃ t, issue i c imm f s = .next t ∧ s.Stands d w'.finish t :=
  issue_done' h hf.fetch hf.quiet htr (hp.finish.isOver.trans hf.runs) here e

/-- An instruction that answers `goto` completes where its meaning has put the warp. -/
theorem issue_goto (h : s.Issues i c w) (hf : s.Quiet c) (htr : d.trace = s.dev.trace) (hp : w'.isOver = false)
    (here : d.slot s.dev.curCore s.dev.curSlot = some w') (e : f (s.site c imm w) = .goto d) :
    ∃ t, issue i c imm f s = .next t ∧ s.Stands d w' t := by
  rw [issue_of_issues h imm f, e]
  have hs := Dev.issued_stands s w w' i c (Dev.participants w c) here (by
    intro t ht; exact hf t (by rw [← htr]; exact ht))
  obtain ⟨n, hz, y, hh⟩ := hs.slot
  have hover : (w'.marked d.clock n hz y).isOver = false := hp
  refine ⟨_, rfl, ?_⟩
  have : (s.onDev fun d0 => d0.settleAct s.dev.curCore s.dev.curSlot w i c (Dev.participants w c)
      (.goto d)) =
      (s.onDev fun _ => d.issued s.dev.curCore s.dev.curSlot w i c
        (Dev.participants w c)) := by
    simp only [State.onDev, Dev.settleAct]
    congr 1
    unfold Dev.closeWarp
    have hh' : Dev.slot ((d.issued s.dev.curCore s.dev.curSlot w i c
        (Dev.participants w c))) s.dev.curCore s.dev.curSlot = _ := hh
    rw [hh']
    simp [hover]
  exact (congrArg (s.Stands d w') this).mpr hs

/-- An instruction that answers `fault` takes the fault, where no lane lacks a page walk. -/
theorem issue_fault {x : FaultInfo} (h : s.Issues i c w) (hx : x.walks = []) (ha : x.afterAtomic = false)
    (e : f (s.site c imm w) = .fault s.dev x) :
    issue i c imm f s = .next (s.onDev fun d =>
      let e := d.issued d.curCore d.curSlot w i c (Dev.participants w c)
      e.takeFault d.curCore d.curSlot ((e.slot d.curCore d.curSlot).getD w) x) := by
  rw [issue_of_issues h imm f, e]
  simp [State.onDev, Dev.settleAct, Site.orWalk, hx, ha]

/-- An instruction that answers `wait` stands at its instruction until another step completes it. -/
theorem issue_wait {why : Wait} (h : s.Issues i c w) (hf : s.Follows c w) (htr : d.trace = s.dev.trace)
    (here : d.slot s.dev.curCore s.dev.curSlot = some w') (e : f (s.site c imm w) = .wait d why) :
    ∃ t, issue i c imm f s = .next t ∧ s.Stands d { w' with wait := some why } t := by
  rw [issue_of_issues h imm f, e]
  have hs := Dev.issued_stands s w w' i c (Dev.participants w c) here (by
    intro t ht; exact hf.quiet t (by rw [← htr]; exact ht))
  refine ⟨_, rfl, ?_⟩
  have e : (s.onDev fun d0 => d0.settleAct s.dev.curCore s.dev.curSlot w i c (Dev.participants w c)
      (.wait d why)) =
      ((s.onDev fun _ => d.issued s.dev.curCore s.dev.curSlot w i c
        (Dev.participants w c)).onDev fun e =>
          e.modWarp s.dev.curCore s.dev.curSlot fun x => { x with wait := some why }) := by
    simp only [State.onDev, Dev.settleAct, hf.fetch]
  exact (congrArg (s.Stands d { w' with wait := some why }) e).mpr
    (hs.modWarp (fun x => { x with wait := some why }) fun _ _ _ _ => rfl)

end Sys2Proof.Machine
end

