-- ==== Sys2Proof/Laws/Memory.lean ====
section
/-! SUPPORT. Every operation on physical memory keeps its canonical form (log 5); what each leaves of the rest of the die. -/

namespace Sys2Proof.Machine

/-- The reset memory has the canonical form. -/
theorem reset_memory_wf : Memory.wf State.reset.dev.mem = true := rfl

namespace Dev

@[simp] theorem mem_trigger (d : Dev) (l : Loc) (b : Bool) : (d.trigger l b).mem = d.mem := by
  unfold trigger; rw [apply_ite Dev.mem]; exact ite_self _

@[simp] theorem mem_triggers (d : Dev) (f : Nat → Loc) (b : Bool) (ns : List Nat) :
    (ns.foldl (fun d i => d.trigger (f i) b) d).mem = d.mem := by
  induction ns generalizing d with
  | nil => rfl
  | cons n t ih => exact (ih _).trans (mem_trigger _ _ _)

@[simp] theorem mem_triggerAll (d : Dev) (pa n : Nat) (b : Bool) : (d.triggerAll pa n b).mem = d.mem := mem_triggers _ _ _ _

theorem mem_putByte (d : Dev) (pa : Nat) (b : Byte) : (d.putByte pa b).mem = Sparse.set (0 : Byte) pa b d.mem := rfl

theorem wf_set {m : List Host.Cell} (h : Memory.wf m = true) (pa : Nat) (b : Byte) :
    Memory.wf (Sparse.set (0 : Byte) pa b m) = true := Sparse.wf_set (0 : Byte) pa b h

theorem wf_setList {m : List Host.Cell} (h : Memory.wf m = true) (pa : Nat) (bs : List Byte) :
    Memory.wf (Sparse.setList (0 : Byte) pa bs m) = true := Sparse.wf_setList (0 : Byte) pa bs h

theorem wf_putByte {d : Dev} (h : Memory.wf d.mem = true) (pa : Nat) (b : Byte) : Memory.wf (d.putByte pa b).mem = true  := by
  rw [mem_putByte]; exact wf_set h pa b

theorem wf_rekey {d : Dev} (h : Memory.wf d.mem = true) (key : BitVec 10) (pa : Nat) :
    Memory.wf (d.rekey key pa).mem = true := by
  unfold rekey
  split
  · exact h
  · exact wf_setList h _ _

/-- What a write of a byte can do to the memory: nothing, or it stores the byte, in a line that may have been rewritten under its
key first. -/
theorem mem_writePa (d : Dev) (key : BitVec 10) (pa : Nat) (b : Byte) :
    (d.writePa key pa b).mem = d.mem ∨ (d.writePa key pa b).mem = (d.putByte pa b).mem ∨
      (d.writePa key pa b).mem = ((d.rekey key pa).putByte pa b).mem := by
  simp only [writePa]
  cases paKind pa
  case regs => simp only; split <;> exact .inl rfl
  case dram =>
    simp only; split
    · exact .inl rfl
    · exact .inr (.inr (mem_trigger _ _ _))
  all_goals exact .inr (.inl (mem_trigger _ _ _))

/-- A write of a byte at its home keeps the form. -/
theorem wf_writePa {d : Dev} (h : Memory.wf d.mem = true) (key : BitVec 10) (pa : Nat) (b : Byte) :
    Memory.wf (d.writePa key pa b).mem = true := by
  rcases mem_writePa d key pa b with e | e | e <;> rw [e]
  · exact h
  · exact wf_putByte h pa b
  · exact wf_putByte (wf_rekey h key pa) pa b

theorem wf_writeBytes {d : Dev} (h : Memory.wf d.mem = true) (key : BitVec 10) (pa : Nat) (bs : List Byte) :
    Memory.wf (d.writeBytes key pa bs).mem = true := by
  induction bs generalizing d pa with
  | nil => exact h
  | cons b bs ih => exact ih (wf_writePa h key pa b) (pa + 1)

theorem wf_putRaw {d : Dev} (h : Memory.wf d.mem = true) (pa : Nat) (bs : List Byte) :
    Memory.wf (d.putRaw pa bs).mem = true := by
  unfold putRaw
  split
  · exact h
  · rw [mem_triggerAll]; exact wf_setList h _ _

theorem wf_writeLoc {d : Dev} (h : Memory.wf d.mem = true) (l : Loc) (key : BitVec 10) (b : Byte) :
    Memory.wf (d.writeLoc l key b).mem = true := by
  cases l with
  | phys pa => exact wf_writePa h key pa b
  | bank k off => exact (congrArg Memory.wf (mem_trigger _ _ _)).trans h

theorem wf_sendTo {d : Dev} (h : Memory.wf d.mem = true) (key : BitVec 10) (pa : Nat) (bs : List Byte) :
    Memory.wf (d.sendTo key pa bs).mem = true := by
  unfold sendTo
  split
  · exact wf_writeBytes h key pa bs
  · split <;> exact h

theorem wf_foldl {α : Type} {f : Dev → α → Dev} (hf : ∀ d a, Memory.wf d.mem = true → Memory.wf (f d a).mem = true)
    {d : Dev} (h : Memory.wf d.mem = true) (as : List α) : Memory.wf (as.foldl f d).mem = true := by
  induction as generalizing d with
  | nil => exact h
  | cons a t ih => exact ih (hf d a h)

theorem wf_putVa {d : Dev} (h : Memory.wf d.mem = true) (c : CtxIx) (va : Nat) (bs : List Byte) :
    Memory.wf (d.putVa c va bs).mem = true := by
  refine wf_foldl (fun d i h => ?_) h _
  split
  · exact wf_sendTo h _ _ _
  · exact h

theorem wf_flushPort {d : Dev} (h : Memory.wf d.mem = true) (p : PortIx) : Memory.wf (d.flushPort p).mem = true :=
  wf_foldl (fun _ _ h => wf_foldl (fun _ b h => wf_writePa h 0 b.1 b.2) h _) h _

/-- Cold reset keeps the cells outside the module alone, in the form. -/
theorem wf_filter {m : List Host.Cell} (p : Host.Cell → Bool) {lo : Nat} (h : Sparse.wfFrom (0 : Byte) lo m = true) :
    Sparse.wfFrom (0 : Byte) lo (m.filter p) = true := by
  induction m generalizing lo with
  | nil => rfl
  | cons c t ih =>
    obtain ⟨k, v⟩ := c
    simp only [Sparse.wfFrom, Bool.and_eq_true, decide_eq_true_eq] at h
    rw [List.filter_cons]
    split
    · simp only [Sparse.wfFrom, Bool.and_eq_true, decide_eq_true_eq]
      exact ⟨h.1, ih h.2⟩
    · exact Sparse.wfFrom_mono _ (Nat.le_succ_of_le h.1.1) (ih h.2)

theorem wf_bringUpStep {d : Dev} (h : Memory.wf d.mem = true) (n : Nat) : Memory.wf (d.bringUpStep n).mem = true := by
  unfold bringUpStep
  split
  · exact wf_filter _ h
  · exact h
  · exact h
  · exact h

theorem wf_unpowered {d : Dev} (h : Memory.wf d.mem = true) : Memory.wf d.unpowered.mem = true := wf_filter _ h

end Dev

/-! ### Steps of other agents -/

/-- A step of another agent goes on with the die that it makes of the die, where the module is on. -/
theorem agent_on {s : State} (on : s.board.on = true) (f : Dev → Dev) : agent f s = .next { s with dev := f s.dev } := by
  unfold agent; rw [on]; rfl

theorem agent_off {s : State} (off : s.board.on = false) (f : Dev → Dev) : agent f s = .fault .moduleOff := by
  unfold agent; rw [off]; rfl

/-- A write of the host to a register page arrives where port 0 is up. -/
theorem hostStep_on {s : State} (on : s.board.on = true) (f : Dev → Dev) :
    hostStep f s = .next { s with dev := if (s.dev.port 0).up then f s.dev else s.dev } := by
  have : s.board.answers = true := by
    have h : s.board.stage = 8 := beq_iff_eq.mp on
    unfold Board.answers; rw [h]; rfl
  unfold hostStep; rw [this]; rfl

/-- A step of another agent changes neither the board nor the schedule nor the answers. -/
theorem agent_rest {s t : State} {f : Dev → Dev} (h : agent f s = .next t) :
    t.board = s.board ∧ t.sched = s.sched ∧ t.replies = s.replies ∧ t.dev = f s.dev := by
  unfold agent at h
  split at h
  · cases h
  · cases h; exact ⟨rfl, rfl, rfl, rfl⟩

end Sys2Proof.Machine
end

