-- ==== Sys2Proof/Laws/Path.lean ====
section
/-! SUPPORT. Writes of registers keep the warp's path; how a meaning on registers alone completes. -/

namespace Sys2Proof.Machine

open Sys2Proof

theorem Warp.SamePath.setV (w : Warp) (r p f t) : Warp.SamePath w (w.setV r p f t) := ⟨rfl, rfl, rfl, rfl⟩
theorem Warp.SamePath.setW (w : Warp) (r x t) : Warp.SamePath w (w.setW r x t) := ⟨rfl, rfl, rfl, rfl⟩
theorem Warp.SamePath.refl (w : Warp) : Warp.SamePath w w := ⟨rfl, rfl, rfl, rfl⟩
theorem Warp.SamePath.trans {a b c : Warp} (h : Warp.SamePath a b) (g : Warp.SamePath b c) : Warp.SamePath a c :=
  ⟨g.1.trans h.1, g.2.1.trans h.2.1, g.2.2.1.trans h.2.2.1, g.2.2.2.trans h.2.2.2⟩
theorem Warp.SamePath.setDst (w : Warp) (d i p f t) : Warp.SamePath w (w.setDst d i p f t) := by
  unfold Warp.setDst
  split
  · split
    · exact .refl w
    · exact .setV ..
  · split
    · exact .setW ..
    · exact .refl w
  · exact .refl w
theorem Warp.SamePath.setPair (w : Warp) (d p f t) : Warp.SamePath w (w.setPair d p f t) :=
  (Warp.SamePath.setDst ..).trans (.setDst ..)
theorem Warp.SamePath.setStar (w : Warp) (b d p f t) : Warp.SamePath w (w.setStar b d p f t) := by
  unfold Warp.setStar
  split
  · exact .setPair ..
  · exact .setDst ..
theorem Warp.SamePath.setPred (w : Warp) (d p f) : Warp.SamePath w (w.setPred d p f) := by
  unfold Warp.setPred
  split
  · exact ⟨rfl, rfl, rfl, rfl⟩
  · exact .refl w
theorem Warp.SamePath.moveBits (x : Site) (d b f t t') : Warp.SamePath x.w (x.moveBits d b f t t') := by
  unfold Site.moveBits
  simp only
  split
  · exact (Warp.SamePath.setDst ..).trans (.setDst ..)
  · exact .setDst ..

theorem Warp.SamePath.move (x : Site) (d b f t t') : Warp.SamePath x.w (x.move d b f t t') := .moveBits ..

/-- A meaning on registers whose checks hold. -/
theorem Site.regs_checked {x : Site} {ok : Bool} (h : ok = true) (w : Warp) :
    x.regs (checked x.v ok w) = .done (x.put w) := by
  simp [Site.regs, checked, h]

/-- An instruction that writes its own warp alone. -/
theorem writes_of {s : State} {i : Instr} {c : Ctl} {w w' : Warp} {imm : Word} {f : Site → Act} (hf : s.Follows c w)
    (hp : Warp.SamePath w w') (ex : exec i s = issue i c imm f s)
    (e : f (s.site c imm w) = .done ((s.site c imm w).put w')) : s.Issues i c w → s.Writes i w' := by
  intro h
  unfold State.Writes State.Completes
  rw [ex]
  obtain ⟨t, e1, e2⟩ := issue_done h hf (d := (s.site c imm w).put w') (by
    simp [State.site, Site.put, Dev.putWarp, Dev.putSlot, Dev.modCore]) hp (by simp [State.site, Site.put]) e
  exact ⟨t, e1, e2.of_put⟩

/-- A fault whose lanes carry its code waits for no walk. -/
theorem walks_warpWide {code : Nat} (h : code ≠ Code.walk) (m : Mask) (addr : DWord) (detail : Word) :
    (FaultInfo.warpWide code m addr detail).walks = [] := by
  simp [FaultInfo.walks, FaultInfo.warpWide, h]

@[simp] theorem walks_format (m : Mask) : (FaultInfo.format m).walks = [] := walks_warpWide (by decide) m _ _

@[simp] theorem walks_arith (es : List (Lane × Events)) : (FaultInfo.arith es).walks = [] := by
  simp only [FaultInfo.walks, FaultInfo.arith, List.filterMap_map]
  exact List.filterMap_eq_nil_iff.mpr fun _ _ => rfl

/-- A fault whose lanes carry its code waits for no atomic operation. -/
theorem afterAtomic_warpWide {code : Nat} (h : code ≠ Code.atomic) (m : Mask) (addr : DWord) (detail : Word) :
    (FaultInfo.warpWide code m addr detail).afterAtomic = false := by
  simp [FaultInfo.afterAtomic, FaultInfo.warpWide, h]

@[simp] theorem afterAtomic_format (m : Mask) : (FaultInfo.format m).afterAtomic = false :=
  afterAtomic_warpWide (by decide) m _ _

@[simp] theorem afterAtomic_arith (es : List (Lane × Events)) : (FaultInfo.arith es).afterAtomic = false := by
  simp only [FaultInfo.afterAtomic, FaultInfo.arith, List.any_map]
  exact List.any_eq_false.mpr fun _ _ => Bool.false_ne_true

/-- An instruction whose tag checks decide. -/
theorem checks_of {s : State} {i : Instr} {c : Ctl} {w w' : Warp} {imm : Word} {f : Site → Act} {ok : Bool} (hf : s.Follows c w)
    (hp : Warp.SamePath w w') (ex : exec i s = issue i c imm f s)
    (e1 : ok = true → f (s.site c imm w) = .done ((s.site c imm w).put w'))
    (e0 : ok = false → f (s.site c imm w) = (s.site c imm w).format) : s.Checks ok i c w w' := by
  intro h
  refine ⟨fun hk => writes_of hf hp ex (e1 hk) h, fun hk => ?_⟩
  unfold State.Faults
  rw [ex]
  exact issue_fault h (walks_format _) (afterAtomic_format _) (e0 hk)

/-- An instruction on registers alone, as `checked` decides. -/
theorem regs_of {s : State} {i : Instr} {c : Ctl} {w w' : Warp} {imm : Word} {f : Site → Act} {ok : Bool} (hf : s.Follows c w)
    (hp : Warp.SamePath w w') (ex : exec i s = issue i c imm f s)
    (e : f (s.site c imm w) = (s.site c imm w).regs (checked (s.site c imm w).v ok w')) : s.Checks ok i c w w' :=
  checks_of hf hp ex (fun h => by rw [e]; exact Site.regs_checked h _)
    (fun h => by rw [e]; simp [Site.regs, checked, h, Site.format]; rfl)

theorem lanes_w {p : Mask} {l : Lane} (h : lowestLane p = some l) (r : Fin 32) : (Dst.lanes (.w r) p).getLsbD l.val = true := by
  simp [Dst.lanes, h]

theorem setV_congr (w : Warp) (r : Fin 64) (p : Mask) {f g : Lane → Word} (h : ∀ l : Lane, p.getLsbD l.val = true → f l = g l) (t) :
    w.setV r p f t = w.setV r p g t := by
  unfold Warp.setV
  have : (Vector.ofFn fun l : Lane => if p.getLsbD l.val then f l else w.vAt r l) =
      Vector.ofFn fun l : Lane => if p.getLsbD l.val then g l else w.vAt r l := by
    congr 1; funext l; split
    · rename_i hl; exact h l hl
    · rfl
  simp only [this]

theorem setDst_congr (w : Warp) (d : Dst) (i : Nat) (p : Mask) {f g : Lane → Word}
    (h : ∀ l : Lane, (Dst.lanes d p).getLsbD l.val = true → f l = g l) (t) : w.setDst d i p f t = w.setDst d i p g t := by
  cases d with
  | v r =>
    have h' : ∀ l : Lane, p.getLsbD l.val = true → f l = g l := h
    simp only [Warp.setDst, setV_congr w (vUp r i) p h' t]
  | w r =>
    simp only [Warp.setDst]
    cases hl : lowestLane p with
    | none => rfl
    | some l => simp only [h l (lanes_w hl r)]
  | none => rfl

theorem setPair_congr (w : Warp) (d : Dst) (p : Mask) {f g : Lane → DWord}
    (h : ∀ l : Lane, (Dst.lanes d p).getLsbD l.val = true → f l = g l) (t) : w.setPair d p f t = w.setPair d p g t := by
  unfold Warp.setPair
  rw [setDst_congr w d 0 p (f := fun l => loWord (f l)) (g := fun l => loWord (g l)) (fun l hl => by rw [h l hl]),
    setDst_congr _ d 1 p (f := fun l => hiWord (f l)) (g := fun l => hiWord (g l)) (fun l hl => by rw [h l hl])]

theorem setStar_congr (w : Warp) (b : Bool) (d : Dst) (p : Mask) {f g : Lane → Nat}
    (h : ∀ l : Lane, (Dst.lanes d p).getLsbD l.val = true → f l = g l) (t) : w.setStar b d p f t = w.setStar b d p g t := by
  unfold Warp.setStar
  split
  · exact setPair_congr _ _ _ (fun l hl => by rw [h l hl]) _
  · exact setDst_congr _ _ _ _ (fun l hl => by rw [h l hl]) _

/-- The events of the lanes that compute. -/
def seenEvents {α : Type} (d : Dst) (p : Mask) (f : Lane → α × Events) (l : Lane) : Events :=
  if (Dst.lanes d p).getLsbD l.val then (f l).2 else 0

theorem eventful_eq {α : Type} (x : Site) (d : Dst) (zero : α) (f : Lane → α × Events) (write : (Lane → α) → Warp) :
    x.eventful d zero f write =
      if (List.finRange 32).any fun l => trapped x.v.r.mode (seenEvents d x.p f l) then
        .fault x.d (.arith ((lanesOf x.p).map fun l => (l, seenEvents d x.p f l)))
      else .done (x.put (write fun l => if (Dst.lanes d x.p).getLsbD l.val then (f l).1 else zero)) := by
  have h2 : ∀ l : Lane, ((if (Dst.lanes d x.p).getLsbD l.val = true then f l else (zero, 0)) : α × Events).2 =
      seenEvents d x.p f l := by
    intro l; unfold seenEvents; split <;> rfl
  have h1 : ∀ l : Lane, ((if (Dst.lanes d x.p).getLsbD l.val = true then f l else (zero, 0)) : α × Events).1 =
      if (Dst.lanes d x.p).getLsbD l.val then (f l).1 else zero := by
    intro l; split <;> rfl
  unfold Site.eventful
  simp only [Vector.getElem_ofFn, Fin.eta, h1, h2]

/-- An instruction that gathers events. -/
theorem gathers_of {α : Type} {s : State} {i : Instr} {c : Ctl} {w w' : Warp} {imm : Word} {f : Site → Act} {ok : Bool}
    {d : Dst} {r : Lane → α × Events} (zero : α) (write : (Lane → α) → Warp) (hf : s.Follows c w) (hp : Warp.SamePath w w')
    (ex : exec i s = issue i c imm f s)
    (e1 : ok = true → f (s.site c imm w) = (s.site c imm w).eventful d zero r write)
    (e0 : ok = false → f (s.site c imm w) = (s.site c imm w).format)
    (hw : ∀ g : Lane → α, (∀ l : Lane, (Dst.lanes d (Dev.participants w c)).getLsbD l.val = true → g l = (r l).1) → write g = w') :
    s.Gathers ok i c w d r w' := by
  intro h
  have hany : (List.finRange 32).any (fun l => trapped (s.site c imm w).v.r.mode (seenEvents d (s.site c imm w).p r l)) = true ↔
      ∃ l, trapped w.mode (seenEvents d (Dev.participants w c) r l) = true := by
    simp [List.any_eq_true]
    rfl
  refine ⟨fun hk ht => ?_, fun hk ht => ?_, fun hk => ?_⟩
  · refine writes_of hf hp ex ?_ h
    rw [e1 hk, eventful_eq, if_neg]
    · exact congrArg (fun y => Act.done ((s.site c imm w).put y)) (hw _ fun l hl => if_pos hl)
    · rw [hany]
      rintro ⟨l, hl⟩
      exact Bool.eq_false_iff.mp (ht l) hl
  · unfold State.Faults
    rw [ex]
    refine issue_fault h (walks_arith _) (afterAtomic_arith _) ?_
    rw [e1 hk, eventful_eq, if_pos (hany.mpr ht)]
    rfl
  · unfold State.Faults
    rw [ex]
    exact issue_fault h (walks_format _) (afterAtomic_format _) (e0 hk)


end Sys2Proof.Machine
end

