-- ==== Sys2Proof/Machine/Bxas.lean ====
section
/-! DEFINITION. What the assembler bxas emits (R85 to R89): operand bytes for literals, the images of its records, and the
pages of a code section, which the scanner takes. No step of the machine calls it. -/

namespace Sys2Proof.Machine.Bxas

/-! ### Literals (R85) -/

/-- A real literal: decimal digits with an exponent of ten, an infinity, a NaN, or a code by its bits. -/
inductive Literal where
  | real (neg : Bool) (digits : Nat) (exp : Int)
  | inf (neg : Bool)
  | nan
  | raw (code : Nat)
  deriving DecidableEq, Repr

/-- Numerator and denominator of the magnitude of a decimal number. -/
def ratio (digits : Nat) (exp : Int) : Nat × Nat :=
  if 0 ≤ exp then (digits * 10 ^ exp.toNat, 1) else (digits, 10 ^ (-exp).toNat)

/-- The code of a literal in a format, rounded RN; none for one whose rounded log lies outside the format's range. -/
def codeOf (f : Fmt) : Literal → Option Nat
  | .raw n => if n < 2 ^ f.elem.bits then some n else none
  | .inf s => some ((Num.inf s).code f.elem)
  | .nan => some ((Num.canonical f.elem false).code f.elem)
  | .real s n e =>
    let (c, den) := ratio n e
    match Exact.sumLog f.elem.frac [((c : Int), 0)] den with
    | none => some ((Num.zero s).code f.elem)
    | some (_, y) =>
      let l := roundQ .rn 0 y
      let h : Int := 2 ^ (f.elem.logBits - 1)
      if -h ≤ l ∧ l < h then some ((Num.fin s l).code f.elem) else none

/-- The byte of an inline constant. -/
def inlineByte (k : BitVec 7) : BitVec 8 := 1#1 ++ k

/-- A real inline constant lies in a format's range (R30). -/
def inlineOk (f : Fmt) (k : BitVec 7) : Bool :=
  match f.elem with
  | .l8a => 27 ≤ k.toNat % 64 && k.toNat % 64 ≤ 34
  | .l8b => 23 ≤ k.toNat % 64 && k.toNat % 64 ≤ 38
  | _ => true

/-- A literal is a power of two that an inline constant names (R30). -/
def isInline (f : Fmt) (l : Literal) (k : BitVec 7) : Bool :=
  inlineOk f k && match l with
    | .real s n e => s == k.getLsbD 6 && (ratio n e).1 * 2 ^ 31 == (ratio n e).2 * 2 ^ (k.toNat % 64)
    | .raw n => n == inlineReal f.elem k
    | _ => false

/-- The operand byte of a literal, and what it asks of IMM32: an inline constant where its value is one, else IMM32, which an
instruction that uses it for its own purpose refuses; the code of a packed format stands in every element (log 116). -/
def realOperand (f : Fmt) (own : Bool) (l : Literal) : Option (BitVec 8 × Option Word) :=
  match (List.range 128).find? fun k => isInline f l (BitVec.ofNat 7 k) with
  | some k => some (inlineByte (BitVec.ofNat 7 k), none)
  | none => if own then none else (codeOf f l).map fun c => (0x79, some (repeatCode f c))

/-- The operand byte of an integer literal. -/
def intOperand (own : Bool) (n : Int) : Option (BitVec 8 × Option Word) :=
  if -64 ≤ n ∧ n < 64 then some (inlineByte (BitVec.ofInt 7 n), none)
  else if own ∨ n < -2 ^ 31 ∨ 2 ^ 32 ≤ n then none
  else some (0x79, some (BitVec.ofInt 32 n))

/-- The IMM32 of an instruction whose literals ask for these: one value (R31). -/
def sharedImm (asks : List (Option Word)) : Option Word :=
  match asks.filterMap id with
  | [] => some 0
  | x :: rest => if rest.all (· == x) then some x else none

/-! ### Records (R88) -/

/-- A field of a record: its key, its highest and its lowest bit. -/
structure Field where
  key : String
  hi : Nat
  lo : Nat
  deriving DecidableEq, Repr

/-- Fields of a task control block (Table 6.2). -/
def tcbFields : List Field :=
  [⟨"clmask", 423, 416⟩, ⟨"taskser", 415, 384⟩, ⟨"cdep", 367, 352⟩, ⟨"cval", 351, 320⟩, ⟨"ctgt", 319, 256⟩,
   ⟨"depinit", 255, 240⟩, ⟨"depwait", 239, 224⟩, ⟨"spbytes", 223, 192⟩, ⟨"paramlen", 191, 176⟩, ⟨"bandsz", 175, 160⟩,
   ⟨"prio", 157, 156⟩, ⟨"nosteal", 155, 155⟩, ⟨"errrun", 154, 154⟩, ⟨"idem", 153, 153⟩, ⟨"gang", 152, 152⟩,
   ⟨"tail", 148, 144⟩, ⟨"warps", 143, 128⟩, ⟨"param", 127, 64⟩, ⟨"entry", 63, 32⟩, ⟨"codeobj", 31, 0⟩]

/-- Fields of a tensor layout record (Table 12.1). -/
def tlrFields : List Field :=
  [⟨"mcmask", 495, 448⟩, ⟨"credit", 511, 448⟩, ⟨"ring", 447, 447⟩, ⟨"region", 443, 432⟩, ⟨"tsr", 427, 408⟩, ⟨"db", 407, 407⟩,
   ⟨"stat", 406, 406⟩, ⟨"qnt", 405, 405⟩, ⟨"add", 404, 404⟩, ⟨"pres", 403, 403⟩, ⟨"ndim", 402, 400⟩, ⟨"lfmt", 399, 396⟩,
   ⟨"mfmt", 395, 392⟩] ++
  [⟨"box4", 391, 384⟩, ⟨"box3", 383, 376⟩, ⟨"box2", 375, 368⟩, ⟨"box1", 367, 360⟩, ⟨"box0", 359, 352⟩, ⟨"ext4", 351, 320⟩,
   ⟨"ext3", 319, 288⟩, ⟨"ext2", 287, 256⟩, ⟨"ext1", 255, 224⟩, ⟨"ext0", 223, 192⟩, ⟨"stride4", 191, 160⟩,
   ⟨"stride3", 159, 128⟩, ⟨"stride2", 127, 96⟩, ⟨"stride1", 95, 64⟩, ⟨"base", 63, 0⟩]

/-- Fields of a matrix parameter block (Table 13.1). -/
def mpbFields : List Field :=
  [⟨"tsrv", 404, 404⟩, ⟨"tsr", 403, 384⟩, ⟨"unpin", 382, 382⟩, ⟨"pin", 381, 381⟩, ⟨"acc", 380, 380⟩, ⟨"tent", 379, 377⟩,
   ⟨"tmode", 376, 375⟩, ⟨"bsrc", 374, 374⟩, ⟨"tile", 373, 367⟩, ⟨"kc1", 366, 363⟩, ⟨"m1", 362, 360⟩, ⟨"bfmt", 359, 356⟩,
   ⟨"afmt", 355, 352⟩] ++
  [⟨"taddr", 351, 320⟩, ⟨"sstr", 319, 288⟩, ⟨"saddr", 287, 224⟩, ⟨"bn0", 223, 192⟩, ⟨"bk0", 191, 160⟩, ⟨"bstr", 159, 128⟩,
   ⟨"baddr", 127, 64⟩, ⟨"astr", 63, 32⟩, ⟨"aaddr", 31, 0⟩]

/-- A record from keys and values over the fields' defaults; none for an unknown key, one named twice, or a value that does not
fit. -/
def recordFrom (fields : List Field) (base : Nat) (vals : List (String × Nat)) : Option Nat :=
  if (vals.map (·.1)).eraseDups.length ≠ vals.length then none
  else vals.foldlM (fun x kv => (fields.find? fun f => f.key == kv.1).bind fun f =>
    if kv.2 < 2 ^ (f.hi + 1 - f.lo) then
      some (x - x / 2 ^ f.lo % 2 ^ (f.hi + 1 - f.lo) * 2 ^ f.lo + kv.2 * 2 ^ f.lo)
    else none) base

/-- `.tcb`: an omitted field is zero but IDEM, which is 1. -/
def tcb (vals : List (String × Nat)) : Option (List Byte) := (recordFrom tcbFields (2 ^ 153) vals).map (leBytes 64)

/-- `.tlr`. -/
def tlr (vals : List (String × Nat)) : Option (List Byte) := (recordFrom tlrFields 0 vals).map (leBytes 64)

/-- `.mpb`. -/
def mpb (vals : List (String × Nat)) : Option (List Byte) := (recordFrom mpbFields 0 vals).map (leBytes 128)

/-! ### Code sections (R87 to R89) -/

/-- What a code section is made of: an instruction, with the live-map entry of the `.safe` before it, or an `.align`. -/
inductive Item where
  | instr (i : Instr) (safe : Option (BitVec 128))
  | align (n : Nat)
  deriving DecidableEq, Repr

/-- A slot: its word, its live-map entry where it is a safe point, and whether it is padding. -/
structure Slot where
  word : BitVec 96
  safe : Option (BitVec 128)
  pad : Bool
  deriving DecidableEq, Repr

/-- The word of a slot, STOP set where it is a safe point. -/
def slotWord (w : BitVec 96) (stop : Bool) : BitVec 96 := if stop then w ||| (1#96 <<< 86) else w

/-- A padding slot: an unguarded EXIT. -/
def padding (safe : Option (BitVec 128)) : Slot :=
  { word := slotWord (BitVec.ofNat 96 0x787878787006) safe.isSome, safe := safe, pad := true }

/-- Instruction slots in a multiple of 64 bytes. -/
def slotsIn (n : Nat) : Nat := n / 64 * 5

/-- Slots padded to a multiple of some bytes. -/
def padTo (n : Nat) (ss : List Slot) : List Slot :=
  ss ++ List.replicate ((slotsIn n - ss.length % slotsIn n) % slotsIn n) (padding none)

/-- The slot of a statement of a program of a class; none for a word that the scanner would refuse (R87). -/
def slotOf (cls : Nat) (i : Instr) (safe : Option (BitVec 128)) : Option Slot :=
  match encode i with
  | none => none
  | some w =>
    let w := slotWord w safe.isSome
    let live := safe.getD 0
    if !i.wf || Instr.sysRegRefused cls i || fieldOf live 127 104 != 0 || w.getLsbD 86 != safe.isSome then none
    else some { word := w, safe := safe, pad := false }

/-- The slots of a section's items, in order. -/
def slotsOf (cls : Nat) (items : List Item) : Option (List Slot) :=
  items.foldlM (fun ss it => match it with
    | .instr i safe => (slotOf cls i safe).map fun s => ss ++ [s]
    | .align n => if n = 64 ∨ n = 256 ∨ n = 65536 then some (padTo n ss) else none) []

/-- A line of 20 slots: one made wholly of padding takes STOP, with nothing live, in its first slot; one with an instruction of
the program and no STOP is an error (R87, R89). -/
def lineOf (ss : List Slot) : Option (List Slot) :=
  match ss with
  | [] => some []
  | s :: rest =>
    if ss.all (·.pad) then some (padding (some 0) :: rest)
    else if ss.any (·.safe.isSome) then some (s :: rest)
    else none

/-- The slots in lines, whole pages of them. -/
def linesOf : Nat → List Slot → Option (List Slot)
  | 0, _ => some []
  | n + 1, ss => (lineOf (ss.take 20)).bind fun l => (linesOf n (ss.drop 20)).map (l ++ ·)

/-- The bytes of slabs with their headers, the running map base first (R32, R34). -/
def slabsOf : Nat → Nat → List Slot → List Byte
  | 0, _, _ => []
  | n + 1, base, ss =>
    leBytes 4 (base * 16 + 1) ++ (ss.take 5).flatMap (fun s => leBytes 12 s.word.toNat) ++
      slabsOf n (base + ((ss.take 5).filter (·.safe.isSome)).length) (ss.drop 5)

/-- What a code section emits: the bytes of its pages and its live-map table. -/
structure Code where
  bytes : List Byte
  live : List (BitVec 128)
  deriving DecidableEq, Repr

/-- The static target of each branch is a valid program counter (R87). -/
def targetsOk (ss : List Slot) : Bool :=
  ss.zipIdx.all fun x =>
    match decode x.1.word with
    | .ok i => (Instr.target i).all fun off => slotOffset ((x.2 / 5 * 64 + 4 + 12 * (x.2 % 5) : Nat) + off.toInt)
    | .error _ => false

/-- A code section (R87, R89); none where it is an error. -/
def assemble (cls : Nat) (items : List Item) : Option Code :=
  (slotsOf cls items).bind fun ss =>
    let ss := padTo 0x10000 ss
    if !targetsOk ss then none
    else (linesOf (ss.length / 20) ss).map fun ss =>
      { bytes := slabsOf (ss.length / 5) 0 ss, live := ss.filterMap (·.safe) }

/-- Bytes appended to a data image at a multiple of a size, with zeros before them: a record at its own size, `.data` at 1, and
`.align` with no bytes (R88). -/
def dataAt (size : Nat) (image new : List Byte) : List Byte :=
  image ++ List.replicate ((size - image.length % size) % size) 0 ++ new

end Sys2Proof.Machine.Bxas
end

