-- ==== Sys2Proof/Machine/Sniuno.lean ====
section
/-! DEFINITION. Sniuno modules as the host library reads and verifies them (R424 to R427, R431, R432): the layout, the
types, the instructions and the verifier. The device never executes bytecode. -/

namespace Sys2Proof.Machine

/-! ### Types (R426) -/

/-- The value type of a type byte; none for the code 0 and for a code that names no value type (R426). -/
def valueType? (b : Byte) : Option Tag := if 1 ≤ b.toNat ∧ b.toNat ≤ 9 then Tag.ofCode b.toNat else none

/-- A set of types (Table 20.2); `none` is the code 0, `blocks` the code 0 and V. -/
inductive TypeClass where
  | none | all | int | log | scalar | blocks | addr | word
  deriving DecidableEq, Repr

/-- The class accepts a type, or the code 0 (Table 20.2). -/
def TypeClass.accepts (k : TypeClass) (t : Option Tag) : Bool :=
  let n := (t.map Tag.code).getD 0
  match k with
  | .none => n == 0
  | .all => 1 ≤ n && n ≤ 9
  | .int => n == 1 || n == 2
  | .log => 3 ≤ n && n ≤ 9
  | .scalar => 1 ≤ n && n ≤ 6
  | .blocks => n ≤ 9
  | .addr => n == 2
  | .word => n == 1

/-- The words of one value (R426). -/
def wordsOf (t : Tag) : Nat := if t = .i64 then 2 else 1

/-- The bytes of one value in memory (R138). -/
def valueBytes (t : Tag) : Nat :=
  match t with
  | .l8a | .l8b => 1
  | .l16 => 2
  | .i64 => 8
  | _ => 4

/-- The scalar reals (R, Table 20.2). -/
def isScalarReal (t : Tag) : Bool := 3 ≤ t.code && t.code ≤ 6

/-! ### Instructions (R427) -/

/-- Instructions of two operands and one result of one type (Table 20.3). -/
inductive SnBin where
  | add | sub | mul | div | min | max | and | or | xor | mulhi
  deriving DecidableEq, Repr

/-- Shifts (Table 20.3). -/
inductive SnShift where
  | shl | shr | sar
  deriving DecidableEq, Repr

/-- Instructions of one operand (Table 20.3). -/
inductive SnUn where
  | neg | abs | sqrt | rsqrt | rcp | exp2 | log2 | tanh | sig | not
  deriving DecidableEq, Repr

/-- What opens a frame (R429). -/
inductive SnFrame where
  | func | block | loop | if_ | else_
  deriving DecidableEq, Repr

/-- The instructions of Table 20.3 with their type and immediates. -/
inductive SnInstr where
  | unreachable
  | nop
  | open_ (k : SnFrame) (t : Option Tag)
  | else_
  | end_
  | br (n : Nat)
  | brIf (n : Nat)
  | return_
  | drop (t : Tag)
  | select (t : Tag)
  | localGet (t : Tag) (i : Nat)
  | localSet (t : Tag) (i : Nat)
  | localTee (t : Tag) (i : Nat)
  | paramGet (t : Tag) (off : Nat)
  | specialGet (n : Fin 16)
  | const (t : Tag) (value : DWord)
  | bin (k : SnBin) (t : Tag)
  | shift (k : SnShift) (t : Tag)
  | lea (shift : Fin 8)
  | un (k : SnUn) (t : Tag)
  | mad (t : Tag)
  | cmp (k : Cmp) (t : Tag)
  | cvt (t src : Tag)
  | load (t : Tag) (off : Word)
  | store (t : Tag) (off : Word)
  | lds (t : Tag) (off : Word)
  | sts (t : Tag) (off : Word)
  | atomAdd (t : Tag) (off : Word)
  | fence (var : Fin 3) (scope : Scope)
  | bar
  deriving DecidableEq, Repr

/-- The reasons of Table 20.4. -/
inductive SnReason where
  | header | bounds | localType | opcode | type | imm | truncated | stackType | stackUnder | blockResult | else_
  | nesting | words | trailing
  deriving DecidableEq, Repr

/-- The code of a reason (Table 20.4). -/
def SnReason.code : SnReason → Nat
  | .header => 1 | .bounds => 2 | .localType => 3 | .opcode => 4 | .type => 5 | .imm => 6 | .truncated => 7
  | .stackType => 8 | .stackUnder => 9 | .blockResult => 10 | .else_ => 11 | .nesting => 12 | .words => 13
  | .trailing => 14

/-- A row of Table 20.3: the types it takes, the bytes of its immediate for a type, and the instruction that a type and an
immediate give; none where the immediate breaks R427. -/
structure SnRow where
  cls : TypeClass
  bytes : Option Tag → Nat
  make : Option Tag → Nat → Option SnInstr

/-- A row without an immediate. -/
def SnRow.plain (cls : TypeClass) (f : Tag → SnInstr) : SnRow :=
  ⟨cls, fun _ => 0, fun t _ => some (f (t.getD .undef))⟩

/-- A row with an s32 immediate. -/
def SnRow.offset (cls : TypeClass) (f : Tag → Word → SnInstr) : SnRow :=
  ⟨cls, fun _ => 4, fun t n => some (f (t.getD .undef) (BitVec.ofNat 32 n))⟩

/-- A row with a u8 immediate and its condition. -/
def SnRow.small (cls : TypeClass) (ok : Tag → Nat → Bool) (f : Tag → Nat → SnInstr) : SnRow :=
  ⟨cls, fun _ => 1, fun t n => let t := t.getD .undef; if ok t n then some (f t n) else none⟩

/-- The upper bits that a constant of an 8-bit or 16-bit type leaves zero (R427). -/
def constOk (t : Tag) (n : Nat) : Bool := n < 2 ^ (8 * valueBytes t)

/-- The bytes that special.get may name (R427). -/
def specialOk (n : Nat) : Bool := n == 0x60 || n == 0x61 || n == 0x62 || n == 0x63 || n == 0x68 || n == 0x6A

/-- The source type that a cvt may name (R427). -/
def cvtSource (t : Tag) (n : Nat) : Option Tag :=
  match valueType? (BitVec.ofNat 8 n) with
  | some s => if s.code ≤ 6 && s != t && (isScalarReal s || isScalarReal t) then some s else none
  | none => none

/-- The rows of Table 20.3, with the immediate's conditions; `locals` are the function's, `depth` its open frames. -/
def snRow (locals : List Tag) (depth : Nat) (op : Nat) : Option SnRow :=
  let isLocal (t : Tag) (n : Nat) : Bool := locals[n]? == some t
  match op with
  | 0x00 => some (.plain .none fun _ => .unreachable)
  | 0x01 => some (.plain .none fun _ => .nop)
  | 0x02 => some ⟨.blocks, fun _ => 0, fun t _ => some (.open_ .block t)⟩
  | 0x03 => some ⟨.blocks, fun _ => 0, fun t _ => some (.open_ .loop t)⟩
  | 0x04 => some ⟨.blocks, fun _ => 0, fun t _ => some (.open_ .if_ t)⟩
  | 0x05 => some (.plain .none fun _ => .else_)
  | 0x0B => some (.plain .none fun _ => .end_)
  | 0x0C => some (.small .none (fun _ n => n < depth) fun _ n => .br n)
  | 0x0D => some (.small .none (fun _ n => n < depth) fun _ n => .brIf n)
  | 0x0F => some (.plain .none fun _ => .return_)
  | 0x1A => some (.plain .all .drop)
  | 0x1B => some (.plain .all .select)
  | 0x20 => some (.small .all isLocal .localGet)
  | 0x21 => some (.small .all isLocal .localSet)
  | 0x22 => some (.small .all isLocal .localTee)
  | 0x23 => some (.small .all (fun t n => n + valueBytes t ≤ 256 && n % valueBytes t == 0) .paramGet)
  | 0x24 => some (.small .word (fun _ n => specialOk n) fun _ n => .specialGet (Fin.ofNat 16 (n - 0x60)))
  | 0x41 => some ⟨.all, fun t => if t = some .i64 then 8 else 4, fun t n =>
      let t := t.getD .undef
      if constOk t n then some (.const t (BitVec.ofNat 64 n)) else none⟩
  | 0x50 => some (.plain .all (.bin .add))
  | 0x51 => some (.plain .all (.bin .sub))
  | 0x52 => some (.plain .all (.bin .mul))
  | 0x53 => some (.plain .log (.bin .div))
  | 0x54 => some (.plain .all (.bin .min))
  | 0x55 => some (.plain .all (.bin .max))
  | 0x56 => some (.plain .int (.bin .and))
  | 0x57 => some (.plain .int (.bin .or))
  | 0x58 => some (.plain .int (.bin .xor))
  | 0x59 => some (.plain .int (.shift .shl))
  | 0x5A => some (.plain .int (.shift .shr))
  | 0x5B => some (.plain .int (.shift .sar))
  | 0x5C => some (.small .addr (fun _ n => n ≤ 7) fun _ n => .lea (Fin.ofNat 8 n))
  | 0x5D => some (.plain .int (.bin .mulhi))
  | 0x60 => some (.plain .all (.un .neg))
  | 0x61 => some (.plain .all (.un .abs))
  | 0x62 => some (.plain .log (.un .sqrt))
  | 0x63 => some (.plain .log (.un .rsqrt))
  | 0x64 => some (.plain .log (.un .rcp))
  | 0x65 => some (.plain .log (.un .exp2))
  | 0x66 => some (.plain .log (.un .log2))
  | 0x67 => some (.plain .log (.un .tanh))
  | 0x68 => some (.plain .log (.un .sig))
  | 0x69 => some (.plain .int (.un .not))
  | 0x6A => some (.plain .all .mad)
  | 0x70 => some (.plain .scalar (.cmp .eq))
  | 0x71 => some (.plain .scalar (.cmp .ne))
  | 0x72 => some (.plain .scalar (.cmp .lt))
  | 0x73 => some (.plain .scalar (.cmp .le))
  | 0x74 => some (.plain .scalar (.cmp .gt))
  | 0x75 => some (.plain .scalar (.cmp .ge))
  | 0x78 => some ⟨.scalar, fun _ => 1, fun t n =>
      let t := t.getD .undef
      (cvtSource t n).map (.cvt t)⟩
  | 0x80 => some (.offset .all .load)
  | 0x81 => some (.offset .all .store)
  | 0x82 => some (.offset .all .lds)
  | 0x83 => some (.offset .all .sts)
  | 0x84 => some (.offset .int .atomAdd)
  | 0x88 => some ⟨.none, fun _ => 1, fun _ n =>
      if h : n % 4 < 3 ∧ n < 16 then some (.fence ⟨n % 4, h.1⟩ (Scope.ofCode (n / 4))) else none⟩
  | 0x89 => some (.plain .none fun _ => .bar)
  | _ => none

/-- The number that bytes hold, the lowest first. -/
def leNat : List Byte → Nat
  | [] => 0
  | b :: t => b.toNat + 256 * leNat t

/-- The instruction at the head of the bytes and its length, read in the order of its bytes (R427, log 104). -/
def snDecode (locals : List Tag) (depth : Nat) : List Byte → Except SnReason (SnInstr × Nat)
  | [] => .error .truncated
  | op :: rest =>
    match snRow locals depth op.toNat with
    | none => .error .opcode
    | some row =>
      match rest with
      | [] => .error .truncated
      | ty :: rest =>
        let t := valueType? ty
        if (t = none ∧ ty ≠ 0) ∨ !row.cls.accepts t then .error .type
        else
          let n := row.bytes t
          if rest.length < n then .error .truncated
          else match row.make t (leNat (rest.take n)) with
            | some i => .ok (i, 2 + n)
            | none => .error .imm

/-- The values an instruction pops, the bottom first, and the one it pushes (Table 20.3); the control instructions move
values as R431 says. -/
def SnInstr.effect : SnInstr → List Tag × Option Tag
  | .drop t => ([t], none)
  | .select t => ([t, t, .i32], some t)
  | .localGet t _ => ([], some t)
  | .localSet t _ => ([t], none)
  | .localTee t _ => ([t], some t)
  | .paramGet t _ => ([], some t)
  | .specialGet _ => ([], some .i32)
  | .const t _ => ([], some t)
  | .bin _ t => ([t, t], some t)
  | .shift _ t => ([t, .i32], some t)
  | .lea _ => ([.i64, .i32], some .i64)
  | .un _ t => ([t], some t)
  | .mad t => ([t, t, t], some t)
  | .cmp _ t => ([t, t], some .i32)
  | .cvt t s => ([s], some t)
  | .load t _ => ([.i64], some t)
  | .store t _ => ([.i64, t], none)
  | .lds t _ => ([.i32], some t)
  | .sts t _ => ([.i32, t], none)
  | .atomAdd t _ => ([.i64, t], some t)
  | .unreachable | .nop | .open_ _ _ | .else_ | .end_ | .br _ | .brIf _ | .return_ | .fence _ _ | .bar => ([], none)

/-! ### Modules (R424) -/

/-- Why a module is refused: the function, the body offset and the reason (R431). -/
structure SnRefusal where
  fn : Nat
  off : Nat
  reason : SnReason
  deriving DecidableEq, Repr

/-- A function of a module: its locals' type bytes are the first bytes of its body. -/
structure SnFn where
  nlocal : Nat
  bodyOff : Nat
  body : List Byte
  deriving DecidableEq, Repr

/-- The number in bytes `lo` to `hi` of an image. -/
def imageNat (m : List Byte) (lo hi : Nat) : Nat := leNat ((m.drop lo).take (hi + 1 - lo))

/-- Bytes of the image that are zero. -/
def imageZero (m : List Byte) (lo hi : Nat) : Bool := ((m.drop lo).take (hi + 1 - lo)).all (· == 0)

/-- The header and the reserved bytes of the table (Table 20.1, log 104). -/
def headerOk (m : List Byte) : Bool :=
  16 ≤ m.length && imageNat m 0 3 == 0x55494E53 && imageNat m 4 5 == 1 &&
    1 ≤ imageNat m 6 7 && imageNat m 6 7 ≤ 256 && imageNat m 8 11 ≤ 0x01000000 && imageNat m 8 11 ≤ m.length &&
    imageZero m 12 15

/-- Function i of a module. -/
def fnAt (m : List Byte) (i : Nat) : SnFn :=
  let e := 16 + 16 * i
  let off := imageNat m e (e + 3)
  { nlocal := imageNat m (e + 8) (e + 8), bodyOff := off, body := (m.drop off).take (imageNat m (e + 4) (e + 7)) }

/-- A function's body lies in the module behind the table, apart from the bodies of the functions before it (R424). -/
def boundsOk (m : List Byte) (i : Nat) : Bool :=
  let at_ (j : Nat) : Nat × Nat := (imageNat m (16 + 16 * j) (19 + 16 * j), imageNat m (20 + 16 * j) (23 + 16 * j))
  let (o, n) := at_ i
  16 + 16 * imageNat m 6 7 ≤ o && o + n ≤ imageNat m 8 11 &&
    (List.range i).all fun j => o + n ≤ (at_ j).1 || (at_ j).1 + (at_ j).2 ≤ o

/-- The function entry's own checks (Table 20.1). -/
def entryOk (m : List Byte) (i : Nat) : Option SnReason :=
  if imageNat m 8 11 < 32 + 16 * i then some .bounds
  else if !imageZero m (25 + 16 * i) (31 + 16 * i) || 32 < imageNat m (24 + 16 * i) (24 + 16 * i) then some .header
  else if !boundsOk m i then some .bounds
  else none

/-! ### The verifier (R431) -/

/-- A frame of the verifier. -/
structure VFrame where
  kind : SnFrame
  result : Option Tag
  height : Nat
  unreach : Bool
  deriving DecidableEq, Repr

/-- The verifier's stacks, top first, and the typed slots. -/
structure VState where
  vals : List Tag
  ctrl : List VFrame
  slots : List (Nat × Tag)
  deriving DecidableEq, Repr

namespace VState

/-- pop(x). -/
def pop (s : VState) (x : Tag) : Except SnReason VState :=
  let top := s.ctrl.headD ⟨.func, none, 0, false⟩
  if s.vals.length = top.height then (if top.unreach then .ok s else .error .stackUnder)
  else match s.vals with
    | v :: t => if v = x then .ok { s with vals := t } else .error .stackType
    | [] => .error .stackUnder

/-- Pops the inputs of a row, top first. -/
def popAll (s : VState) : List Tag → Except SnReason VState
  | [] => .ok s
  | x :: t => match s.pop x with
    | .ok s => s.popAll t
    | .error e => .error e

/-- Pops a label's value or a frame's result, if there is one. -/
def popOpt (s : VState) (x : Option Tag) : Except SnReason VState := s.popAll x.toList

/-- Pushes a value and notes its typed slot. -/
def push (s : VState) (x : Tag) : VState :=
  let p := (s.vals.length, x)
  { s with vals := x :: s.vals, slots := if s.slots.contains p then s.slots else p :: s.slots }

/-- Pushes a value, if there is one. -/
def pushOpt (s : VState) (x : Option Tag) : VState := x.elim s s.push

/-- Truncates vals to a height. -/
def truncate (s : VState) (h : Nat) : VState := { s with vals := s.vals.drop (s.vals.length - h) }

/-- cut(). -/
def cut (s : VState) : VState :=
  match s.ctrl with
  | g :: t => { s.truncate g.height with ctrl := { g with unreach := true } :: t }
  | [] => s

/-- close(g) of the top frame g. -/
def close (s : VState) : Except SnReason VState :=
  match s.ctrl with
  | [] => .error .trailing
  | g :: _ =>
    match s.popOpt g.result with
    | .error e => .error e
    | .ok s => if s.vals.length = g.height then .ok (s.truncate g.height) else .error .blockResult

/-- label(n): the value that a branch to the frame n levels out carries. -/
def label (s : VState) (n : Nat) : Option Tag :=
  match s.ctrl[n]? with
  | some g => if g.kind = .loop then none else g.result
  | none => none

/-- Opens a frame. -/
def opened (s : VState) (k : SnFrame) (t : Option Tag) : VState :=
  { s with ctrl := ⟨k, t, s.vals.length, false⟩ :: s.ctrl }

/-- One instruction (R431). -/
def step (s : VState) (i : SnInstr) : Except SnReason VState :=
  match i with
  | .open_ .if_ t => match s.pop .i32 with
    | .ok s => .ok (s.opened .if_ t)
    | .error e => .error e
  | .open_ k t => .ok (s.opened k t)
  | .else_ =>
    match s.ctrl with
    | g :: t =>
      if g.kind ≠ .if_ then .error .else_
      else match s.close with
        | .ok s => .ok { s with ctrl := { g with kind := .else_, unreach := false } :: t }
        | .error e => .error e
    | [] => .error .else_
  | .end_ =>
    match s.ctrl with
    | g :: t =>
      match s.close with
      | .error e => .error e
      | .ok s =>
        if g.kind = .if_ ∧ g.result ≠ none then .error .blockResult
        else .ok ({ s with ctrl := t }.pushOpt g.result)
    | [] => .error .trailing
  | .br n => match s.popOpt (s.label n) with
    | .ok s => .ok s.cut
    | .error e => .error e
  | .brIf n => match s.pop .i32 with
    | .error e => .error e
    | .ok s => match s.popOpt (s.label n) with
      | .ok s' => .ok (s'.pushOpt (s.label n))
      | .error e => .error e
  | .return_ | .unreachable => .ok s.cut
  | i => match s.popAll i.effect.1.reverse with
    | .ok s => .ok (s.pushOpt i.effect.2)
    | .error e => .error e

/-- The limits after an instruction: 8 frames and 48 words. -/
def limits (s : VState) (locals : List Tag) : Option SnReason :=
  if 8 < s.ctrl.length then some .nesting
  else if 48 < (locals.map wordsOf).sum + (s.slots.map fun x => wordsOf x.2).sum then some .words
  else none

end VState

/-- The pass over the instructions from body offset `o`, at most one for each unit of fuel; the refusal, if there is one. -/
def verifyFrom (locals : List Tag) : Nat → Nat → List Byte → VState → Option (Nat × SnReason)
  | 0, o, _, _ => some (o, .trailing)
  | fuel + 1, o, bs, s =>
    match bs with
    | [] => if s.ctrl.isEmpty then none else some (o, .trailing)
    | _ :: _ =>
      if s.ctrl.isEmpty then some (o, .trailing)
      else match snDecode locals s.ctrl.length bs with
        | .error e => some (o, e)
        | .ok (i, n) =>
          match s.step i with
          | .error e => some (o, e)
          | .ok s => match s.limits locals with
            | some e => some (o, e)
            | none => verifyFrom locals fuel (o + n) (bs.drop n) s

/-- The types of a function's locals; the offset of the first byte that names none, or that is missing (log 104). -/
def localTypes (f : SnFn) : Except (Nat × SnReason) (List Tag) :=
  let bs := f.body.take f.nlocal
  match bs.findIdx? fun b => valueType? b == none with
  | some o => .error (o, .localType)
  | none => if bs.length < f.nlocal then .error (bs.length, .trailing) else .ok (bs.filterMap valueType?)

/-- verify(function f): the refusal, if there is one. -/
def verifyFn (f : SnFn) : Option (Nat × SnReason) :=
  match localTypes f with
  | .error e => some e
  | .ok locals =>
    verifyFrom locals (f.body.length + 1) f.nlocal (f.body.drop f.nlocal) ⟨[], [⟨.func, none, 0, false⟩], []⟩

/-- The verifier on a module: the first refusal, none for a verified module (R431, R432). -/
def verify (m : List Byte) : Option SnRefusal :=
  if !headerOk m then some ⟨0, 0, .header⟩
  else
    let fs := List.range (imageNat m 6 7)
    match fs.findSome? fun i => (entryOk m i).map fun e => (⟨i, 0, e⟩ : SnRefusal) with
    | some r => some r
    | none => fs.findSome? fun i => (verifyFn (fnAt m i)).map fun e => ⟨i, e.1, e.2⟩

/-- The functions of a verified module, in the order of the entries of its translated code object (R425). -/
def functionsOf (m : List Byte) : List SnFn :=
  if verify m = none then (List.range (imageNat m 6 7)).map (fnAt m) else []

end Sys2Proof.Machine
end

