-- ==== Sys2Proof/Machine/SniunoRun.lean ====
section
/-! DEFINITION. What a verified Sniuno function does in the lanes of a warp (R425, R428 to R430): each lane is a thread
with its own operand stack, locals and frames; each instruction has the effect of its native equivalent, which the warp
that carries the threads runs on registers that hold the operands (log 105). -/

namespace Sys2Proof.Machine

/-! ### Threads (R425, R429) -/

/-- A frame of a thread: its result, the height of the stack at its opening, the body offset after its opening
instruction and that of its `end`. -/
structure SnLabel where
  kind : SnFrame
  result : Option Tag
  height : Nat
  start : Nat
  fin : Nat
  deriving DecidableEq, Repr

/-- A thread: its locals, its operand stack and its frames, the top and the innermost first. -/
structure SnThread where
  locals : List DWord
  vals : List DWord
  frames : List SnLabel
  deriving DecidableEq, Repr

/-- A function that runs in the lanes of a warp. -/
structure SnRun where
  types : List Tag
  body : List Byte
  threads : Vector SnThread 32
  /-- The paths: the active mask, the lanes whose threads have ended, the reconvergence stack with body offsets as its
  program counters, and the body offset (R430). -/
  m : Mask
  x : Mask
  stack : List StackEntry
  off : Nat
  /-- The instruction under way, its length, and the native instructions still to run for it. -/
  now : Option (SnInstr × Nat)
  todo : List Instr
  /-- The program counter of the warp while the instruction is under way. -/
  base : DWord
  deriving DecidableEq, Repr

/-- The zero of a type (R425). -/
def zeroOf (t : Tag) : DWord := (t.fmt?).elim 0 fun f => (repeatCode f ((Num.zero false).code f)).setWidth 64

/-- Whether an instruction opens a frame, and how many frames it closes. -/
def SnInstr.opens : SnInstr → Bool
  | .open_ _ _ => true
  | _ => false

/-- The offset of the `end` that matches a frame opened before these bytes, and the offset behind its `else`, if it has one;
`n` frames are open inside it. -/
def matchEnd (locals : List Tag) : Nat → Nat → Nat → Option Nat → List Byte → Option (Nat × Option Nat)
  | 0, _, _, _, _ => none
  | fuel + 1, o, n, alt, bs =>
    match snDecode locals 256 bs with
    | .error _ => none
    | .ok (i, len) =>
      let rest := bs.drop len
      match i with
      | .open_ _ _ => matchEnd locals fuel (o + len) (n + 1) alt rest
      | .else_ => matchEnd locals fuel (o + len) n (if n = 0 then some (o + len) else alt) rest
      | .end_ => match n with
        | 0 => some (o, alt)
        | n + 1 => matchEnd locals fuel (o + len) n alt rest
      | _ => matchEnd locals fuel (o + len) n alt rest

/-- The threads of a warp that starts a function (R425). -/
def SnRun.start (f : SnFn) (w : Warp) : SnRun :=
  let types := (f.body.take f.nlocal).filterMap valueType?
  let func : SnLabel :=
    { kind := .func, result := none, height := 0, start := f.nlocal, fin := f.body.length - 2 }
  { types := types, body := f.body
    threads := Vector.replicate 32 { locals := types.map zeroOf, vals := [], frames := [func] }
    m := w.m, x := 0, stack := [], off := f.nlocal, now := none, todo := [], base := w.pc }

/-- The run of the function that a warp of a translated module starts: entry i is function i (R425). -/
def SnRun.ofModule (m : List Byte) (i : Nat) (w : Warp) : Option SnRun := (functionsOf m)[i]?.map (SnRun.start · w)

/-! ### Native equivalents (Table 20.3, R428) -/

namespace Sniuno

/-- No guard, no safe point, no hints. -/
def plain : Ctl := { gp := 7, gn := false, stop := false, stall := 0, sb := 0, yield := false }

/-- The operands of the native equivalent, bottom first, and its result. -/
def a : Opnd := .v 0
def b : Opnd := .v 2
def c : Opnd := .v 4
def r : Dst := .v 6

def o1 : D1 := ⟨r, a⟩
def o2 : D2 := ⟨r, a, b⟩
def o3 : D3 := ⟨r, a, b, c⟩

/-- The width of an access to a value (R138). -/
def wid (t : Tag) : Wid := (t.wid?).getD .b32

/-- The type of a conversion. -/
def typ (t : Tag) : Typ :=
  match t with
  | .i64 => .i64
  | .l8a => .l8a
  | .l8b => .l8b
  | .l16 => .l16
  | .l32 => .l32
  | _ => .i32

/-- A load and the wait for its data. -/
def loaded (i : Instr) : List Instr := [i, .waitc plain 0 63 63 63]

/-- The native instruction of a row with two operands. -/
def binary (k : SnBin) (t : Tag) : Instr :=
  let w := t == .i64
  match k, t.fmt? with
  | .add, some f => .gadd plain o2 0 f .rn .dflt
  | .sub, some f => .gsub plain o2 0 f .rn .dflt
  | .mul, some f => .gmul plain o2 0 f .dflt
  | .div, some f => .gdiv plain o2 0 f .dflt
  | .min, some f => .gmin plain o2 0 f
  | .max, some f => .gmax plain o2 0 f
  | .add, none => .iadd plain o2 0 w false false
  | .sub, none => .isub plain o2 0 w false false
  | .mul, none => .imul plain o2 0 w
  | .min, none => .imin plain o2 0 w false
  | .max, none => .imax plain o2 0 w false
  | .mulhi, _ => .imulh plain o2 0 w false
  | .and, _ => .and plain o2 0 w
  | .or, _ => .or plain o2 0 w
  | .xor, _ => .xor plain o2 0 w
  | .div, none => .nop plain

/-- The native instruction of a row with one operand. -/
def unary (k : SnUn) (t : Tag) : Instr :=
  let w := t == .i64
  match k, t.fmt? with
  | .neg, some f => .gneg plain o1 0 f
  | .abs, some f => .gabs plain o1 0 f
  | .sqrt, some f => .gsqrt plain o1 0 f
  | .rsqrt, some f => .grsq plain o1 0 f .rn .dflt
  | .rcp, some f => .grcp plain o1 0 f .dflt false
  | .exp2, some f => .gexp2 plain ⟨r, a, .inl 0x1F, .zero⟩ 0 f .rn .dflt false
  | .log2, some f => .glog2 plain o1 0 f .rn .dflt
  | .tanh, some f => .gtanh plain o1 0 f .rn .dflt
  | .sig, some f => .gsig plain o1 0 f .rn .dflt
  | .neg, none => .ineg plain o1 0 w false
  | .abs, none => .iabs plain o1 0 w false
  | .not, _ => .not plain o1 0 w
  | _, none => .nop plain

/-- SEL of 1 and 0 by the comparison's predicate. -/
def oneOrZero : Instr := .sel plain ⟨r, .inl 1, .zero⟩ 0 0 false

/-- The native equivalent (Table 20.3): rows without one, and those that only move control or a value, give no
instruction. -/
def native : SnInstr → List Instr
  | .unreachable => [.trap plain 0x5300]
  | .select t => [.icmp plain 0 c .zero 0 false false .ne, .sel plain o2 0 0 (t == .i64)]
  | .localGet t _ | .localSet t _ | .localTee t _ => [.mov plain o1 0 (t == .i64)]
  | .paramGet t off => loaded (.ldg plain r (.w 0) (BitVec.ofNat 32 off) (some t) (wid t))
  | .specialGet n => [.mov plain ⟨r, .sp n⟩ 0 false]
  | .bin k t => [binary k t]
  | .shift .shl t => [.shl plain o2 0 (t == .i64)]
  | .shift .shr t => [.shr plain o2 0 (t == .i64)]
  | .shift .sar t => [.sar plain o2 0 (t == .i64)]
  | .lea n => [.lea plain o2 0 false n]
  | .un k t => [unary k t]
  | .mad t => [match t.fmt? with
    | some f => .gmad plain o3 0 f .rn .dflt
    | none => .imad plain o3 0 (t == .i64)]
  | .cmp k t => [match t.fmt? with
    | some f => .gcmp plain 0 a b 0 f k
    | none => .icmp plain 0 a b 0 (t == .i64) false k, oneOrZero]
  | .cvt t s => [.cvt plain o1 (typ t) (typ s) .rn (if isScalarReal t then .sat else .dflt)]
  | .load t off => loaded (.ldg plain r a off (some t) (wid t))
  | .store t off => [.stg plain a b none off (some t) (wid t)]
  | .lds t off => loaded (.lds plain r a off (some t) (wid t))
  | .sts t off => [.sts plain a b off (some t) (wid t)]
  | .atomAdd t off => loaded (.atom plain ⟨r, a, b, .zero⟩ off .iadd (wid t) .die false)
  | .fence 0 sc => [.fenceAcq plain sc]
  | .fence 1 sc => [.fenceRel plain sc]
  | .fence _ sc => [.fenceAr plain sc]
  | .bar => [.bar plain]
  | .nop | .open_ _ _ | .else_ | .end_ | .br _ | .brIf _ | .return_ | .drop _ | .const _ _ => []

end Sniuno

/-! ### One instruction -/

/-- The values an instruction pops in a thread, bottom first; the value of a local stands for them where it reads one. -/
def SnThread.inputs (t : SnThread) (i : SnInstr) : List DWord :=
  match i with
  | .localGet _ n => [(t.locals[n]?).getD 0]
  | i => (t.vals.take i.effect.1.length).reverse

/-- The types of those values. -/
def SnInstr.inputTypes : SnInstr → List Tag
  | .localGet t _ => [t]
  | i => i.effect.1

/-- The warp with the operands of the active threads in the registers of the native equivalent (R428). -/
def SnRun.place (r : SnRun) (i : SnInstr) (w : Warp) : Warp :=
  (i.inputTypes.zipIdx).foldl (fun w (x : Tag × Nat) =>
    let val (l : Lane) : DWord := ((r.threads[l.val].inputs i)[x.2]?).getD 0
    let reg (k : Nat) : Fin 64 := vUp 0 (2 * x.2 + k)
    { w with
      v := (w.v.set (reg 0).val (Vector.ofFn fun l => loWord (val l))).set (reg 1).val (Vector.ofFn fun l => hiWord (val l))
      vt := (w.vt.set (reg 0).val x.1).set (reg 1).val x.1 })
    { w with m := r.m, x := r.x, stack := [], mode := 0, vt := (w.vt.set 6 .undef).set 7 .undef }

/-- The result of an instruction in a lane, read where its native equivalent has left it. -/
def SnRun.result (w : Warp) (i : SnInstr) (l : Lane) : DWord :=
  let word : DWord := (w.vAt 6 l).setWidth 64
  let pair : DWord := pairOf (w.vAt 6 l) (w.vAt 7 l)
  match i with
  | .const _ n => n
  | .localSet t _ => if t = .i64 then pair else word
  | i => if i.effect.2 = some .i64 then pair else word

/-- The thread after an instruction that moves no control. -/
def SnThread.after (t : SnThread) (i : SnInstr) (val : DWord) : SnThread :=
  let vals := t.vals.drop i.effect.1.length
  match i with
  | .localSet _ n => { t with vals := vals, locals := t.locals.set n val }
  | .localTee _ n => { t with vals := val :: vals, locals := t.locals.set n val }
  | i => { t with vals := if i.effect.2.isSome then val :: vals else vals }

/-- The thread at the label of the frame n levels out, with the value that the label carries, and the offset of the label;
none where the label is the function's, which acts as `return` (R429). -/
def SnThread.branch (t : SnThread) (n : Nat) : Option (SnThread × Nat) :=
  match t.frames[n]? with
  | none => none
  | some g =>
    let below := t.vals.drop (t.vals.length - g.height)
    match g.kind with
    | .func => none
    | .loop => some ({ t with vals := below, frames := t.frames.drop n }, g.start)
    | _ => some ({ t with
        vals := if g.result.isSome then t.vals.take 1 ++ below else below, frames := t.frames.drop n }, g.fin)

/-- Changes the active threads. -/
def SnRun.mapActive (r : SnRun) (f : Lane → SnThread → SnThread) : SnRun :=
  { r with threads := Vector.ofFn fun l => if r.m.getLsbD l.val then f l r.threads[l.val] else r.threads[l.val] }

/-- The paths after a transfer of each active lane to an offset, by the common step of R123 (R430). -/
def SnRun.transfer (r : SnRun) (w : Warp) (dest : Lane → Nat) : SnRun :=
  let path : Warp := { w with m := r.m, x := r.x, stack := r.stack, pc := BitVec.ofNat 64 r.off }
  match path.transfer fun l => BitVec.ofNat 64 (dest l) with
  | some w => { r with m := w.m, x := w.x, stack := w.stack, off := w.pc.toNat, now := none, todo := [] }
  | none => r

/-- The paths after the threads of the lanes `e` have ended, the other active lanes going on (R125). -/
def SnRun.leave (r : SnRun) (w : Warp) (e : Mask) (dest : Lane → Nat) : SnRun :=
  let r := { r with m := r.m &&& ~~~e, x := r.x ||| (r.m &&& e) }
  if r.m ≠ 0 then r.transfer w dest
  else
    let path : Warp := { w with m := 0, x := r.x, stack := r.stack, pc := BitVec.ofNat 64 r.off }
    let path := path.settlePath 32
    { r with m := path.m, stack := path.stack, off := path.pc.toNat, now := none, todo := [] }

/-- The join point of a frame at its `end` (R124, R430). -/
def SnRun.joinAt (r : SnRun) (fin : Nat) : SnRun :=
  let e : StackEntry := { mask := r.m, pending := false, pc := BitVec.ofNat 64 fin }
  match r.stack with
  | t :: _ => if !t.pending && t.pc == e.pc then r else { r with stack := e :: r.stack }
  | [] => { r with stack := [e] }

/-- A lane's I32 at the top of its stack is non-zero. -/
def SnRun.taken (r : SnRun) (l : Lane) : Bool := loWord ((r.threads[l.val].vals.head?).getD 0) != 0

/-- The paths after the lanes `e` have left the frames inside `g` for its label, the others going on at `next` (R430): they are no
longer awaited at the ends of those frames, and wait at the end of `g`, or for their next turn at its start. -/
def SnRun.leaveTo (r : SnRun) (w : Warp) (g : SnLabel) (e : Mask) (next : Nat) : SnRun :=
  let own (y : StackEntry) : Bool := !y.pending && y.pc == BitVec.ofNat 64 g.fin
  let inner := ((r.stack.takeWhile fun y => !own y).map fun y => { y with mask := y.mask &&& ~~~e }).filter fun y => y.mask != 0
  let outer := r.stack.dropWhile fun y => !own y
  let again : List StackEntry := if g.kind = .loop then [{ mask := e, pending := true, pc := BitVec.ofNat 64 g.start }] else []
  let r : SnRun := { r with m := r.m &&& ~~~e, stack := inner ++ again ++ outer }
  if r.m ≠ 0 then r.transfer w fun _ => next
  else
    let path := ({ w with m := 0, x := r.x, stack := r.stack, pc := BitVec.ofNat 64 r.off } : Warp).settlePath 32
    { r with m := path.m, stack := path.stack, off := path.pc.toNat, now := none, todo := [] }

/-- The branch of the lanes `e` to the frame n levels out, the others going on at `next` (R429). -/
def SnRun.branch (r : SnRun) (w : Warp) (n : Nat) (e : Mask) (next : Nat) : SnRun :=
  let ends := e &&& maskOf fun l => (r.threads[l.val].branch n).isNone
  let dest (l : Lane) : Nat :=
    if e.getLsbD l.val then ((r.threads[l.val].branch n).map (·.2)).getD next else next
  let s := r.mapActive fun l t => if e.getLsbD l.val then ((t.branch n).map (·.1)).getD t else t
  match (lowestLane e).bind fun l => r.threads[l.val].frames[n]? with
  | some g => if r.m &&& ends ≠ 0 then s.leave w ends dest else if n = 0 then s.transfer w dest else s.leaveTo w g e next
  | none => s.transfer w dest

/-- What an instruction does once its native equivalent is done (R428 to R430). -/
def SnRun.settle (r : SnRun) (w : Warp) (i : SnInstr) (len : Nat) : SnRun :=
  let next := r.off + len
  let pop (t : SnThread) : SnThread := { t with vals := t.vals.drop 1 }
  match i with
  | .open_ k t =>
    match matchEnd r.types (r.body.length + 1) next 0 none (r.body.drop next) with
    | none => r
    | some (fin, alt) =>
      let r' := r.joinAt fin
      let dest (l : Lane) : Nat := if k = .if_ && !r.taken l then alt.getD fin else next
      (r'.mapActive fun _ th =>
        let th := if k = .if_ then pop th else th
        { th with frames := ⟨k, t, th.vals.length, next, fin⟩ :: th.frames }).transfer w dest
  | .else_ => r.transfer w fun l => ((r.threads[l.val].frames.head?).map (·.fin)).getD next
  | .end_ =>
    let last := r.m &&& maskOf fun l => r.threads[l.val].frames.length ≤ 1
    let r' := r.mapActive fun _ t => { t with frames := t.frames.drop 1 }
    if last ≠ 0 then r'.leave w last fun _ => next else r'.transfer w fun _ => next
  | .br n => r.branch w n r.m next
  | .brIf n =>
    let e := maskOf fun l => r.taken l
    (r.mapActive fun _ t => pop t).branch w n (r.m &&& e) next
  | .return_ => r.leave w r.m fun _ => next
  | i => (r.mapActive fun l t => t.after i (SnRun.result w i l)).transfer w fun _ => next

/-- The function has ended in every lane. -/
def SnRun.isOver (r : SnRun) : Bool := r.m == 0 && r.stack.isEmpty

/-- Changes the warp that carries the threads. -/
def carry (k : CoreIx) (j : SlotIx) (f : Warp → Warp) (s : State) : State := { s with dev := s.dev.modWarp k j f }

/-- Begins the instruction at the run's offset: the operands are placed and its native instructions stand to be run. -/
def SnRun.begin (r : SnRun) (k : CoreIx) (j : SlotIx) (w : Warp) (s : State) : SnRun × State :=
  match snDecode r.types 256 (r.body.drop r.off) with
  | .error _ => (r, s)
  | .ok (i, len) =>
    ({ r with now := some (i, len), todo := Sniuno.native i, base := w.pc }, carry k j (r.place i) s)

/-- One step of a function that the warp in a slot runs: the next native instruction of the instruction under way, the
instruction's own effect once none is left, the next instruction, or the warp's EXIT when every thread has ended. The warp
runs no native code of its own meanwhile; the steps of the other agents stand between these. -/
def SnRun.step (r : SnRun) (k : CoreIx) (j : SlotIx) (s : State) : SnRun × State :=
  match s.dev.slot k j with
  | none => (r, s)
  | some w =>
    let s := { s with dev := { s.dev with curCore := k, curSlot := j } }
    if w.status ≠ .running ∨ w.inHandler then (r, s)
    else match r.now with
      | none =>
        if r.isOver then
          match exec (.exit Sniuno.plain) (carry k j (fun w => { w with m := r.x, x := ~~~r.x, stack := [] }) s) with
          | .next t => (r, t)
          | _ => (r, s)
        else r.begin k j w s
      | some (i, len) =>
        if w.pc ≠ r.base then ({ r with todo := r.todo.drop 1 }, carry k j (fun w => { w with pc := r.base }) s)
        else match r.todo with
          | [] => if w.hazards.any fun h => s.dev.clock < h.due then (r, s) else (r.settle w i len, s)
          | n :: _ =>
            if w.hazards.any fun h => s.dev.clock < h.due then (r, s)
            else match exec n s with
              | .next t => (r, t)
              | _ => (r, s)

end Sys2Proof.Machine
end

