-- ==== Sys2Proof/Tests/Slice0.lean ====
section
/-! SUPPORT. The model's own tests: terms that WellFormed refuses, the words of the manual's examples, one step of an
instruction with the manual's worked results, and states that meet the hypotheses of the statements. -/

namespace Sys2Proof.Tests

open Machine

set_option Elab.async false

/-- No guard and no hint. -/
def plain : Ctl := { gp := 7, gn := false, stop := false, stall := 0, sb := 0, yield := false }
/-- A guard. -/
def guarded (gp : Fin 8) : Ctl := { plain with gp := gp }
/-- A negated guard. -/
def negated (gp : Fin 8) : Ctl := { plain with gp := gp, gn := true }
/-- A safe point. -/
def safe : Ctl := { plain with stop := true }

/-- The three words of an instruction, least significant first (R25). -/
def word (w0 w1 w2 : Word) : BitVec 96 := w2 ++ w1 ++ w0

/-! ### Terms that WellFormed refuses -/

/-- R72, R12: pairs are even registers or constants. -/
theorem test_wf_pairs : ∀ i ∈ [
    Instr.brx plain (.v 3) 0, .callDirect plain (.v 5) 0, .iadd plain ⟨.v 4, .v 5, .v 6⟩ 0 true false false,
    .iadd plain ⟨.v 5, .v 4, .v 6⟩ 0 true false false, .lea plain ⟨.v 1, .v 2, .v 4⟩ 0 false 0, .ldg plain (.v 1) (.v 3) 0 none .b32,
    .ldg plain (.v 1) (.v 2) 0 none .b64, .ldg plain (.v 2) (.v 2) 0 none .b128, .stg plain (.v 2) (.v 6) none 0 none .b128,
    .cpyGl plain (.w 5) (.w 2) (.w 6) none, .timeClock plain (.w 3), .wstep plain ⟨.v 10, .v 11, .v 2, .v 3⟩ 0 .l32 .rn .dflt],
    i.wf = false := by decide +kernel

/-- R74: a w destination takes uniform sources only, and so do the fields of class q. -/
theorem test_wf_uniform : ∀ i ∈ [
    Instr.iadd plain ⟨.w 4, .v 6, .inl 1⟩ 0 false false false, .mov plain ⟨.w 4, .sp 0⟩ 0 false, .join plain 3 (.v 1) 0,
    .depdec plain (.v 2) (.inl 1) 0, .publish plain (.v 3) 0, .mts plain (.v 1) 0, .chmad plain 20 16 (.v 5) 20 0 false],
    i.wf = false := by decide +kernel

/-- R27, R31: IMM32 is zero unless a source reads it, and an instruction with its own use of it takes no source 0x79. -/
theorem test_wf_imm : ∀ i ∈ [
    Instr.iadd plain ⟨.v 1, .v 2, .v 3⟩ 5 false false false, .mov plain ⟨.v 1, .v 2⟩ 1 false,
    .bfn3 plain ⟨.v 1, .v 2, .v 3, .imm⟩ 0xF8 false, .ldg plain (.v 1) .imm 0 none .b32, .stg plain (.v 2) .imm none 0 none .b32],
    i.wf = false := by decide +kernel

/-- R30, R31: a constant read as a real lies within the format. -/
theorem test_wf_real_constants : ∀ i ∈ [
    Instr.gadd plain ⟨.v 1, .v 2, .inl 26⟩ 0 .l8a .rn .dflt, .gadd plain ⟨.v 1, .v 2, .inl 35⟩ 0 .l8a .rn .dflt,
    .gadd plain ⟨.v 1, .v 2, .inl 22⟩ 0 .l8b .rn .dflt, .gadd plain ⟨.v 1, .v 2, .imm⟩ 0x10000 .l16 .rn .dflt,
    .stg plain (.v 2) (.inl 63) none 0 (some .l8a) .b8], i.wf = false := by decide +kernel

/-- R79 to R81 and Table 3.3: modifiers that no instruction has. -/
theorem test_wf_modifiers : ∀ i ∈ [
    Instr.icmp plain 1 (.v 1) (.v 2) 0 false false .num, .chcmp plain 1 16 17 .nan, .gcmp plain 1 (.v 1) (.v 2) 0 .l16x2 .lt,
    .gclass plain ⟨.v 1, .v 2⟩ 0 .l8ax4, .wmerge plain ⟨.v 2, .v 4, .v 6, .v 8⟩ 0 .l8a .rn .dflt,
    .cvt plain ⟨.v 1, .v 2⟩ .l16 .l16 .rn .dflt, .cvt plain ⟨.v 1, .v 2⟩ .i32 .l16 .rn .sat, .cvt plain ⟨.v 1, .v 2⟩ .i32 .f16 .rn .dflt,
    .pack plain ⟨.v 1, .v 2, .v 3, .v 4⟩ 0 .l16 false, .pack plain ⟨.v 1, .v 2, .v 3, .v 4⟩ 0 .l16x2 true,
    .unpk plain ⟨.v 1, .v 2⟩ 0 .l16x2 2, .retag plain .undef ⟨.v 1, .v 2⟩ 0, .redx plain ⟨.v 1, .v 2⟩ 0 (.gadd .l16x2 .rn),
    .ldg plain (.v 1) (.v 2) 0 (some .l16) .b32, .ldg plain (.v 1) (.v 2) 0 (some .raw) .b32,
    .stg plain (.v 2) (.v 5) (some (.w 5)) 0 none .b16, .stg plain (.v 2) (.v 5) (some (.v 5)) 0 (some .l16) .b16],
    i.wf = false := by decide +kernel

/-- R200, R265, Table 5.5: chain ranges, widths of atomic operations and system registers. -/
theorem test_wf_ranges : ∀ i ∈ [
    Instr.bind plain 4 16 0, .bind plain 4 16 49, .unbind plain 60 5, .atom plain ⟨.v 4, .v 8, .v 10, .zero⟩ 0 .iadd .b8 .die false,
    .atom plain ⟨.v 4, .v 8, .v 10, .zero⟩ 0 .gadd .b64 .die false, .atom plain ⟨.v 4, .v 8, .v 10, .v 12⟩ 0 .iadd .b32 .die false,
    .atom plain ⟨.v 4, .v 9, .v 10, .v 12⟩ 0 .cas .b32 .die false, .red plain (.v 8) (.v 10) 0 .cas .b32 .die false,
    .red plain (.v 8) (.v 10) 0 .exch .b32 .die false, .mfs plain (.w 4) 3, .mfs plain (.w 4) 0x200, .mts plain (.w 4) 1,
    .mts plain (.w 4) 0x1CF], i.wf = false := by decide +kernel

/-! ### The words of the manual's examples -/

/-- The words stand for the instruction, and its encoding is the words. -/
def stands (w0 w1 w2 : Word) (i : Instr) : Prop := decode (word w0 w1 w2) = .ok i ∧ encode i = some (word w0 w1 w2)

theorem test_words_control :
    stands 0x78787005 0x004C7878 0x00400000 (.rcv safe 0x4C) ∧ stands 0x78789001 0x00287878 0 (.bra (negated 1) 0x28) ∧
    stands 0x78781001 0xFF8C7878 0x0000FFFF (.bra (guarded 1) 0xFFFFFF8C) ∧
    stands 0x78787001 0xFFB47878 0x0000FFFF (.bra plain 0xFFFFFFB4) ∧
    stands 0x78789006 0x00007878 0 (.exit (negated 1)) ∧ stands 0x7878700C 0xFFC07878 0xFF (.waitc plain 0 63 63 63) ∧
    stands 0x7878700D 0x01907878 0 (.sleep plain 400) ∧ stands 0x7878710B 0x00DC7878 0 (.pfi plain 1 0xDC) ∧
    stands 0x7878700B 0xFFD07878 0 (.pfi plain 0 0xFFD0) := by
  refine ⟨?_, ?_, ?_, ?_, ?_, ?_, ?_, ?_, ?_⟩ <;> constructor <;> decide +kernel

theorem test_words_integer :
    stands 0x06047010 0x000078FF 0x00210000 (.iadd plain ⟨.v 4, .v 6, .inl 0x7F⟩ 0 true false true) ∧
    stands 0x02017021 0x00F80403 0 (.bfn3 plain ⟨.v 1, .v 2, .v 3, .v 4⟩ 0xF8 false) ∧
    stands 0x02017025 0x0000889C 0 (.bfe plain ⟨.v 1, .v 2, .inl 28, .inl 8⟩ 0 false) ∧
    stands 0x02017025 0x0000889C 0x00100000 (.bfe plain ⟨.v 1, .v 2, .inl 28, .inl 8⟩ 0 true) ∧
    stands 0x60717027 0x00007888 0x00040000 (.icmp plain 1 (.sp 0) (.inl 8) 0 false false .lt) ∧
    stands 0x4A727027 0x00007881 0 (.icmp plain 2 (.w 10) (.inl 1) 0 false false .eq) ∧
    stands 0x60037014 0x00004784 0 (.imad plain ⟨.v 3, .sp 0, .inl 4, .w 7⟩ 0 false) ∧
    stands 0x60017014 0x02104C79 0 (.imad plain ⟨.v 1, .sp 0, .imm, .w 12⟩ 0x210 false) ∧
    stands 0x4848722C 0x00007878 0 (.retag plain .i64 ⟨.w 8, .w 8⟩ 0) ∧
    stands 0x4220702B 0x00007860 0x000E0000 (.lea plain ⟨.v 32, .w 2, .sp 0⟩ 0 false 7) ∧
    stands 0x4A067019 0x00007860 0x00200000 (.shl plain ⟨.v 6, .w 10, .sp 0⟩ 0 true) := by
  refine ⟨?_, ?_, ?_, ?_, ?_, ?_, ?_, ?_, ?_, ?_, ?_⟩ <;> constructor <;> decide +kernel

/-- GMAX has OP 0x39 as in Table 3.6 (log 27). -/
theorem test_words_real :
    stands 0x01027032 0x0000789E 0x000C0000 (.gmul plain ⟨.v 2, .v 1, .inl 0x1E⟩ 0 .l32 .dflt) ∧
    stands 0x02017034 0x00000403 0x000A0000 (.gmad plain ⟨.v 1, .v 2, .v 3, .v 4⟩ 0 .l16 .sr .dflt) ∧
    stands 0x01057440 0x0000029F 0x00080000 (.gexp2 plain ⟨.v 5, .v 1, .inl 0x1F, .v 2⟩ 0 .l16 .rn .dflt true) ∧
    stands 0x0A0A7044 0x00000302 0x000C0000 (.wstep plain ⟨.v 10, .v 10, .v 2, .v 3⟩ 0 .l32 .rn .dflt) ∧
    stands 0x790A7030 0xFFFF7879 0x00080000 (.gadd plain ⟨.v 10, .imm, .imm⟩ 0xFFFF .l16 .rn .dflt) ∧
    stands 0x0A0C7039 0x00007800 0x00080000 (.gmax plain ⟨.v 12, .v 10, .v 0⟩ 0 .l16) ∧
    stands 0x0B0F7437 0x00007878 0x00080000 (.grcp plain ⟨.v 15, .v 11⟩ 0 .l16 .dflt true) ∧
    stands 0x0A0A703C 0x000078EC 0x000C0000 (.gscale plain ⟨.v 10, .v 10, .inl 0x6C⟩ 0 .l32 .dflt) ∧
    stands 0x03027050 0x00007878 0x00240000 (.cvt plain ⟨.v 2, .v 3⟩ .l8a .f16 .rn .dflt) ∧
    stands 0x07067B50 0x00027878 0x00080000 (.cvt plain ⟨.v 6, .v 7⟩ .e4m3 .l16 .rn .ovf) ∧
    stands 0x080A7350 0x00007878 0x00180000 (.cvt plain ⟨.v 10, .v 8⟩ .l32 .i64 .rn .dflt) := by
  refine ⟨?_, ?_, ?_, ?_, ?_, ?_, ?_, ?_, ?_, ?_, ?_⟩ <;> constructor <;> decide +kernel

theorem test_words_lanes_and_chains :
    stands 0x01037260 0x00007884 0 (.lpick plain ⟨.v 3, .v 1, .inl 4⟩ 0 .down false) ∧
    stands 0x02227261 0x00007806 0 (.bfly plain 34 2 6 2) ∧ stands 0x71727162 0x00007878 0 (.predx plain (.any 2) 1) ∧
    stands 0x08447663 0x00007878 0x000C0000 (.redx plain ⟨.w 4, .v 8⟩ 0 (.gadd .l32 .rn)) ∧
    stands 0x874370A0 0x00007878 0 (.join plain 3 (.inl 7) 0) ∧ stands 0x727171A3 0x00007878 0 (.barv plain true 1 2) ∧
    stands 0x427870A5 0x00007881 0 (.depdec plain (.w 2) (.inl 1) 0) ∧ stands 0x78107470 0x00087878 0 (.bind plain 4 16 8) ∧
    stands 0x10147074 0x00001445 0 (.chmad plain 20 16 (.w 5) 20 0 false) ∧
    stands 0x10717077 0x00007811 0x00040000 (.chcmp plain 1 16 17 .lt) ∧
    stands 0x02107079 0x00807878 0 (.chld plain 16 (.v 2) 0x80) ∧ stands 0x784A707B 0x00007878 0 (.chmvc plain (.w 10) false) ∧
    stands 0x10107075 0x000078A0 0 (.chshl plain 16 16 (.inl 32) 0) := by
  refine ⟨?_, ?_, ?_, ?_, ?_, ?_, ?_, ?_, ?_, ?_, ?_, ?_, ?_⟩ <;> constructor <;> decide +kernel

theorem test_words_memory :
    stands 0x40017680 0x00407878 0x00500000 (.ldg safe (.v 1) (.w 0) 0x40 (some .l32) .b32) ∧
    stands 0x04787581 0x00104505 0x00090000 (.stg plain (.v 4) (.v 5) (some (.w 5)) 0x10 (some .l16) .b16) ∧
    stands 0x4C4A7182 0x40007878 0x00100000 (.lds plain (.w 10) (.w 12) 0x4000 (some .i32) .b32) ∧
    stands 0x04787083 0x00107805 0x00100000 (.sts plain (.v 4) (.v 5) 0x10 none .b32) ∧
    stands 0x01787083 0x00007880 0 (.sts plain (.v 1) (.inl 0) 0 none .b8) ∧
    stands 0x42007084 0x00007878 0x001E0000 (.ldv plain (.v 0) (.w 2) 0 none .b64 .system) ∧
    stands 0x02017085 0x00107803 0x00140000 (.atom plain ⟨.v 1, .v 2, .v 3, .zero⟩ 0x10 .iadd .b32 .die false) ∧
    stands 0x02017A85 0x00007803 0x00140000 (.atom plain ⟨.v 1, .v 2, .v 3, .zero⟩ 0 .gadd .b32 .die false) ∧
    stands 0x02787086 0x00007881 0x00130000 (.red plain (.v 2) (.inl 1) 0 .iadd .b32 .cluster true) ∧
    stands 0x48787087 0x00007878 0 (.monitor plain (.w 8) 0) ∧ stands 0x78787088 0x00107878 0 (.waitmon plain 16) ∧
    stands 0x78787189 0x00007878 0x00040000 (.fenceRel plain .die) ∧
    stands 0x4378728B 0x00027878 0 (.bankcfgFifo plain (.w 3) 2) ∧
    stands 0x4378708C 0x00004644 0 (.rmapMap plain (.w 3) (.w 4) (.w 6) 0) ∧
    stands 0x4378718C 0x00007878 0 (.rmapUnmap plain (.w 3) 0) := by
  refine ⟨?_, ?_, ?_, ?_, ?_, ?_, ?_, ?_, ?_, ?_, ?_, ?_, ?_, ?_, ?_⟩ <;> constructor <;> decide +kernel

theorem test_words_engines :
    stands 0x447810B0 0x1005464A 0 (.cpyGl (guarded 1) (.w 4) (.w 10) (.w 6) (some 5)) ∧
    stands 0x467812B0 0x0000504D 0 (.cpyGf (guarded 1) (.w 6) (.w 13) (.w 16) none) ∧
    stands 0x4C0170B4 0x00007878 0 (.cbacq plain (.v 1) (.w 12) 0) ∧ stands 0x4C7870B5 0x00007878 0 (.cbrel plain (.w 12) 0) ∧
    stands 0x437870B2 0x00007878 0 (.publish plain (.w 3) 0) ∧ stands 0x447870B3 0x00007878 0 (.lrinv plain (.w 4) 0) ∧
    stands 0x787871B3 0x00007878 0 (.lrinvAll plain) ∧ stands 0x447870C0 0x00007878 0 (.mmaGlob plain (.w 4) 0) ∧
    stands 0x4C7811C0 0x00007878 0 (.mmaLoc (guarded 1) (.w 12) 0) ∧
    stands 0x447870C1 0x1003464A 0 (.mdrain plain (.w 4) (.w 10) (.w 6) (some 3)) ∧
    stands 0x437870C2 0x00007884 0 (.mzero plain (.w 3) (.inl 4) 0) ∧ stands 0x027870C3 0x00007885 0 (.tbld plain (.v 2) (.inl 5) 0) ∧
    stands 0x457870D2 0x00007878 0 (.statrst plain (.w 5) 0) ∧
    stands 0x020170D0 0x00004645 0 (.qnt plain ⟨.v 1, .v 2, .w 5⟩ 6 0 .l8a .rn) ∧
    stands 0x450370D1 0x00027878 0 (.statrd plain (.v 3) (.w 5) 2) ∧
    stands 0x457870D3 0x10027847 0 (.statmrg plain (.w 5) (.w 7) (some 2)) ∧
    stands 0x784470E0 0x01057878 0 (.mfs plain (.w 4) 0x105) ∧ stands 0x807870E1 0x01F07878 0 (.mts plain (.inl 0) 0x1F0) := by
  refine ⟨?_, ?_, ?_, ?_, ?_, ?_, ?_, ?_, ?_, ?_, ?_, ?_, ?_, ?_, ?_, ?_, ?_, ?_⟩ <;> constructor <;> decide +kernel

/-- Table 1.7: the reason of the first check that fails. -/
theorem test_words_refused :
    decode (word 0x02017030 0x00007803 0x00880000) = .error .reservedBit ∧
    decode (word 0x02017030 0x00007C03 0x00880000) = .error .reservedBit ∧
    decode (word 0x02017030 0x00007C03 0x00080000) = .error .operand ∧ decode (word 0x787870FF 0x00007878 0) = .error .opcode ∧
    decode (word 0x78787100 0x00007878 0) = .error .variant ∧ decode (word 0x78787000 0x00017878 0) = .error .imm := by
  refine ⟨?_, ?_, ?_, ?_, ?_, ?_⟩ <;> decide +kernel


/-! ### One step of an instruction of a warp -/

/-- NOP placed to run next in the machine after reset. -/
def base : State := State.reset.withFetchWord 96 (word 0x78787000 0x00007878 0).toNat

/-- The same, its warp changed. -/
def with_ (f : Warp → Warp) : State := base.onDev fun d => d.modWarp 0 0 f

/-- A v register with a value in each lane. -/
def lanes (r : Fin 64) (t : Tag) (f : Lane → Word) (w : Warp) : Warp :=
  { w with v := w.v.set r.val (Vector.ofFn f), vt := w.vt.set r.val t }

/-- A v register with one value. -/
def vreg (r : Fin 64) (t : Tag) (x : Word) (w : Warp) : Warp := lanes r t (fun _ => x) w

/-- A w register. -/
def wreg (r : Fin 32) (t : Tag) (x : Word) (w : Warp) : Warp := w.setW r x t

/-- A pair of w registers that holds an address. -/
def wpair (r s : Fin 32) (x : DWord) (w : Warp) : Warp := (w.setW r (loWord x) .i64).setW s (hiWord x) .i64

/-- A predicate. -/
def pred (r : Fin 7) (x : Mask) (w : Warp) : Warp := { w with p := w.p.set r.val x }

/-- The instruction goes on, and its warp meets a test. -/
def gives (i : Instr) (f : Warp → Warp) (q : Warp → Bool) : Bool :=
  match exec i (with_ f) with
  | .next t => match t.dev.slot 0 0 with
    | some w => q w
    | none => false
  | _ => false

/-- A v register holds a value under a tag in lane 5, and the warp goes on at the next slot (R33). -/
def holds (r : Fin 64) (t : Tag) (x : Word) (w : Warp) : Bool := w.vAt r 5 == x && w.vTag r == t && w.pc == 0x10010

/-- The warp parks with the code of a fault in its record (R362). -/
def parks (code : Nat) (w : Warp) : Bool :=
  w.status == .parked && (w.record.map fun r => fieldOf r[5] 7 0) == some code && w.pc == 0x10004

-- R131; R123: a branch moves all lanes; a guard that holds in no lane moves none (R26).
theorem test_nop : gives (.nop plain) id (fun w => w.pc == 0x10010 && w.m == Mask.all) = true := by decide +kernel
theorem test_bra : gives (.bra plain 0x30) id (fun w => w.pc == 0x10034) = true := by decide +kernel
/-- R123: lanes 0 to 7 branch, and the others wait in a pending entry. -/
theorem test_bra_split : gives (.bra (guarded 1) 0x30) (pred 1 0xFF) (fun w => w.m == 0xFF && w.pc == 0x10034 &&
    w.stack == [{ mask := 0xFFFFFF00, pending := true, pc := 0x10010 }]) = true := by decide +kernel
theorem test_brx : gives (.brx plain (.w 2) 0) (wpair 2 3 0x10044) (fun w => w.pc == 0x10044) = true := by decide +kernel
/-- R33, R44: a slab's header is no destination. -/
theorem test_brx_header : gives (.brx plain (.w 2) 0) (wpair 2 3 0x10040) (parks Code.fetchInvalid) = true := by
  decide +kernel
theorem test_call : gives (.callDirect plain (.w 4) 0x30) id (fun w =>
    w.pc == 0x10034 && pairOf (w.wAt 4) (w.wAt 5) == 0x10010 && w.wTag 4 == .i64) = true := by decide +kernel
theorem test_ret : gives (.ret plain (.w 2) 0) (wpair 2 3 0x10044) (fun w => w.pc == 0x10044) = true := by decide +kernel
theorem test_rcv : gives (.rcv plain 0x30) id (fun w =>
    w.stack == [{ mask := Mask.all, pending := false, pc := 0x10034 }] && w.pc == 0x10010) = true := by decide +kernel
/-- R122: lanes 0 to 7 leave, and the others go on. -/
theorem test_exit : gives (.exit (guarded 1)) (pred 1 0xFF) (fun w => w.x == 0xFF && w.m == 0xFFFFFF00) = true := by
  decide +kernel
theorem test_trap : gives (.trap plain 9) id (parks Code.trap) = true := by decide +kernel
theorem test_brk : gives (.brk plain 9) id (parks Code.brk) = true := by decide +kernel
/-- R128: outside a handler RTE takes TRAP. -/
theorem test_rte : gives (.rte plain) id (parks Code.trap) = true := by decide +kernel
theorem test_waitc : gives (.waitc plain 0 63 63 63) (fun w => { w with ld := 1 }) (fun w =>
    w.wait == some (.waitc 0 63 63 63) && w.pc == 0x10004) = true := by decide +kernel
theorem test_sleep : gives (.sleep plain 400) id (fun w => w.wait == some (.sleep 0 400)) = true := by decide +kernel

/-- The manual's example of IADD: −2^63 − 1 clamps under SAT. -/
theorem test_iadd_sat : gives (.iadd plain ⟨.v 4, .v 6, .inl 0x7F⟩ 0 true false true) (vreg 6 .i64 0 ∘ vreg 7 .i64 0x80000000)
    (fun w => holds 4 .i64 0 w && holds 5 .i64 0x80000000 w) = true := by decide +kernel
/-- Without SAT it wraps. -/
theorem test_iadd_wraps : gives (.iadd plain ⟨.v 4, .v 6, .inl 0x7F⟩ 0 true false false)
    (vreg 6 .i64 0 ∘ vreg 7 .i64 0x80000000)
    (fun w => holds 4 .i64 0xFFFFFFFF w && holds 5 .i64 0x7FFFFFFF w) = true := by decide +kernel
/-- R20: a source tagged UNDEF. -/
theorem test_iadd_format : gives (.iadd plain ⟨.v 1, .v 2, .inl 1⟩ 0 false false false) id (parks Code.format) = true := by
  decide +kernel
theorem test_isub : gives (.isub plain ⟨.v 1, .inl 3, .v 2⟩ 0 false true true) (vreg 2 .i32 5) (holds 1 .i32 0) = true := by
  decide +kernel
theorem test_imul : gives (.imul plain ⟨.v 1, .v 2, .v 2⟩ 0 false) (vreg 2 .i32 0x10001) (holds 1 .i32 0x00020001) = true := by
  decide +kernel
theorem test_imulh : gives (.imulh plain ⟨.v 1, .v 2, .inl 2⟩ 0 false false) (vreg 2 .i32 0x80000000)
    (holds 1 .i32 0xFFFFFFFF) = true := by decide +kernel
theorem test_imulh_unsigned : gives (.imulh plain ⟨.v 1, .v 2, .inl 2⟩ 0 false true) (vreg 2 .i32 0x80000000)
    (holds 1 .i32 1) = true := by decide +kernel
theorem test_imad : gives (.imad plain ⟨.v 3, .sp 0, .inl 4, .w 7⟩ 0 false) (wreg 7 .i32 100) (holds 3 .i32 120) = true := by
  decide +kernel
theorem test_imin : gives (.imin plain ⟨.v 1, .v 2, .inl 1⟩ 0 false true) (vreg 2 .i32 0x80000000) (holds 1 .i32 1) = true := by
  decide +kernel
theorem test_imax : gives (.imax plain ⟨.v 1, .v 2, .inl 1⟩ 0 false false) (vreg 2 .i32 0x80000000) (holds 1 .i32 1) = true := by
  decide +kernel
theorem test_iabs : gives (.iabs plain ⟨.v 1, .v 2⟩ 0 false true) (vreg 2 .i32 0x80000000) (holds 1 .i32 0x7FFFFFFF) = true := by
  decide +kernel
theorem test_ineg : gives (.ineg plain ⟨.v 1, .v 2⟩ 0 false false) (vreg 2 .i32 0x80000000) (holds 1 .i32 0x80000000) = true := by
  decide +kernel
/-- R97: a count of the width or more shifts everything out. -/
theorem test_shl : gives (.shl plain ⟨.v 1, .v 2, .inl 32⟩ 0 false) (vreg 2 .i32 1) (holds 1 .i32 0) = true := by decide +kernel
theorem test_shr : gives (.shr plain ⟨.v 1, .v 2, .inl 31⟩ 0 false) (vreg 2 .i32 0x80000000) (holds 1 .i32 1) = true := by
  decide +kernel
theorem test_sar : gives (.sar plain ⟨.v 1, .v 2, .inl 40⟩ 0 false) (vreg 2 .i32 0x80000000) (holds 1 .i32 0xFFFFFFFF) = true := by
  decide +kernel
theorem test_rot : gives (.rot plain ⟨.v 1, .v 2, .inl 4⟩ 0 false) (vreg 2 .i32 0x80000001) (holds 1 .i32 0x18) = true := by
  decide +kernel
theorem test_and : gives (.and plain ⟨.v 1, .v 2, .imm⟩ 0xFF00 false) (vreg 2 .l16 0x1234) (holds 1 .i32 0x1200) = true := by
  decide +kernel
theorem test_or : gives (.or plain ⟨.v 1, .v 2, .imm⟩ 0xFF00 false) (vreg 2 .i32 0x1234) (holds 1 .i32 0xFF34) = true := by
  decide +kernel
theorem test_xor : gives (.xor plain ⟨.v 1, .v 2, .imm⟩ 0xFF00 false) (vreg 2 .i32 0x1234) (holds 1 .i32 0xED34) = true := by
  decide +kernel
theorem test_not : gives (.not plain ⟨.v 1, .v 2⟩ 0 false) (vreg 2 .i32 1) (holds 1 .i32 0xFFFFFFFE) = true := by decide +kernel
/-- The manual's example of BFN3: a AND b OR c. -/
theorem test_bfn3 : gives (.bfn3 plain ⟨.v 1, .v 2, .v 3, .v 4⟩ 0xF8 false)
    (vreg 2 .i32 0xF0F0 ∘ vreg 3 .i32 0xFF00 ∘ vreg 4 .i32 1) (holds 1 .i32 0xF001) = true := by decide +kernel
theorem test_popc : gives (.popc plain ⟨.v 1, .v 2⟩ 0 false) (vreg 2 .i32 0xF00F0001) (holds 1 .i32 9) = true := by
  decide +kernel
theorem test_clz : gives (.clz plain ⟨.v 1, .v 2⟩ 0 false) (vreg 2 .i32 0) (holds 1 .i32 32) = true := by decide +kernel
theorem test_brev : gives (.brev plain ⟨.v 1, .v 2⟩ 0 false) (vreg 2 .i32 1) (holds 1 .i32 0x80000000) = true := by decide +kernel
/-- The manual's examples of BFE. -/
theorem test_bfe : gives (.bfe plain ⟨.v 1, .v 2, .inl 28, .inl 8⟩ 0 false) (vreg 2 .i32 0xF0F01234)
    (holds 1 .i32 0xFFFFFFFF) = true := by decide +kernel
theorem test_bfe_unsigned : gives (.bfe plain ⟨.v 1, .v 2, .inl 28, .inl 8⟩ 0 true) (vreg 2 .i32 0xF0F01234)
    (holds 1 .i32 15) = true := by decide +kernel
theorem test_icmp : gives (.icmp plain 1 (.sp 0) (.inl 8) 0 false false .lt) id (fun w => w.pred 1 == 0xFF) = true := by
  decide +kernel
/-- R100: index bits from pa, pb and pc; here pa and not pb. -/
theorem test_pcomb : gives (.pcomb plain 3 1 2 7 0x0A) (pred 1 0xFF ∘ pred 2 0x0F) (fun w => w.pred 3 == 0) = true := by
  decide +kernel
theorem test_sel : gives (.sel plain ⟨.v 1, .v 2, .v 3⟩ 1 0 false) (pred 1 0xFF ∘ vreg 2 .l16 7 ∘ vreg 3 .l16 9)
    (fun w => holds 1 .l16 7 w && w.vAt 1 8 == 9) = true := by decide +kernel
/-- R102: MOV keeps the tag of its source. -/
theorem test_mov : gives (.mov plain ⟨.v 1, .v 2⟩ 0 false) (vreg 2 .l16 7) (holds 1 .l16 7) = true := by decide +kernel
theorem test_lea : gives (.lea plain ⟨.v 32, .w 2, .sp 0⟩ 0 false 7) (wpair 2 3 0x7F0000100000)
    (fun w => holds 32 .i64 0x00100280 w && holds 33 .i64 0x7F00 w) = true := by decide +kernel
theorem test_retag : gives (.retag plain .raw ⟨.v 1, .v 1⟩ 0) (vreg 1 .i32 5) (holds 1 .raw 5) = true := by decide +kernel

/-- The manual's sums in L8A: 1.0 + 0.5 under RN and RZ. -/
theorem test_gadd : gives (.gadd plain ⟨.v 1, .v 2, .v 3⟩ 0 .l8a .rn .dflt) (vreg 2 .l8a 0 ∘ vreg 3 .l8a 0x38)
    (holds 1 .l8a 5) = true := by decide +kernel
theorem test_gadd_rz : gives (.gadd plain ⟨.v 1, .v 2, .v 3⟩ 0 .l8a .dyn .dflt)
    (vreg 2 .l8a 0 ∘ vreg 3 .l8a 0x38 ∘ fun w => { w with mode := 1 }) (holds 1 .l8a 4) = true := by decide +kernel
/-- 1.0 − 2^−0.125. -/
theorem test_gsub : gives (.gsub plain ⟨.v 1, .v 2, .v 3⟩ 0 .l8a .rn .dflt) (vreg 2 .l8a 0 ∘ vreg 3 .l8a 0x3F)
    (holds 1 .l8a 0x23) = true := by decide +kernel
theorem test_gmul : gives (.gmul plain ⟨.v 2, .v 1, .inl 0x1E⟩ 0 .l32 .dflt) (vreg 1 .l32 0x00400000) (holds 2 .l32 0) = true := by
  decide +kernel
theorem test_gdiv : gives (.gdiv plain ⟨.v 2, .v 1, .v 1⟩ 0 .l16 .dflt) (vreg 1 .l16 0xBF00) (holds 2 .l16 0) = true := by
  decide +kernel
/-- 8.0 + 8.0 is above range: +∞, or the largest value under SAT. -/
theorem test_gadd_over : gives (.gadd plain ⟨.v 1, .v 2, .v 2⟩ 0 .l8a .rn .dflt) (vreg 2 .l8a 0x18) (holds 1 .l8a 0x7F) = true := by
  decide +kernel
theorem test_gmad : gives (.gmad plain ⟨.v 1, .v 2, .v 2, .v 2⟩ 0 .l8a .rn .sat) (vreg 2 .l8a 0) (holds 1 .l8a 8) = true := by
  decide +kernel
theorem test_gsqrt : gives (.gsqrt plain ⟨.v 1, .v 2⟩ 0 .l16) (vreg 2 .l16 0x3F7F) (holds 1 .l16 0x3FC0) = true := by decide +kernel
theorem test_grsq : gives (.grsq plain ⟨.v 1, .v 2⟩ 0 .l16 .rz .dflt) (vreg 2 .l16 0x0081) (holds 1 .l16 0x3FBF) = true := by
  decide +kernel
theorem test_grcp : gives (.grcp plain ⟨.v 1, .v 2⟩ 0 .l32 .dflt false) (vreg 2 .l32 0x1FFFFFFF) (holds 1 .l32 0x20000001) = true := by
  decide +kernel
theorem test_grcp_over : gives (.grcp plain ⟨.v 1, .v 2⟩ 0 .l32 .sat false) (vreg 2 .l32 0x20000000)
    (holds 1 .l32 0x1FFFFFFF) = true := by decide +kernel
/-- R49: −0 = +0, and GMIN of the two is −0. -/
theorem test_gmin : gives (.gmin plain ⟨.v 1, .v 2, .v 3⟩ 0 .l8a) (vreg 2 .l8a 0x40 ∘ vreg 3 .l8a 0xC0) (holds 1 .l8a 0xC0) = true := by
  decide +kernel
theorem test_gmax : gives (.gmax plain ⟨.v 1, .v 2, .v 3⟩ 0 .l8a) (vreg 2 .l8a 0xA0 ∘ vreg 3 .l8a 0x80) (holds 1 .l8a 0xA0) = true := by
  decide +kernel
theorem test_gabs : gives (.gabs plain ⟨.v 1, .v 2⟩ 0 .l8a) (vreg 2 .l8a 0xA0) (holds 1 .l8a 0x20) = true := by decide +kernel
theorem test_gneg : gives (.gneg plain ⟨.v 1, .v 2⟩ 0 .l8a) (vreg 2 .l8a 0x20) (holds 1 .l8a 0xA0) = true := by decide +kernel
theorem test_gscale : gives (.gscale plain ⟨.v 1, .v 2, .inl 1⟩ 0 .l16 .dflt) (vreg 2 .l16 0) (holds 1 .l16 0x80) = true := by
  decide +kernel
theorem test_gpow : gives (.gpow plain ⟨.v 1, .v 2, .inl 3⟩ 0 .l16 .dflt) (vreg 2 .l16 0x0080) (holds 1 .l16 0x0180) = true := by
  decide +kernel
theorem test_gcmp : gives (.gcmp plain 1 (.v 2) (.v 3) 0 .l8a .lt) (vreg 2 .l8a 0x20 ∘ vreg 3 .l8a 0) (fun w =>
    w.pred 1 == Mask.all) = true := by decide +kernel
theorem test_gclass : gives (.gclass plain ⟨.v 1, .v 2⟩ 0 .l8a) (vreg 2 .l8a 0x7F) (fun w => w.vTag 1 == .i32 && w.vAt 1 0 != 0) = true := by
  decide +kernel
/-- The manual's cases of GEXP2 with MSK. -/
theorem test_gexp2 : gives (.gexp2 plain ⟨.v 5, .v 1, .inl 0x1F, .v 2⟩ 0 .l16 .rn .dflt true) (vreg 1 .l16 0x00CB ∘ vreg 2 .l16 0x0100)
    (holds 5 .l16 0x3F80) = true := by decide +kernel
theorem test_gexp2_masked : gives (.gexp2 plain ⟨.v 5, .v 1, .inl 0x1F, .v 2⟩ 0 .l16 .rn .dflt true)
    (vreg 1 .l16 0x7FFF ∘ vreg 2 .l16 0x7FFF) (holds 5 .l16 0) = true := by decide +kernel
theorem test_glog2 : gives (.glog2 plain ⟨.v 1, .v 2⟩ 0 .l16 .rn .dflt) (vreg 2 .l16 0x0180) (holds 1 .l16 0x00CB) = true := by
  decide +kernel
theorem test_gtanh : gives (.gtanh plain ⟨.v 1, .v 2⟩ 0 .l16 .rn .dflt) (vreg 2 .l16 0x7FFF) (holds 1 .l16 0) = true := by
  decide +kernel
theorem test_gsig : gives (.gsig plain ⟨.v 1, .v 2⟩ 0 .l16 .rn .dflt) (vreg 2 .l16 0x4000) (holds 1 .l16 0x3F80) = true := by
  decide +kernel
/-- R113: the first step gives the value itself and M2 +0. -/
theorem test_wstep : gives (.wstep plain ⟨.v 10, .v 10, .v 2, .v 3⟩ 0 .l32 .rn .dflt)
    (vreg 10 .l32 0x40000000 ∘ vreg 11 .l32 0x40000000 ∘ vreg 2 .l32 0x00400000 ∘ vreg 3 .i32 1)
    (fun w => holds 10 .l32 0x00400000 w && holds 11 .l32 0x40000000 w) = true := by decide +kernel
/-- The manual's conversions. -/
theorem test_cvt : gives (.cvt plain ⟨.v 2, .v 3⟩ .l32 .f32 .rn .dflt) (vreg 3 .raw 0x40400000) (holds 2 .l32 0x00657007) = true := by
  decide +kernel
theorem test_cvt_sat : gives (.cvt plain ⟨.v 2, .v 3⟩ .f16 .l16 .rn .sat) (vreg 3 .l16 0x0900) (holds 2 .raw 0x7BFF) = true := by
  decide +kernel
theorem test_pack : gives (.pack plain ⟨.v 1, .v 2, .v 3, .v 1⟩ 0 .l8ax4 true)
    (vreg 1 .l8ax4 0x11223344 ∘ vreg 2 .l8a 8 ∘ vreg 3 .l8a 0x40) (holds 1 .l8ax4 0x40083344) = true := by decide +kernel
theorem test_unpk : gives (.unpk plain ⟨.v 4, .v 1⟩ 0 .l8ax4 2) (vreg 1 .l8ax4 0x40083344) (holds 4 .l8a 8) = true := by decide +kernel
/-- The manual's example of LPICK: lane 12 reads lane 16, which does not participate; lanes 28 to 31 are not written. -/
theorem test_lpick : gives (.lpick (guarded 1) ⟨.v 3, .v 1, .inl 4⟩ 0 .down false)
    (pred 1 0xFFFF ∘ lanes 1 .i32 (fun l => BitVec.ofNat 32 (100 + l.val)))
    (fun w => w.vAt 3 3 == 107 && w.vAt 3 12 == 116 && w.vAt 3 28 == 0) = true := by decide +kernel
theorem test_bfly : gives (.bfly plain 32 0 1 0) (lanes 0 .i32 (fun l => if l = 0 then 0xA else 0xC) ∘
    lanes 1 .i32 (fun l => if l = 0 then 0xB else 0xD)) (fun w => w.vAt 32 0 == 0xA && w.vAt 32 1 == 0xB || w.vAt 32 1 == 0xD) = true := by
  decide +kernel
theorem test_predx : gives (.predx plain (.any 2) 1) (pred 1 0x10) (fun w => w.pred 2 == Mask.all) = true := by decide +kernel
theorem test_elect : gives (.elect (guarded 1) 2) (pred 1 0xF0) (fun w => w.pred 2 == 0x10) = true := by decide +kernel
theorem test_redx : gives (.redx (guarded 1) ⟨.w 4, .v 8⟩ 0 (.int .iadd false false)) (pred 1 0x23 ∘ vreg 8 .i32 7)
    (fun w => w.wAt 4 == 21) = true := by decide +kernel

/-- The manual's chain of S = 4: 2^96 + 2^64 − 1 and 1. -/
def chained (w : Warp) : Warp :=
  lanes 16 .limb (fun l => if l.val % 4 < 2 then 0xFFFFFFFF else if l.val % 4 = 2 then 0 else 1)
    (lanes 17 .limb (fun l => if l.val % 4 = 0 then 1 else 0) { w with chain := some { seg := 1, first := 16, count := 8 } })
theorem test_bind : gives (.bind plain 4 16 8) id (fun w => w.chain == some { seg := 4, first := 16, count := 8 } &&
    w.vTag 16 == .limb && w.vTag 24 == .undef && Dev.limbsWord w == 0x00018210) = true := by decide +kernel
theorem test_chadd : gives (.chadd plain 18 16 17 false) chained (fun w => w.vAt 18 0 == 0 && w.vAt 18 1 == 0 && w.vAt 18 2 == 1 &&
    w.vAt 18 3 == 1 && w.carry == 0x33333333) = true := by decide +kernel
theorem test_chsub : gives (.chsub plain 18 17 16 false) chained (fun w => w.vAt 18 0 == 2 && w.vAt 18 3 == 0xFFFFFFFE) = true := by
  decide +kernel
/-- The manual's CHMAD: 2^128 − 1 times 2, and times 3. -/
theorem test_chmad : gives (.chmad plain 20 16 (.w 5) 20 0 false) (wreg 5 .i32 2 ∘ vreg 20 .limb 0 ∘ vreg 16 .limb 0xFFFFFFFF ∘ chained)
    (fun w => w.vAt 20 0 == 0xFFFFFFFE && w.vAt 20 3 == 0xFFFFFFFF && w.carry == Mask.all) = true := by decide +kernel
theorem test_chmad_over : gives (.chmad plain 20 16 (.w 5) 20 0 false)
    (wreg 5 .i32 3 ∘ vreg 20 .limb 0 ∘ vreg 16 .limb 0xFFFFFFFF ∘ chained) (parks Code.limbOvf) = true := by decide +kernel
theorem test_chshl : gives (.chshl plain 16 16 (.inl 32) 0) chained (fun w => w.vAt 16 0 == 0 && w.vAt 16 2 == 0xFFFFFFFF) = true := by
  decide +kernel
theorem test_chshr : gives (.chshr plain 16 16 (.inl 63) 0 false) chained (fun w => w.vAt 16 0 == 1 && w.vAt 16 1 == 2) = true := by
  decide +kernel
theorem test_chcmp : gives (.chcmp plain 1 17 16 .lt) chained (fun w => w.pred 1 == Mask.all) = true := by decide +kernel
theorem test_chneg : gives (.chneg plain 18 17) chained (fun w => w.vAt 18 0 == 0xFFFFFFFF && w.vAt 18 3 == 0xFFFFFFFF) = true := by
  decide +kernel
theorem test_chmvc : gives (.chmvc plain (.v 10) false) (fun w => { chained w with carry := 8 }) (fun w =>
    w.vAt 10 0 == 1 && w.vAt 10 3 == 1 && w.vAt 10 4 == 0) = true := by decide +kernel
theorem test_unbind : gives (.unbind plain 16 8) chained (fun w => w.chain == none && w.vTag 16 == .i32) = true := by decide +kernel

theorem test_mfs : gives (.mfs plain (.w 4) 0) (fun w => { w with mode := 5 }) (fun w => w.wAt 4 == 5 && w.wTag 4 == .i32) = true := by
  decide +kernel
theorem test_mts : gives (.mts plain (.inl 1) 0) id (fun w => w.mode == 1) = true := by decide +kernel
theorem test_time : gives (.timeClock plain (.w 4)) id (fun w => w.wAt 4 == 0 && w.wTag 5 == .i64) = true := by decide +kernel


/-! ### Memory, engines and bands -/

/-- A writable page at virtual address 0x20000 in frame 3, whose walk is over (R246), and core 0's banks 10 and 11 as task 0's
allocation. -/
def mapped : State := base.onDev fun d => ((d.putRaw 0x22810 (leBytes 8 0x30000000F)).modCore 0 fun c => { c with
  allocs := [{ id := 7, owner := .task 0, ctx := 0, start := 10 * 0x4000, bytes := 0x8000 }] }).modWarp 0 0 fun w => { w with
  walked := [0] }

/-- The mapped machine, its warp changed. -/
def mappedWith (f : Warp → Warp) : State := mapped.onDev fun d => d.modWarp 0 0 f

/-- The instruction goes on, and the machine and its warp meet a test. -/
def leaves (i : Instr) (s : State) (q : Dev → Warp → Bool) : Bool :=
  match exec i s with
  | .next t => match t.dev.slot 0 0 with
    | some w => q t.dev w
    | none => false
  | _ => false

/-- The step of another agent goes on, and the die meets a test. -/
def moves (i : Instr) (s : State) (q : Dev → Bool) : Bool :=
  match exec i s with
  | .next t => q t.dev
  | _ => false

/-- A state after an instruction that goes on. -/
def thenState (i : Instr) (s : State) : State :=
  match exec i s with
  | .next t => t
  | _ => s

/-- R138, R141: a load is outstanding until it completes, and then its register holds the four bytes. -/
def loading : State := thenState (.ldg plain (.v 1) (.w 2) 4 none .b32)
  (mappedWith (wpair 2 3 0x20000) |>.onDev fun d => d.putRaw 0x30004 [0x78, 0x56, 0x34, 0x12])
theorem test_ldg : (loading.dev.slot 0 0).any (fun w => w.ld == 1 && w.vTag 1 == .undef && w.pc == 0x10010) = true := by
  decide +kernel
theorem test_load_completion : moves (.loadCompletion 0 0 0) loading (fun d => (d.slot 0 0).any fun w =>
    w.ld == 0 && w.vAt 1 5 == 0x12345678 && w.vTag 1 == .raw) = true := by decide +kernel
/-- R139: a misaligned address, and an address that no page maps. -/
theorem test_ldg_align : leaves (.ldg plain (.v 1) (.w 2) 2 none .b32) (mappedWith (wpair 2 3 0x20000)) (fun _ w =>
    parks Code.addrAlign w) = true := by decide +kernel
theorem test_ldg_unmapped : leaves (.ldg plain (.v 1) (.w 2) 0 none .b32) (mappedWith (wpair 2 3 0x30000)) (fun _ w =>
    parks Code.addrInvalid w) = true := by decide +kernel
/-- R230: the store's bytes are dirty in a line of the L1, and go home at a releasing fence of die scope. -/
def stored : State := thenState (.stg plain (.w 2) (.w 4) none 0x10 none .b32) (mappedWith (wpair 2 3 0x20000 ∘ wreg 4 .i32 0x01020304))
theorem test_stg : ((stored.dev.core 0).l1.any (fun l => l.va == 0x20000 && l.dirty == 0xF#128 <<< 0x10) &&
    stored.dev.readPa 0 0x30010 == 0) = true := by decide +kernel
/-- R43, R372: a store to an executable page is a VIOLATION, which ends the context and its warps. -/
theorem test_stg_executable : moves (.stg plain (.w 2) (.w 4) none 0x10 none .b32)
    (mappedWith (wpair 2 3 0x10000 ∘ wreg 4 .i32 1)) (fun d => (d.context 0).any (·.ended) && (d.slot 0 0).isNone) = true := by
  decide +kernel
theorem test_lds : leaves (.lds plain (.w 4) (.w 2) 0 none .b32) (mappedWith (wreg 2 .i32 0x00FC0000)) (fun _ w =>
    w.ld == 1 && w.pc == 0x10010) = true := by decide +kernel
theorem test_sts : leaves (.sts plain (.w 2) (.w 4) 0 none .b32) (mappedWith (wreg 2 .i32 0x00FC0000 ∘ wreg 4 .i32 1)) (fun _ w =>
    w.st == 1 && w.pc == 0x10010) = true := by decide +kernel
/-- The manual's ATOM.gadd: lane 0 first, then lane 1 on what it left. -/
theorem test_atom : moves (.loadCompletion 0 0 0) (thenState (.atom (guarded 1) ⟨.v 1, .w 2, .v 3, .zero⟩ 0 .gadd .b32 .die false)
    (mappedWith (pred 1 3 ∘ wpair 2 3 0x20000 ∘ vreg 3 .l32 0))) (fun d =>
    (d.slot 0 0).any (fun w => w.vAt 1 0 == 0 && w.vAt 1 1 == 0x00400000 && w.ld == 0) &&
      leNat (d.readBytes 0 0x30000 4) == 0x00657007) = true := by decide +kernel
theorem test_ldv : leaves (.ldv plain (.w 4) (.w 2) 0 none .b64 .system) (mappedWith (wpair 2 3 0x20000)) (fun _ w =>
    w.ld == 1) = true := by decide +kernel
theorem test_red : leaves (.red plain (.w 2) (.inl 1) 0 .iadd .b32 .die false) (mappedWith (wpair 2 3 0x20000)) (fun _ w =>
    w.st == 1) = true := by decide +kernel
/-- R269: the monitor stands on the 128-byte block. -/
theorem test_monitor : leaves (.monitor plain (.w 8) 0x90) (mappedWith (wpair 8 9 0x20000)) (fun d w =>
    w.monitor == some (.phys 0x30080, false) && d.monitors.length == 1) = true := by decide +kernel
theorem test_waitmon : leaves (.waitmon plain 16) (mappedWith fun w => { w with monitor := some (.phys 0x30080, false) })
    (fun _ w => w.wait == some (.waitmon 0 16)) = true := by decide +kernel
theorem test_waitmon_early : moves (.waitmonTimeout 0 0) ((mappedWith fun w => { w with
    monitor := some (.phys 0x30080, false), wait := some (.waitmon 0 16) }).onDev fun d => { d with clock := 4095 })
    (fun d => (d.slot 0 0).any fun w => w.wait == some (.waitmon 0 16)) = true := by decide +kernel
theorem test_waitmon_timeout : moves (.waitmonTimeout 0 0) ((mappedWith fun w => { w with
    monitor := some (.phys 0x30080, false), wait := some (.waitmon 0 16) }).onDev fun d => { d with clock := 4096 })
    (fun d => (d.slot 0 0).any fun w => w.wait == none && w.monitor == none) = true := by decide +kernel
theorem test_sleep_expiry : moves (.sleepExpiry 0 0) ((mappedWith fun w => { w with wait := some (.sleep 0 400) }).onDev fun d =>
    { d with clock := 400 }) (fun d => (d.slot 0 0).any fun w => w.wait == none && w.pc == 0x10010) = true := by decide +kernel
theorem test_fence : leaves (.fenceAcq plain .die) mapped (fun _ w => w.pc == 0x10010) = true := by decide +kernel
theorem test_pfd : leaves (.pfd plain false (.w 2) 0) (mappedWith (wpair 2 3 0x20000)) (fun _ w => w.pc == 0x10010) = true := by
  decide +kernel
/-- The manual's BANKCFG: a physical FIFO form raises FORM. -/
theorem test_bankcfg_form : leaves (.bankcfgFifo plain (.w 3) 2) (mappedWith (wreg 3 .i32 0xC2)) (fun _ w =>
    parks Code.engineParam w) = true := by decide +kernel
/-- The window form with CNT 0 and FIRST 1 takes the second bank of the allocation. -/
theorem test_bankcfg : leaves (.bankcfgFifo plain (.w 3) 2) (mappedWith (wreg 3 .i32 0x80000001)) (fun d w =>
    (d.core 0).modeAt 11 == .fifo && (d.core 0).bufs.any (fun b => b.n == 16 && b.free == 16 && b.woff == 0x4000) &&
      w.pc == 0x10010) = true := by decide +kernel
/-- The manual's RMAP, and the length that raises RESERVED. -/
theorem test_rmap : leaves (.rmapMap plain (.w 3) (.w 4) (.w 6) 0)
    (mappedWith (wreg 3 .i32 0x2000 ∘ wpair 4 5 0x7F0000700000 ∘ wreg 6 .i32 0x1000)) (fun d _ =>
    (d.core 0).regions.any fun r => r.woff == 0x2000 && r.len == 0x1000 && r.granules.length == 16) = true := by decide +kernel
theorem test_rmap_reserved : leaves (.rmapMap plain (.w 3) (.w 4) (.w 6) 0)
    (mappedWith (wreg 3 .i32 0x2000 ∘ wpair 4 5 0x7F0000700000 ∘ wreg 6 .i32 0x1080)) (fun _ w => parks Code.engineParam w) = true := by
  decide +kernel
/-- R195: JOIN with −1 makes band 0. -/
theorem test_join : leaves (.join plain 3 (.inl 0x7F) 0) mapped (fun d w =>
    w.band == some 0 && w.wAt 3 == 0 && (d.cluster 0).bands.length == 1) = true := by decide +kernel
/-- R194: a warp in no band. -/
theorem test_bar : leaves (.bar plain) mapped (fun _ w => parks Code.band w) = true := by decide +kernel
theorem test_leave : leaves (.leave plain) mapped (fun _ w => parks Code.band w) = true := by decide +kernel
/-- The manual's DEPDEC: cluster 1, index 5. -/
theorem test_depdec : leaves (.depdec plain (.w 2) (.inl 1) 0) (mappedWith (wreg 2 .i32 0x9005)) (fun d _ =>
    ((d.cluster 1).decs.map fun r => (r.index, r.err, r.times)) == [(5, false, 1)]) = true := by decide +kernel
theorem test_dependence_decrement : moves (.dependenceDecrement 1 0) (base.onDev fun d =>
    (d.putDep 1 5 { value := 2, err := false, waiters := [] }).sendDecs 1 5 false 1) (fun d => (d.dep 1 5).value == 1) = true := by
  decide +kernel
theorem test_mzero : leaves (.mzero plain (.inl 3) (.inl 4) 0) (mapped.onDev fun d => d.modCore 0 fun c => { c with
    tiles := [(3 * 2048, 5), (9 * 2048, 6)] }) (fun d _ => (d.core 0).tiles == [(9 * 2048, 6)]) = true := by decide +kernel
theorem test_mzero_range : leaves (.mzero plain (.inl 40) (.w 2) 0) (mappedWith (wreg 2 .i32 57)) (fun _ w => parks Code.engineParam w) = true := by
  decide +kernel
theorem test_lrinv : leaves (.lrinv plain (.w 4) 0) (mappedWith (wpair 4 5 0x40) |>.onDev fun d => { d with
    tlrs := [{ ctx := 0, va := 0x40, image := 0 }, { ctx := 0, va := 0x80, image := 0 }] }) (fun d _ => d.tlrs.length == 1) = true := by
  decide +kernel
theorem test_statrd_index : leaves (.statrd plain (.v 3) (.w 5) 2) (mappedWith (wreg 5 .i32 0)) (fun _ w =>
    parks Code.engineParam w) = true := by decide +kernel
theorem test_cpy_queue : leaves (.cpyGl (guarded 1) (.w 4) (.w 10) (.w 6) (some 5)) (mappedWith (pred 1 1)) (fun _ w =>
    parks Code.format w) = true := by decide +kernel

/-! ### The host -/

/-- R411: ring 0 of the PF is enabled; a SIGNAL WRITE to page 0x20000 of context 0. -/
def packets : State := mapped.onDev fun d => d.modRing ⟨0, 0⟩ fun r => { r with enable := true, base := 0x40000, logn := 6 }
theorem test_signal_write : moves (.signalWrite ⟨0, 0⟩ { ctx := 0, barrier := false, caddr := 0, cval := 0 } 0x20008 0x1122)
    (packets.onDev fun d => d.modRing ⟨0, 0⟩ fun r => { r with tail := 1 }) (fun d =>
    leNat (d.readBytes 0 0x30008 8) == 0x1122 && (d.ring ⟨0, 0⟩).head == 1) = true := by decide +kernel
theorem test_doorbell : moves (.ringDoorbell ⟨0, 0⟩ 5) packets (fun d => (d.ring ⟨0, 0⟩).tail == 5) = true := by decide +kernel
/-- R421, R438: the limit is held between 600 and 1,800. -/
theorem test_pwrlim : (match exec (.pwrlimWrite 0 100) base with
    | .next t => t.dev.pwrlim == 600
    | _ => false) = true := by decide +kernel
theorem test_pwrlim_vf : (match exec (.pwrlimWrite 1 1200) base with
    | .next t => t.dev.pwrlim == 1800
    | _ => false) = true := by decide +kernel
/-- R392: an offset of the PTP clock. -/
theorem test_ptpofs : moves (.ptpofsWrite 0 1000) base (fun d => d.ptpNs == 1000) = true := by decide +kernel
theorem test_port_up : moves (.portUp 3) (base.onDev fun d => d.modPort 3 fun x => { x with up := false }) (fun d => (d.port 3).up) = true := by
  decide +kernel
theorem test_config_request : (match exec (.configRequest 0) base with
    | .next t => t.replies == [.ok]
    | _ => false) = true := by decide +kernel
/-- R439: nothing runs while the module is off. -/
theorem test_off : (match exec (.nop plain) { base with board := { base.board with stage := 0 } } with
    | .fault .moduleOff => true
    | _ => false) = true := by decide +kernel
theorem test_junction : (match exec .junctionTrip base with
    | .next t => !t.board.on
    | _ => false) = true := by decide +kernel
/-- R438: the clamp takes the matrix engines first. -/
theorem test_clamp : (match exec (.powerClampSample 1801 50) base with
    | .next t => t.board.holdMatrix && !t.board.holdVector
    | _ => false) = true := by decide +kernel
theorem test_rotation : moves .counterGroupRotation base (fun d => d.rotation == 1) = true := by decide +kernel

/-! ### The step -/

/-- The word placed is the instruction that the current slot's warp fetches (log 34). -/
theorem test_fetch : (match turnOf base with
    | .run i _ => i == .nop plain
    | _ => false) = true := by decide +kernel



/-! ### SHA-384: the digests that FIPS 180-4's examples give for no bytes and for the bytes of "abc" -/

def ofBytes (l : List Nat) : List Byte := l.map (BitVec.ofNat 8)

theorem test_sha384_empty : Sha384.digest [] = ofBytes [0x38, 0xB0, 0x60, 0xA7, 0x51, 0xAC, 0x96, 0x38, 0x4C, 0xD9, 0x32, 0x7E, 0xB1, 0xB1, 0xE3, 0x6A,
    0x21, 0xFD, 0xB7, 0x11, 0x14, 0xBE, 0x07, 0x43, 0x4C, 0x0C, 0xC7, 0xBF, 0x63, 0xF6, 0xE1, 0xDA,
    0x27, 0x4E, 0xDE, 0xBF, 0xE7, 0x6F, 0x65, 0xFB, 0xD5, 0x1A, 0xD2, 0xF1, 0x48, 0x98, 0xB9, 0x5B] := by
  decide +kernel

theorem test_sha384_abc : Sha384.digest (ofBytes [0x61, 0x62, 0x63]) = ofBytes [0xCB, 0x00, 0x75, 0x3F, 0x45, 0xA3, 0x5E, 0x8B, 0xB5, 0xA0, 0x3D, 0x69, 0x9A, 0xC6, 0x50, 0x07,
    0x27, 0x2C, 0x32, 0xAB, 0x0E, 0xDE, 0xD1, 0x63, 0x1A, 0x8B, 0x60, 0x5A, 0x43, 0xFF, 0x5B, 0xED,
    0x80, 0x86, 0x07, 0x2B, 0xA1, 0xE7, 0xCC, 0x23, 0x58, 0xBA, 0xEC, 0xA1, 0x34, 0xC8, 0x25, 0xA7] := by
  decide +kernel

/-! ### States that meet the hypotheses of the statements -/

/-- The hypotheses that statements about an instruction share, with one more about its site. -/
def ready (s : State) (i : Instr) (c : Ctl) (imm : Word) (q : Site → Bool) : Bool :=
  match s.dev.slot s.dev.curCore s.dev.curSlot with
  | some w => s.board.on && s.dev.canIssue w i c && s.dev.pipeOpen s.dev.curCore s.dev.curSlot &&
      s.dev.interlocked w && decide (Dev.participants w c ≠ 0) && (s.dev.seqFault s.dev.curCore w).isNone &&
      !w.finish.isOver && s.dev.trace.isNone && q (s.site c imm w)
  | none => false

/-- A warp stands in the current slot for which the hypotheses hold together. -/
def Met (s : State) (i : Instr) (c : Ctl) (imm : Word) (q : Site → Bool) : Prop :=
  ∃ w, s.Follows c w ∧ s.Issues i c w ∧ s.Unsampled ∧ q (s.site c imm w) = true

theorem met_of {s : State} {i : Instr} {c : Ctl} {imm : Word} {q : Site → Bool} (h : ready s i c imm q = true) :
    Met s i c imm q := by
  unfold ready at h
  split at h
  · rename_i w hw
    simp only [Bool.and_eq_true, decide_eq_true_eq, Bool.not_eq_true', Option.isNone_iff_eq_none] at h
    obtain ⟨⟨⟨⟨⟨⟨⟨⟨on, may⟩, pipe⟩, inter⟩, lanes⟩, fetch⟩, runs⟩, quiet⟩, hq⟩ := h
    exact ⟨w, ⟨fetch, runs, fun t ht => by rw [quiet] at ht; cases ht⟩, ⟨on, hw, may, pipe, Dev.sees_interlocked inter i, lanes⟩,
      fun t ht => (by rw [quiet] at ht; cases ht), hq⟩
  · cases h

theorem witness_StepRunsTheInstruction :
    (base.sched == [] && base.board.on && (base.dev.slot base.dev.curCore base.dev.curSlot).any (fun w =>
      w.status == .running && !w.hold && !Dev.awaits w.wait && (base.dev.fetchFault w.ctx w.pc.toNat).isNone &&
      (base.dev.icacheFind 0 w.ctx w.pc.toNat).any fun l => decide (decodeBytes (l.words.drop (w.pc.toNat % 256)) = .ok (.nop plain)))) = true ∧
    State.reset.sched = [] ∧ State.reset.dev.slot 0 0 = none ∧
    ((with_ fun w => { w with pc := 0x20004 }).dev.fetchFault 0 0x20004).isSome = true ∧
    ((base.onDev fun d => d.modCore 0 fun c => { c with icache := [] }).dev.icacheFind 0 0 0x10004).isNone = true ∧
    (packets.onDev fun d => d.modRing ⟨0, 0⟩ fun r => { r with tail := 1 }).dev.consumer ⟨0, 0⟩ false ≠ none ∧
    (match base.choose 0 0 with
      | (some j, _) => j == 0
      | _ => false) = true := by
  refine ⟨?_, ?_, ?_, ?_, ?_, ?_, ?_⟩ <;> decide +kernel

/-- A step goes on. -/
def steps (s : State) : Bool :=
  match step s with
  | .next _ => true
  | _ => false

theorem witness_StepKeepsTheBoard : base.Legal ∧ steps base = true := by
  refine ⟨⟨?_, ?_, ?_, ?_, ?_⟩, ?_⟩ <;> decide +kernel

theorem witness_StepKeepsTheMemory : Memory.wf mapped.dev.mem = true ∧ steps mapped = true := by
  refine ⟨?_, ?_⟩ <;> decide +kernel

theorem witness_RegisterWrites : (0xFF#32 : Mask) ≠ 0 ∧ lowestLane 0xF0 = some 4 ∧ lowestLane 0 = none := by decide

/-- Tags that hold, and tags that do not (R20). -/
theorem witness_IntegerArithmetic :
    Met (with_ (vreg 2 .i32 0x7FFFFFFF)) (.iadd plain ⟨.v 1, .v 2, .inl 1⟩ 0 false false true) plain 0 (fun x =>
      x.v.isInt false (.v 2) && x.v.isInt false (.inl 1)) ∧
    Met (with_ id) (.iadd plain ⟨.v 1, .v 2, .inl 1⟩ 0 false false true) plain 0 (fun x => !x.v.isInt false (.v 2)) :=
  ⟨met_of (by decide +kernel), met_of (by decide +kernel)⟩

theorem witness_BitOperations :
    Met (with_ (vreg 2 .raw 1 ∘ vreg 3 .l16 32)) (.shl plain ⟨.v 1, .v 2, .v 3⟩ 0 false) plain 0 (fun x =>
      x.v.isBits false (.v 2) && x.v.defined 1 (.v 3)) ∧
    Met (with_ id) (.popc plain ⟨.v 1, .v 2⟩ 0 false) plain 0 (fun x => !x.v.isBits false (.v 2)) :=
  ⟨met_of (by decide +kernel), met_of (by decide +kernel)⟩

theorem witness_PredicatesAndMoves :
    Met (with_ (vreg 2 .l16 1)) (.sel plain ⟨.v 1, .v 2, .v 2⟩ 1 0 false) plain 0 (fun x => (selTag x.v false (.v 2) (.v 2) 0).isSome) ∧
    Met (with_ (vreg 2 .l16 1 ∘ vreg 3 .l32 1)) (.sel plain ⟨.v 1, .v 2, .v 3⟩ 1 0 false) plain 0 (fun x =>
      !(selTag x.v false (.v 2) (.v 3) 0).isSome) :=
  ⟨met_of (by decide +kernel), met_of (by decide +kernel)⟩

/-- No event enabled, an overflow with TE_OF set, and a tag that is not the format's. -/
theorem witness_RealOperations :
    let high (x : Site) : Bool := trapped x.w.mode (RealOp.add .l8a (x.rctx .rn .dflt 0 0) (elemOf .l8a 0x18 0) (elemOf .l8a 0x18 0)).2
    Met (with_ (vreg 2 .l8a 0x18)) (.gadd plain ⟨.v 1, .v 2, .v 2⟩ 0 .l8a .rn .dflt) plain 0 (fun x =>
      x.isReal .l8a (.v 2) && !high x) ∧
    Met (with_ (vreg 2 .l8a 0x18 ∘ fun w => { w with mode := 0x1F0 })) (.gadd plain ⟨.v 1, .v 2, .v 2⟩ 0 .l8a .rn .dflt) plain 0 (fun x =>
      x.isReal .l8a (.v 2) && high x) ∧
    Met (with_ (vreg 2 .l16 0x18)) (.gadd plain ⟨.v 1, .v 2, .v 2⟩ 0 .l8a .rn .dflt) plain 0 (fun x => !x.isReal .l8a (.v 2)) :=
  ⟨met_of (by decide +kernel), met_of (by decide +kernel), met_of (by decide +kernel)⟩

theorem witness_ConversionsAndMeans :
    Met (with_ (vreg 10 .l32 0 ∘ vreg 11 .l32 0 ∘ vreg 2 .l32 0 ∘ vreg 3 .i32 1)) (.wstep plain ⟨.v 10, .v 10, .v 2, .v 3⟩ 0 .l32 .rn .dflt)
      plain 0 (fun x => x.v.has .l32 2 (.v 10) && x.isReal .l32 (.v 2) && x.v.isInt false (.v 3)) ∧
    Met (with_ (vreg 3 .l16 0x0900)) (.cvt plain ⟨.v 2, .v 3⟩ .f16 .l16 .rn .sat) plain 0 (fun x => x.cvtOk .l16 (.v 3)) ∧
    Met (with_ (vreg 3 .l32 0)) (.cvt plain ⟨.v 2, .v 3⟩ .f16 .l16 .rn .sat) plain 0 (fun x => !x.cvtOk .l16 (.v 3)) :=
  ⟨met_of (by decide +kernel), met_of (by decide +kernel), met_of (by decide +kernel)⟩

theorem witness_LaneExchanges :
    Met (with_ (vreg 1 .i32 5)) (.lpick plain ⟨.v 3, .v 1, .inl 4⟩ 0 .down false) plain 0 (fun x =>
      x.v.isBits false (.v 1) && x.v.isInt false (.inl 4)) ∧
    Met (with_ (vreg 8 .l32 0)) (.redx plain ⟨.w 4, .v 8⟩ 0 (.gadd .l32 .rn)) plain 0 (fun x => x.isReal .l32 (.v 8)) ∧
    Met (with_ (vreg 8 .l16 0)) (.redx plain ⟨.w 4, .v 8⟩ 0 (.gadd .l32 .rn)) plain 0 (fun x => !x.isReal .l32 (.v 8)) :=
  ⟨met_of (by decide +kernel), met_of (by decide +kernel), met_of (by decide +kernel)⟩

/-- All lanes, some lanes, an UNBIND that matches and one that does not, and a chain operation without a binding. -/
theorem witness_ChainBinding :
    Met (with_ id) (.bind plain 4 16 8) plain 0 (fun x => x.p == Mask.all) ∧
    Met (with_ (pred 1 0xFF)) (.bind (guarded 1) 4 16 8) (guarded 1) 0 (fun x => x.p != Mask.all) ∧
    Met (with_ chained) (.unbind plain 16 8) plain 0 (fun x => x.w.chain.any fun o => o.first == 16 && o.count == 8) ∧
    Met (with_ chained) (.unbind plain 16 7) plain 0 (fun x => !(x.w.chain.any fun o => o.first == 16 && o.count == 7)) ∧
    Met (with_ id) (.chneg plain 18 16) plain 0 (fun x => x.w.chain.isNone) :=
  ⟨met_of (by decide +kernel), met_of (by decide +kernel), met_of (by decide +kernel), met_of (by decide +kernel),
    met_of (by decide +kernel)⟩

/-- The segments that take part. -/
def live (x : Site) : List Nat :=
  match x.w.chain with
  | some ch => ch.segs.filter fun g => x.w.skip &&& ch.mask g == 0 && x.p &&& ch.mask g != 0
  | none => []

/-- The segments that take part with some of their lanes only. -/
def splitSegs (x : Site) : List Nat :=
  match x.w.chain with
  | some ch => (live x).filter fun g => x.p &&& ch.mask g != ch.mask g
  | none => []

/-- No segment, a register outside the range, a divided segment, a tag that fails, and the result. -/
theorem witness_ChainArithmetic :
    Met (with_ fun w => { chained w with skip := 0x11111111 }) (.chadd plain 18 16 17 false) plain 0 (fun x => (live x).isEmpty) ∧
    Met (with_ chained) (.chadd plain 24 16 17 false) plain 0 (fun x =>
      !(live x).isEmpty && !(x.w.chain.any fun ch => ch.has 24)) ∧
    Met (with_ (chained ∘ pred 1 7)) (.chadd (guarded 1) 18 16 17 false) (guarded 1) 0 (fun x => !(splitSegs x).isEmpty) ∧
    Met (with_ (vreg 17 .i32 0 ∘ chained)) (.chadd plain 18 16 17 false) plain 0 (fun x =>
      (splitSegs x).isEmpty && x.w.vTag 17 != .limb) ∧
    Met (with_ chained) (.chadd plain 23 16 17 true) plain 0 (fun x =>
      !(live x).isEmpty && (splitSegs x).isEmpty && x.w.chain.any (fun ch => ch.has 23) && x.w.vTag 17 == .limb) :=
  ⟨met_of (by decide +kernel), met_of (by decide +kernel), met_of (by decide +kernel), met_of (by decide +kernel),
    met_of (by decide +kernel)⟩

/-- Chains of four limbs at 0x20000 and at an address that is no multiple of 16; 62 loads outstanding, and 63. -/
theorem witness_ChainMemory :
    Met (mappedWith (chained ∘ wpair 2 3 0x20000 ∘ fun w => { w with ld := 62 })) (.chld plain 16 (.w 2) 0) plain 0 (fun x =>
      !(live x).isEmpty && (splitSegs x).isEmpty && x.v.has .i64 2 (.w 2) && x.w.ld < 63) ∧
    Met (mappedWith (chained ∘ wpair 2 3 0x20000 ∘ fun w => { w with ld := 63 })) (.chld plain 16 (.w 2) 0) plain 0 (fun x =>
      decide (63 ≤ x.w.ld)) ∧
    Met (mappedWith (chained ∘ wpair 2 3 0x20000)) (.chst plain (.w 2) 16 0) plain 0 (fun x => x.w.vTag 16 == .limb && x.w.st < 63) :=
  ⟨met_of (by decide +kernel), met_of (by decide +kernel), met_of (by decide +kernel)⟩

/-- MFS of %mode, of a handler's record inside and outside a handler, of MIN and CAP at their first and last numbers; MTS. -/
theorem witness_SystemRegisters :
    let handler (w : Warp) : Warp := { w with inHandler := true, record := some (Vector.replicate 256 0) }
    Met (with_ id) (.mfs plain (.w 4) 0) plain 0 (fun _ => true) ∧
    Met (with_ handler) (.mfs plain (.w 4) 0x1FF) plain 0 (fun x => x.w.inHandler && x.w.record.isSome) ∧
    Met (with_ id) (.mfs plain (.w 4) 0x100) plain 0 (fun x => !x.w.inHandler) ∧
    Met (with_ id) (.mfs plain (.w 4) 0x809) plain 0 (fun _ => (0x809 : Nat) == 0x801 + 2 * 4) ∧
    Met (with_ handler) (.mts plain (.inl 1) 0x1D0) plain 0 (fun x => x.v.has .i32 1 (.inl 1) && x.w.inHandler) ∧
    Met (with_ id) (.mts plain (.w 4) 0) plain 0 (fun x => !x.v.has .i32 1 (.w 4)) :=
  ⟨met_of (by decide +kernel), met_of (by decide +kernel), met_of (by decide +kernel), met_of (by decide +kernel),
    met_of (by decide +kernel), met_of (by decide +kernel)⟩

/-- The destinations of a branch. -/
def dests (x : Site) (target : DWord) : List Nat :=
  (lanesOf x.w.m).map fun l => (if x.p.getLsbD l.val then target else Dev.nextPc x.w.pc).toNat

/-- Every destination fetched; one that is no slot; a split at a full stack; an address that is not I64. -/
theorem witness_Transfers :
    let e : StackEntry := { mask := 0, pending := true, pc := 0x10004 }
    Met (with_ id) (.bra plain 0x30) plain 0 (fun x => (dests x 0x10034).all fun a => (x.d.fetchFault 0 a).isNone) ∧
    Met (with_ id) (.bra plain 0x31) plain 0 (fun x => (dests x 0x10035).any fun a => (x.d.fetchFault 0 a).isSome) ∧
    Met (with_ (pred 1 1 ∘ fun w => { w with stack := List.replicate 16 e })) (.bra (guarded 1) 0x30) (guarded 1) 0 (fun x =>
      (x.w.transfer fun l => if l = 0 then 0x10034 else 0x10010).isNone) ∧
    Met (with_ (wpair 2 3 0x10034)) (.brx plain (.w 2) 0) plain 0 (fun x => x.v.isInt true (.w 2)) ∧
    Met (with_ id) (.brx plain (.w 2) 0) plain 0 (fun x => !x.v.isInt true (.w 2)) :=
  ⟨met_of (by decide +kernel), met_of (by decide +kernel), met_of (by decide +kernel), met_of (by decide +kernel),
    met_of (by decide +kernel)⟩

/-- A stack of 15 entries and of 16; lanes left after EXIT, and none. -/
theorem witness_PathEnds :
    let e : StackEntry := { mask := 0xFF, pending := false, pc := 0x10034 }
    let j : StackEntry := { mask := 0xFF, pending := false, pc := 0x10040 }
    Met (with_ fun w => { w with stack := [e] }) (.rcv plain 0x30) plain 0 (fun x => x.w.stack == [e]) ∧
    Met (with_ fun w => { w with stack := List.replicate 15 j }) (.rcv plain 0x30) plain 0 (fun x => x.w.stack.length == 15) ∧
    Met (with_ fun w => { w with stack := List.replicate 16 j }) (.rcv plain 0x30) plain 0 (fun x => x.w.stack.length == 16) ∧
    Met (with_ (pred 1 1)) (.exit (guarded 1)) (guarded 1) 0 (fun x => x.w.m &&& ~~~x.p != 0) ∧
    Met (with_ id) (.exit plain) plain 0 (fun x => x.w.m &&& ~~~x.p == 0) :=
  ⟨met_of (by decide +kernel), met_of (by decide +kernel), met_of (by decide +kernel), met_of (by decide +kernel),
    met_of (by decide +kernel)⟩

theorem witness_WaitingAndHints :
    Met (with_ fun w => { w with ld := 3 }) (.waitc plain 3 63 63 63) plain 0 (fun x => x.w.ld ≤ 3) ∧
    Met (with_ fun w => { w with ld := 4 }) (.waitc plain 3 63 63 63) plain 0 (fun x => decide (3 < x.w.ld)) ∧
    Met (with_ fun w => { w with st := 1 }) (.waitc plain 63 0 63 63) plain 0 (fun x => decide (0 < x.w.st)) ∧
    Met (with_ id) (.sleep plain 0) plain 0 (fun _ => true) ∧ Met (with_ id) (.pfi plain 3 0xFC) plain 0 (fun _ => true) :=
  ⟨met_of (by decide +kernel), met_of (by decide +kernel), met_of (by decide +kernel), met_of (by decide +kernel),
    met_of (by decide +kernel)⟩

/-- A handler whose record's HACT is n. -/
def handling (n : Word) (w : Warp) : Warp :=
  { w with
    inHandler := true, parkPc := 0x10010
    record := some (((Vector.replicate 256 (0 : Word)).set 2 Mask.all).set 240 n) }

theorem witness_TrapsAndReturns :
    Met (with_ id) (.rte plain) plain 0 (fun x => !x.w.inHandler) ∧ Met (with_ id) (.trap plain 0xFFFF) plain 0 (fun _ => true) ∧
    (∀ n ∈ [0, 1, 2, 3], Met (with_ (handling n)) (.rte plain) plain 0 (fun x =>
      x.w.inHandler && (x.w.record.any fun r => r[240].toNat % 4 == n.toNat && !(Dev.restoreRecord x.w r).finish.isOver) &&
        x.w.band.isNone)) := by
  refine ⟨met_of (by decide +kernel), met_of (by decide +kernel), ?_⟩
  intro n hn
  simp only [List.mem_cons, List.not_mem_nil, or_false] at hn
  rcases hn with rfl | rfl | rfl | rfl <;> exact met_of (by decide +kernel)


/-- A task of context 0 with a control block. -/
def aTask (id : Nat) (tcb : BitVec 512) : Task where
  id := id
  ctx := 0
  tcb := tcb
  tcbVa := 0x20000
  handle := 5
  home := 0
  state := .running
  inErr := false
  killed := false
  faulted := false
  launchErr := false
  aborts := 0
  committed := false
  param := 0
  placed := 1
  done := 0
  readySince := 0
  waitVa := 0

/-- The mapped machine with task 0, of one warp. -/
def tasked (tcb : BitVec 512) : State := mapped.onDev fun d => { d with tasks := [aTask 0 tcb] }

/-- A context with other fields of its descriptor. -/
def described (desc : BitVec 2048) : State := mapped.onDev fun d => d.modContext 0 fun x => { x with desc := x.desc ||| desc }

/-- A class C fault; a class A fault under IDEM; Rhizome, the host, and a fault in a handler (R357, R360, R365, R368, R369). -/
theorem witness_FaultTaking :
    let w : Warp := (mapped.dev.slot 0 0).getD (.fresh 0 0 0 0 0 0 0)
    let settled (abortable : Bool) (code : Nat) : Nat := (FaultInfo.settle abortable (.warpWide code 1)).code
    mapped.dev.slot 0 0 = some w ∧ mapped.dev.context 0 = some placedContext ∧ mapped.dev.trace = none ∧
    codeRank (settled false Code.link) = 2 ∧ codeRank (settled true Code.notres) = 0 ∧
    ((tasked (1#512 <<< 153)).dev.task? w.task).any (fun t => t.idem && !t.committed && decide (t.aborts < 8)) = true ∧
    codeRank (settled false Code.notres) ≠ 2 ∧ (settled false Code.notres < 0x10 ∧ placedContext.hmask.testBit 15 = false) ∧
    ¬settled false Code.format < 0x10 ∧ Dev.handlerTakes placedContext Code.format = false ∧
    Dev.handlerPc placedContext = none ∧ w.inHandler = false := by
  refine ⟨?_, ?_, ?_, ?_, ?_, ?_, ?_, ?_, ?_, ?_, ?_, ?_⟩ <;> decide +kernel

/-- A handler that takes FORMAT: HMASK bit 4, class 1 code loaded as HENTRY's object. -/
theorem witness_FaultTaking_handler :
    let x : Context := { placedContext with
      desc := BitVec.ofNat 2048 (9 * 2 ^ 384 + 4 * 2 ^ 416 + 2 ^ 468)
      objs := [{ id := 9, base := 0x10000, cls := 1, svn := 0, live := [], npages := 1, target := 0 }] }
    Dev.handlerTakes x Code.format = true ∧ Dev.handlerPc x = some 0x10004 := by
  refine ⟨?_, ?_⟩ <;> decide +kernel

theorem witness_FaultRecordWords :
    let e : StackEntry := { mask := 0xFF, pending := true, pc := 0x10010 }
    (List.replicate 16 e).length ≤ 16 ∧ Code.format < 256 ∧
      BitVec.ofNat 64 (canon57 (va57 e.pc.toNat)) = e.pc := by
  refine ⟨?_, ?_, ?_⟩ <;> decide +kernel

/-- A band of task 0 on core 0 with a member in slot 8, and the warp of slot 0 in it or not. -/
def banded (me : Bool) (gang : Bool) : State := mapped.onDev fun d => (d.modCluster 0 fun c => { c with
    bands := [{ id := 7, task := 0, ctx := 0, gang := gang, home := 0, members := if me then [⟨0, 0, 0⟩, ⟨0, 8, 8⟩] else [⟨0, 8, 8⟩], coming := []
                arrived := [(⟨0, 8, 8⟩, .bar)], joins := [], generation := 4 }] }).modWarp 0 0 fun w =>
  if me then { w with band := some 7 } else w

/-- JOIN with −1, JOIN of a band that exists, of none, and of a number above 255; LEAVE. -/
theorem witness_BandMembership :
    Met mapped (.join plain 3 (.inl 0x7F) 0) plain 0 (fun x => x.v.has .i32 1 (.inl 0x7F) && x.w.band.isNone &&
      x.v.uniform (.inl 0x7F) == 0xFFFFFFFF#32) ∧
    Met (banded false false) (.join plain 3 (.inl 7) 0) plain 0 (fun x => x.w.band.isNone && (x.d.band? 0 7).any fun b =>
      b.task == x.w.task && b.members.all (fun m => m.core == 0)) ∧
    Met (banded false false) (.join plain 3 (.inl 6) 0) plain 0 (fun x => (x.d.band? 0 6).isNone) ∧
    Met ((banded false false).onDev fun d => d.modWarp 0 0 (wreg 2 .i32 256)) (.join plain 3 (.w 2) 0) plain 0 (fun x =>
      decide (255 < (x.v.uniform (.w 2)).toNat)) ∧
    Met (banded true false) (.leave plain) plain 0 (fun x => (x.d.bandOf 0 x.w).any fun b =>
      (b.arrived.all fun y => y.1 != ⟨0, 0, 0⟩) && (b.joins.all fun y => y.1 != ⟨0, 0, 0⟩)) :=
  ⟨met_of (by decide +kernel), met_of (by decide +kernel), met_of (by decide +kernel), met_of (by decide +kernel),
    met_of (by decide +kernel)⟩

/-- The last member of a generation, one that is not, and the generation's end. -/
theorem witness_BandArrival :
    let waits : State := (banded true false).onDev fun d => d.modBand 0 7 fun b => { b with arrived := [] }
    let full : Dev := (banded true false).dev.modBand 0 7 fun b => { b with arrived := b.arrived ++ [(⟨0, 0, 0⟩, .bar)] }
    Met (banded true false) (.bar plain) plain 0 (fun x => (x.d.bandOf 0 x.w).any fun b => b.coming.isEmpty &&
      b.members.all fun m => m == ⟨0, 0, 0⟩ || b.arrived.any (fun y => y.1 == m)) ∧
    Met waits (.barv plain true 1 2) plain 0 (fun x => (x.d.bandOf 0 x.w).any fun b => b.arrived.isEmpty) ∧
    (full.band? 0 7).any (fun b => b.coming.isEmpty && b.members.all (fun m => b.arrived.any fun y => y.1 == m) &&
      decide ((b.arrived.map (fun y => (y.1.core, y.1.slot)) ++ b.joins.map (fun y => (y.1.core, y.1.slot))).Nodup)) = true :=
  ⟨met_of (by decide +kernel), met_of (by decide +kernel), by decide +kernel⟩

/-- SPAWN of a block that can be read; DEPDEC's operands at the edges of their ranges. -/
theorem witness_SpawningAndDecrements :
    Met (mappedWith (wpair 2 3 0x20040)) (.spawn plain (.w 2) 0) plain 0 (fun x => x.v.has .i64 2 (.w 2) &&
      (match x.places .global (.w 2) 0 64 .read (lanesOf x.p) with
        | .ok _ => true
        | _ => false)) ∧
    Met (mappedWith (wpair 2 3 0x20020)) (.spawn plain (.w 2) 0) plain 0 (fun x =>
      (match x.places .global (.w 2) 0 64 .read (lanesOf x.p) with
        | .ok _ => false
        | _ => true)) ∧
    Met (mappedWith (wreg 2 .i32 0xFFFF ∘ wreg 4 .i32 0x1FFFF)) (.depdec plain (.w 2) (.w 4) 0) plain 0 (fun x =>
      decide ((x.v.uniform (.w 2)).toNat < 2 ^ 16) && decide ((x.v.uniform (.w 4)).toNat < 2 ^ 17) &&
        x.d.clusterOn (Dev.depRef ((x.v.uniform (.w 2)).setWidth 16)).1) ∧
    Met (mappedWith (wreg 2 .i32 0x10000)) (.depdec plain (.w 2) (.inl 1) 0) plain 0 (fun x =>
      decide (2 ^ 16 ≤ (x.v.uniform (.w 2)).toNat)) ∧
    Met (mappedWith (wreg 2 .i32 0x7FFF)) (.depdec plain (.w 2) (.inl 1) 0) plain 0 (fun x =>
      !(x.v.uniform (.w 2)).getLsbD 15) :=
  ⟨met_of (by decide +kernel), met_of (by decide +kernel), met_of (by decide +kernel), met_of (by decide +kernel),
    met_of (by decide +kernel)⟩

/-- The first addresses that are not canonical, the parameter range, pages of each kind. -/
theorem witness_GlobalChecks :
    let e (va : Nat) : Option Nat := mapped.dev.pteOf 0 placedContext va
    mapped.dev.context 0 = some placedContext ∧ canonical (2 ^ 56) = false ∧ canonical (2 ^ 56 - 1) = true ∧
    inParamRange 0xFFFFFF0000000000 = true ∧ inParamRange 0xFFFFFEFFFFFFFFFF = false ∧ e 0x30000 = none ∧
    (e 0x10000).any (fun e => pteX e && pteR e && pteRes e && !pteDb e) = true ∧
    (e 0x2FFFF).any (fun e => pteW e && pteR e && pteRes e && !pteX e) = true ∧
    mapped.dev.translate 0 0x2FFFF .both = .ok ⟨0x3FFFF, 0, none⟩ := by
  refine ⟨?_, ?_, ?_, ?_, ?_, ?_, ?_, ?_, ?_⟩ <;> decide +kernel

theorem witness_Loads :
    Met (mappedWith (wpair 2 3 0x2FFFC ∘ fun w => { w with ld := 62 })) (.ldg plain (.v 1) (.w 2) 0 none .b32) plain 0 (fun x =>
      x.w.ld < 63 && x.addressOk .global (.w 2) && (match x.places .global (.w 2) 0 4 .read (lanesOf x.p) with
        | .ok _ => true
        | _ => false)) ∧
    Met (mappedWith (wpair 2 3 0x30000)) (.ldg plain (.v 1) (.w 2) 0 none .b32) plain 0 (fun x =>
      (match x.places .global (.w 2) 0 4 .read (lanesOf x.p) with
        | .ok _ => false
        | _ => true)) ∧
    Met (mappedWith fun w => { w with ld := 63 }) (.lds plain (.v 1) (.w 2) 0 none .b32) plain 0 (fun x => decide (63 ≤ x.w.ld)) ∧
    Met mapped (.lds plain (.v 1) (.w 2) 0 none .b32) plain 0 (fun x => !x.addressOk .scratch (.w 2)) :=
  ⟨met_of (by decide +kernel), met_of (by decide +kernel), met_of (by decide +kernel), met_of (by decide +kernel)⟩

theorem witness_OperationsAtHome :
    Met (mappedWith (wpair 2 3 0x20000)) (.ldv plain (.v 4) (.w 2) 0 none .b64 .die) plain 0 (fun x =>
      x.w.ld < 63 && x.addressOk .global (.w 2)) ∧
    Met (mappedWith (wpair 2 3 0x20000 ∘ vreg 3 .i32 1)) (.atom plain ⟨.v 1, .w 2, .v 3, .zero⟩ 0 .iadd .b32 .die false) plain 0
      (fun x => x.addressOk .global (.w 2) && x.dataOk (.v 3) (atomDataTag .iadd .b32) 1) ∧
    Met (mappedWith (wpair 2 3 0x20000)) (.red plain (.w 2) (.w 4) 0 .iadd .b32 .die false) plain 0 (fun x =>
      !x.dataOk (.w 4) (atomDataTag .iadd .b32) 1) ∧
    Met (mappedWith fun w => { w with st := 63 }) (.red plain (.w 2) (.inl 1) 0 .iadd .b32 .die false) plain 0 (fun x =>
      decide (63 ≤ x.w.st)) :=
  ⟨met_of (by decide +kernel), met_of (by decide +kernel), met_of (by decide +kernel), met_of (by decide +kernel)⟩

theorem witness_Stores :
    let pool : State := described (BitVec.ofNat 2048 (0x20000 * 2 ^ 256 + 4 * 2 ^ 320))
    Met (mappedWith (wpair 2 3 0x20000 ∘ wreg 4 .i32 1 ∘ fun w => { w with st := 62 })) (.stg plain (.w 2) (.w 4) none 0 none .b32) plain 0
      (fun x => x.w.st < 63 && x.addressOk .global (.w 2) && x.dataOk (.w 4) none 1 &&
        (match x.places .global (.w 2) 0 4 .write (lanesOf x.p) with
          | .ok _ => true
          | _ => false)) ∧
    Met (mappedWith (wreg 2 .i32 0x00FC0000)) (.sts plain (.w 2) (.w 4) 0 (some .l16) .b16) plain 0 (fun x => !x.dataOk (.w 4) (some .l16) 1) ∧
    (pool.dev.context 0).any (fun z => z.tsrIndexOk 3 && !z.tsrIndexOk 4) = true ∧
    Met (pool.onDev fun d => d.modWarp 0 0 (wpair 2 3 0x20800 ∘ vreg 5 .l16 0x0180 ∘ wreg 5 .i32 3))
      (.stg plain (.w 2) (.v 5) (some (.w 5)) 0x10 (some .l16) .b16) plain 0 (fun x => x.v.has .i32 1 (.w 5) &&
        x.dataOk (.v 5) (some .l16) 1 && (x.d.context 0).any fun z => z.tsrIndexOk (x.v.uniform (.w 5))) :=
  ⟨met_of (by decide +kernel), met_of (by decide +kernel), by decide +kernel, met_of (by decide +kernel)⟩

/-- The last byte of the module's memory, and a device register; a region's granule; an aligned word. -/
theorem witness_BytesAtHome :
    paKind 0x1FFFFFFFFF ≠ .regs ∧ paKind 0xFF0000000000 = .regs ∧
    (let c : Core := { mapped.dev.core 0 with regions := [{ owner := .task 0, alloc := 7, ctx := 0, woff := 0x100, len := 0x100, va := 0
                                                            granules := [some 0] }] }
     Dev.regionAt c (10 * 0x4000 + 0x100) = (c.regions[0]?).map (fun r => (0, r, 0)) ∧ Dev.regionAt c (10 * 0x4000) = none) ∧
    (8 : Nat) ∈ [2, 4, 8] ∧ 0x30008 % 8 = 0 ∧ paKind 0x30008 ≠ .regs := by
  refine ⟨?_, ?_, ⟨?_, ?_⟩, ?_, ?_, ?_⟩ <;> decide +kernel

theorem witness_AccessesComplete :
    (loading.dev.slot 0 0).any (fun w => (w.loads[0]?).any fun p => loading.dev.loadReady 0 0 w p && p.atom.isEmpty &&
      (Dev.portsOf (Dev.loadLocs p)).isEmpty && p.sample.isNone && w.status != .ended && p.also.isNone && p.dst == .v 1) = true ∧
    (let s := thenState (.sts plain (.w 2) (.w 4) 0 none .b32) (mappedWith (wreg 2 .i32 0x00FC0000 ∘ wreg 4 .i32 1))
     (s.dev.slot 0 0).any (fun w => (w.stores[0]?).any fun p => p.red.isEmpty && !p.flight.isEmpty) = true) ∧
    (let s := thenState (.red plain (.w 2) (.inl 1) 0 .iadd .b32 .die false) (mappedWith (wpair 2 3 0x20000))
     (s.dev.slot 0 0).any (fun w => (w.stores[0]?).any fun p => !p.red.isEmpty) = true) ∧
    (let f (pa : Nat) : FlightByte := { loc := .phys pa, key := 0, val := 1 }
     let p (pa : Nat) : PStore := { Site.blankStore with flight := [f pa, f pa] }
     let w (pa : Nat) : Warp := { Warp.fresh 0 0 0 0 0x10004 Mask.all 0 with st := 1, stores := [p pa] }
     (p 0x30000).red = [] ∧ (p 0x30000).flight ≠ [] ∧ paKind 0x30000 = .dram ∧
       Dev.byteBlocked (w 0x30000) 0 ((p 0x30000).flight.map (·.loc)) = false ∧
       mapped.dev.sliceBlocked 0 0 ((p 0x30000).flight.map (·.loc)) = false ∧ (p 0x30000).lines = [] ∧ (p 0x30000).stat = none ∧
       (p 0x30000).sent = false ∧ ((w 0x30000).stores.map (·.seq)).Nodup ∧ mapped.dev.isProtected 3 = false ∧
       mapped.dev.isProtected 1 = true ∧ paKind 0x10000 = .dram ∧
       Dev.byteBlocked { w 0x30000 with stores := [p 0x30000, { p 0x30000 with seq := 1 }] } 1 ((p 0x30000).flight.map (·.loc)) = true) := by
  refine ⟨?_, ?_, ?_, ⟨?_, ?_, ?_, ?_, ?_, ?_, ?_, ?_, ?_, ?_, ?_, ?_, ?_⟩⟩ <;> decide +kernel

/-- A line of the L1 with a clean byte, the warp's own dirty byte, and another slot's of the task; bytes that it does not hold. -/
theorem witness_AccessesComplete_bytes :
    let l (slot : SlotIx) : L1Line := { ctx := 0, va := 0x20000, way := 0, data := Vector.replicate 128 7, valid := 0x3, dirty := 0x1
                                        owner := (slot, 0), shared := true }
    let d (slot : SlotIx) : Dev := mapped.dev.modCore 0 fun c => { c with l1 := [l slot] }
    let w : Warp := Warp.fresh 0 0 0 0 0x10004 Mask.all 0
    (d 0).ownByte 0 0 w 0x20000 (.phys 0x30000) = some 7 ∧ (d 0).cleanByte 0 w 0x20001 = some 7 ∧
      (d 1).ownByte 0 0 w 0x20000 (.phys 0x30000) = none ∧ (d 1).coreByte 0 0 w 0x20000 = some 7 ∧
      (d 0).ownByte 0 0 w 0x20002 (.phys 0x30002) = none ∧ (d 0).coreByte 0 0 w 0x20002 = none ∧
      (d 0).cleanByte 0 w 0x20002 = none := by
  refine ⟨?_, ?_, ?_, ?_, ?_, ?_, ?_⟩ <;> decide +kernel

theorem witness_Fences :
    Met mapped (.fenceRel plain .system) plain 0 (fun x => x.w.wait != some (.release 2) && x.w.drained && x.w.ports.isEmpty) ∧
    Met (mappedWith fun w => { w with st := 1, stores := [{ Site.blankStore with flight := [{ loc := .phys 0, key := 0, val := 1 }] }] }) (.fenceAr plain .core) plain 0 (fun x => !x.w.drained) ∧
    Met (mappedWith fun w => { w with wait := some (.release 2), ports := [0] }) (.fenceRel plain .system) plain 0 (fun x =>
      x.w.wait == some (.release 2) && (List.finRange 6).all fun q => (x.d.port q).zreads.isEmpty) ∧
    Met mapped (.fenceAcq plain .core) plain 0 (fun x => !x.d.recorded 0) :=
  ⟨met_of (by decide +kernel), met_of (by decide +kernel), met_of (by decide +kernel), met_of (by decide +kernel)⟩

theorem witness_Monitors :
    Met (mappedWith (wpair 8 9 0x2FFFF)) (.monitor plain (.w 8) 0) plain 0 (fun x => x.v.has .i64 2 (.w 8) &&
      hiWord (x.v.uniformPair (.w 8)) != 0x80000000#32) ∧
    Met (mappedWith (wpair 8 9 0x8000000000FC4100)) (.monitor plain (.w 8) 0) plain 0 (fun x =>
      hiWord (x.v.uniformPair (.w 8)) == 0x80000000#32) ∧
    Met mapped (.waitmon plain 0) plain 0 (fun x => x.w.monitor.isNone) ∧
    Met (mappedWith fun w => { w with monitor := some (.phys 0, true) }) (.waitmon plain 1) plain 0 (fun x => x.w.monitor.any (·.2)) ∧
    Met (mappedWith fun w => { w with monitor := some (.phys 0, false) }) (.waitmon plain 1) plain 0 (fun x =>
      !x.w.preempt && !x.w.haltPend && x.w.monitor.any fun m => !m.2) :=
  ⟨met_of (by decide +kernel), met_of (by decide +kernel), met_of (by decide +kernel), met_of (by decide +kernel),
    met_of (by decide +kernel)⟩

/-- BANKCFG's checks, each with the ones before it passed; RMAP's with an allocation. -/
theorem witness_LocalStore :
    let spoken (n : Word) (i : Instr) (q : Site → Bool) : Prop := Met (mappedWith (wreg 3 .i32 n)) i plain 0 q
    spoken 0x100 (.bankcfgScratchpad plain (.w 3)) (fun x => fieldOf (x.v.uniform (.w 3)) 30 8 != 0) ∧
    spoken 0x1F (.bankcfgScratchpad plain (.w 3)) (fun x => decide (15 < (x.v.uniform (.w 3)).toNat % 16 + (x.v.uniform (.w 3)).toNat / 16 % 16)) ∧
    spoken 0xC2 (.bankcfgScratchpad plain (.w 3)) (fun x => !(x.v.uniform (.w 3)).getLsbD 31 && !x.privileged) ∧
    spoken 0x80000032 (.bankcfgFifo plain (.w 3) 2) (fun x => x.bankInUse (.fifo 2) 0x80000032 (x.bankRange 0x80000032)) ∧
    spoken 0x80000001 (.bankcfgFifo plain (.w 3) 2) (fun x => !x.bankInUse (.fifo 2) 0x80000001 (x.bankRange 0x80000001) &&
      !x.bankBusy (x.bankRange 0x80000001)) ∧
    Met (mappedWith (wreg 3 .i32 0x2000 ∘ wpair 4 5 0x7F0000700000 ∘ wreg 6 .i32 0x6000)) (.rmapMap plain (.w 3) (.w 4) (.w 6) 0) plain 0
      (fun x => (x.d.allocOf 0 x.w.owner).any fun al => decide (0x2000 + 0x6000 ≤ al.bytes)) ∧
    Met (mappedWith (wreg 3 .i32 0x2000)) (.rmapUnmap plain (.w 3) 0) plain 0 (fun x => (x.d.core 0).regions.isEmpty) :=
  ⟨met_of (by decide +kernel), met_of (by decide +kernel), met_of (by decide +kernel), met_of (by decide +kernel),
    met_of (by decide +kernel), met_of (by decide +kernel), met_of (by decide +kernel)⟩

theorem witness_WaitsAndFills :
    (let s := mappedWith fun w => { w with wait := some (.waitmon 0 1), monitor := some (.phys 0, true) }
     (s.dev.slot 0 0).any (fun w => w.status == .running && !w.finish.isOver && w.wait == some (.waitmon 0 1)) = true ∧
       ((s.dev.warps.filter fun x => (Dev.waitmonOf x.2.2).isSome && x.2.2.monitor.any (·.2))[0]?).any (fun y => y.1 == 0 && y.2.1 == 0) = true) ∧
    (let d := base.dev.modCore 0 fun c => { c with fills := [{ ctx := 0, va := 0x10100, demand := true }] }
     ((d.core 0).fills[0]?).any (fun f => match d.fetchPage f.ctx (canon57 f.va) with
        | .ok _ => true
        | _ => false) = true) ∧
    (let d := base.dev.noteWalk 0 0x10000
     (d.walks[0]?).any (fun w => ((d.context w.ctx).bind fun x => d.walkEntry w.ctx x w.va w.got).isSome) = true) ∧
    (let s := mappedWith fun w => { w with walked := [] }
     Met s (.ldg plain (.v 1) (.w 2) 0 none .b32) plain 0 (fun x => x.d.tlbMisses 0 0 0x20000)) ∧
    mapped.dev.tlbMisses 0 0 0x20000 = true ∧ 0x20000 % 2 ^ 57 / 2 ^ 24 = 0 := by
  refine ⟨⟨?_, ?_⟩, ?_, ?_, met_of ?_, ?_, ?_⟩ <;> decide +kernel


/-! ### The manual's copy command (chapter 12), its matrix at 0x20000 and its record at 0x20100 -/

def recordWords : List Nat := [0x20000, 0x10, 0, 0x300000005, 0, 0x10300000000, 0x22900, 0]

def copying : State := (mappedWith (pred 1 1 ∘ wpair 4 5 0x20100 ∘ wreg 10 .i32 0x00FC0200 ∘ wpair 6 7 0x200003)).onDev fun d =>
  (d.putRaw 0x30026 [0x00, 0x3C, 0x00, 0x42]).putRaw 0x30100 (recordWords.flatMap (leBytes 8))

def copyQueued : State := thenState (.cpyGl (guarded 1) (.w 4) (.w 10) (.w 6) (some 5)) copying
def copyAccepted : State := thenState (.copyAccept 0) copyQueued
def copyOver : State := thenState (.copyCompletion 0 0 []) copyAccepted

theorem test_cpy : ((copyQueued.dev.slot 0 0).any fun w => w.cp == 1 && (copyQueued.dev.core 0).copyQ.length == 1) = true := by
  decide +kernel
theorem test_copy_accept : ((copyAccepted.dev.core 0).copyQ.isEmpty && (copyAccepted.dev.cluster 0).engine.length == 1) = true := by
  decide +kernel
/-- The 16 local bytes, CPCNT, and the decrement of counter 5. -/
theorem test_copy_completion : ((copyOver.dev.slot 0 0).any (fun w => w.cp == 0) && ((copyOver.dev.cluster 0).decs.map fun r => (r.index, r.err, r.times)) == [(5, false, 1)] &&
    Sparse.getList (0 : Byte) (copyOver.dev.core 0).sram (10 * 0x4000 + 0x200) 16 ==
      (leBytes 4 0x00CB0000 ++ leBytes 4 0x40004000 ++ leBytes 4 0x40004000 ++ leBytes 4 0x40004000)) = true := by decide +kernel

/-- The manual's element (0, 0) of the product (chapter 13): 5,173 × 2^10. -/
theorem test_matrix_element :
    Tree.element 1 8 0x40000000 ([0x0000, 0x3F80, 0x00CB, 0x8000].map (Tree.operand 2) ++ List.replicate 252 (Tree.operand 2 0x4000))
      ([0x0000, 0x3FD8, 0x0000, 0x0080].map (Tree.operand 2) ++ List.replicate 252 (Tree.operand 2 0x4000)) = 0x0050D400 := by
  decide +kernel

/-- The manual's QNT (chapter 14): record 0 at 0x20800, its MAXLOG 2^5.5, TFMT and HEAD 0. -/
def quantising (pol : Nat) : State := (described (BitVec.ofNat 2048 (0x20800 * 2 ^ 256 + 4 * 2 ^ 320))).onDev fun d =>
  (d.putRaw 0x30800 (leBytes 4 7 ++ leBytes 4 pol ++ leBytes 4 0x01600000)).modWarp 0 0 (wreg 5 .i32 0 ∘ pred 1 0xF ∘
    lanes 2 .l32 (fun l => ([0x01600000, 0x01800000, 0x80000000, 0x3F400000][l.val]?).getD 0))
theorem test_qnt : moves (.loadCompletion 0 0 0) (thenState (.qnt (guarded 1) ⟨.v 1, .v 2, .w 5⟩ 6 0 .l8a .rn) (quantising 0)) (fun d =>
    (d.slot 0 0).any fun w => w.vAt 1 0 == 0x1F && w.vAt 1 1 == 0x1F && w.vAt 1 2 == 0xB3 && w.vAt 1 3 == 0x40 &&
      w.wAt 6 == 0x3F980000) = true := by decide +kernel
theorem test_qnt_rescale : leaves (.qnt (guarded 1) ⟨.v 1, .v 2, .w 5⟩ 6 0 .l8a .rn) (quantising 1) (fun _ w =>
    parks Code.rescale w && (w.record.map fun r => r[4]) == some 2) = true := by decide +kernel
/-- The statistics of the manual's store: BIN[3], BIN[−2], ZEROCNT, SPECCNT and WRITECNT. -/
theorem test_stat : (let s := (quantising 0).onDev fun d => d.modWarp 0 0 (wpair 8 9 0x20000 ∘ lanes 5 .l16 (fun l =>
      ([0x0180, 0xBF00, 0x4000, 0x7FFF][l.val]?).getD 0))
    let t := thenState (.tsrUpdate 0) (thenState (.storeCompletion 0 0 0)
      (thenState (.stg (guarded 1) (.w 8) (.v 5) (some (.w 5)) 0x10 (some .l16) .b16) s))
    t.dev.tsrWord 0 0x30800 42 == 1 && t.dev.tsrWord 0 0x30800 37 == 1 && t.dev.tsrWord 0 0x30800 6 == 4 &&
      (t.dev.slot 0 0).any fun w => w.st == 0) = true := by decide +kernel


/-! ### Engines, schedulers and the host: states that meet the hypotheses -/

/-- Copy, matrix and TBLD instructions whose queues have room and whose tags hold; CPCNT at its edge. -/
theorem witness_EngineCommands :
    Met copying (.cpyGl (guarded 1) (.w 4) (.w 10) (.w 6) (some 5)) (guarded 1) 0 (fun x =>
      x.v.has .i64 2 (.w 4) && x.v.has .i32 1 (.w 10) && x.v.has .i64 2 (.w 6) && (lanesOf x.p).length == 1 &&
        decide (x.w.cp + 1 ≤ 63) && (match (x.eachLane (x.copyLane .gl (.w 4) (.w 10) (.w 6) (some 5))).2 with
          | .ok _ => true
          | _ => false)) ∧
    Met (copying.onDev fun d => d.modWarp 0 0 fun w => { w with cp := 63 }) (.cpyGl (guarded 1) (.w 4) (.w 10) (.w 6) none) (guarded 1) 0
      (fun x => decide (63 < x.w.cp + (lanesOf x.p).length)) ∧
    Met (mappedWith id) (.statmrg plain (.inl 0) (.inl 0) none) plain 0 (fun x =>
      decide (16 < (x.d.core 0).copyQ.length + (lanesOf x.p).length)) ∧
    Met (mappedWith (pred 1 1 ∘ wreg 3 .i32 0x00FC0000)) (.tbld (guarded 1) (.w 3) (.inl 5) 0) (guarded 1) 0 (fun x =>
      x.v.has .i32 1 (.w 3) && decide (Site.matTaken (x.d.core 0) + 1 ≤ 4)) ∧
    Met (mappedWith (pred 1 1)) (.mmaLoc (guarded 1) (.w 4) 0) (guarded 1) 0 (fun x => !x.v.has .i32 1 (.w 4) &&
      x.w.loads.isEmpty && x.w.stores.isEmpty) :=
  ⟨met_of (by decide +kernel), met_of (by decide +kernel), met_of (by decide +kernel), met_of (by decide +kernel),
    met_of (by decide +kernel)⟩

/-- A buffer of two slots at the start of the allocation, one filled. -/
def aBuffer : Buffer where
  id := 3
  alloc := 7
  start := 10 * 0x4000
  woff := 0
  banks := 1
  e := 2
  n := 2
  head := 0
  tail := 1
  free := 1
  filled := 1
  rsv := 0
  acq := 0
  order := []
def buffered (b : Buffer) : State := (mappedWith (wreg 12 .i32 0x00FC0000)).onDev fun d => d.modCore 0 fun c => { c with bufs := [b] }

theorem witness_RecordsAndBuffers :
    Met (mappedWith (wreg 3 .i32 0xFFF)) (.publish plain (.w 3) 0) plain 0 (fun x => x.v.has .i32 1 (.w 3) &&
      decide ((x.v.uniform (.w 3)).toNat < 2 ^ 12) && !x.d.publishHeld x.issuer 0xFFF && (x.d.regionProbe 0 0xFFF).isNone) ∧
    Met (mappedWith (wreg 3 .i32 0x1000)) (.publish plain (.w 3) 0) plain 0 (fun x => decide (2 ^ 12 ≤ (x.v.uniform (.w 3)).toNat)) ∧
    Met (buffered aBuffer) (.cbacq plain (.v 1) (.w 12) 0) plain 0 (fun x => (x.bufferOf (.w 12)).any fun y => y.2.filled != 0) ∧
    Met (buffered { aBuffer with filled := 0 }) (.cbacq plain (.v 1) (.w 12) 0) plain 0 (fun x =>
      (x.bufferOf (.w 12)).any fun y => y.2.filled == 0) ∧
    Met (buffered { aBuffer with acq := 1 }) (.cbrel plain (.w 12) 0) plain 0 (fun x => x.w.drained &&
      (x.bufferOf (.w 12)).any fun y => y.2.acq != 0) ∧
    Met (buffered aBuffer) (.cbrel plain (.w 12) 0) plain 0 (fun x => (x.bufferOf (.w 12)).any fun y => y.2.acq == 0) ∧
    Met (mappedWith (wreg 2 .i32 95)) (.mzero plain (.w 2) (.inl 1) 0) plain 0 (fun x => decide ((x.v.uniform (.w 2)).toNat + 1 ≤ 96)) ∧
    Met (mappedWith (wreg 2 .i32 96)) (.mzero plain (.w 2) (.inl 1) 0) plain 0 (fun x => decide (96 < (x.v.uniform (.w 2)).toNat + 1)) :=
  ⟨met_of (by decide +kernel), met_of (by decide +kernel), met_of (by decide +kernel), met_of (by decide +kernel),
    met_of (by decide +kernel), met_of (by decide +kernel), met_of (by decide +kernel), met_of (by decide +kernel)⟩

theorem witness_StatisticsInstructions :
    Met (quantising 0) (.qnt (guarded 1) ⟨.v 1, .v 2, .w 5⟩ 6 0 .l8a .rn) (guarded 1) 0 (fun x => x.w.ld < 63 &&
      x.qntOk ⟨.v 1, .v 2, .w 5⟩ .l8a && (x.d.context 0).any fun z => z.tsrIndexOk (x.v.uniform (.w 5))) ∧
    Met (quantising 0) (.statrd plain (.v 3) (.inl 4) 63) plain 0 (fun x => (x.d.context 0).any fun z =>
      !z.tsrIndexOk (x.v.uniform (.inl 4))) ∧
    Met ((quantising 0).onDev fun d => d.modWarp 0 0 fun w => { w with st := 63 }) (.statrst plain (.w 5) 0) plain 0 (fun x =>
      decide (63 ≤ x.w.st)) ∧
    Met (quantising 0) (.statrst plain (.w 5) 0) plain 0 (fun x => (match x.d.placeAt 0 0 x.w .global 0x20800 256 true .write with
      | .ok (_, .phys pa, _) => pa == 0x30800
      | _ => false)) :=
  ⟨met_of (by decide +kernel), met_of (by decide +kernel), met_of (by decide +kernel), met_of (by decide +kernel)⟩

theorem witness_CommandsAccepted :
    (let d := copyQueued.dev
     (d.core 0).copyQ.any (fun c => d.servedCore 0 == some 0 && !d.bufferGone c && !c.out.qnt && c.kind == .gl) = true ∧
       d.servedCore 0 ≠ some 1) ∧
    (let c : CopyCmd := { CopyCmd.blank .gf { core := 0, slot := 0, ctx := 0, task := 0 } with
       buf := some 3, place := some { core := 0, alloc := 7, off := 0, addr := 0x00FC0000 } }
     let d (b : Buffer) : Dev := (buffered b).dev.modCore 0 fun y => { y with copyQ := [c] }
     (d aBuffer).bufferGone c = false ∧ c.slot = none ∧ ((d aBuffer).core 0).bufs.find? (fun y => y.id == 3) = some aBuffer ∧
       aBuffer.free ≠ 0 ∧ (d { aBuffer with id := 4 }).bufferGone c = true ∧
       (d { aBuffer with id := 4 }).servedCore 0 = some 0) ∧
    (let c : CopyCmd := { CopyCmd.blank .gg { core := 0, slot := 0, ctx := 0, task := 0 } with rec2 := BitVec.allOnes 512 }
     c.kind = .gg ∧ c.out.ring = true ∧ c.ringSlot = none ∧ base.dev.cmdWaits c = false ∧ c.error = none) := by
  refine ⟨⟨?_, ?_⟩, ⟨?_, ?_, ?_, ?_, ?_, ?_⟩, ⟨?_, ?_, ?_, ?_, ?_⟩⟩ <;> decide +kernel

theorem witness_CommandsPerformed :
    (let d := copyAccepted.dev
     ((d.cluster 0).engine[0]?).any (fun c => d.cmdReady c && c.kind != .multicast && (d.perform c []).2.2.isNone && c.packet.isNone &&
       c.tile.isNone && c.error.isNone && Dev.grants (d.cluster 0) 3 0 &&
       (d.slot c.by_.core c.by_.slot).any (fun w => w.task == c.by_.task && w.status != .ended)) = true) ∧
    (let d : Dev := copyAccepted.dev.modCluster 0 fun y => { y with engine := y.engine.map fun c => { c with error := some (2, 0, 0) } }
     ((d.cluster 0).engine[0]?).any (fun c => !d.cmdReady c && !d.cmdWaits c && (d.sendUpdates c).2.2.isNone) = true) ∧
    (let b : Buffer := { aBuffer with free := 2, filled := 0 }
     let c : CopyCmd := { CopyCmd.blank .multicast { core := 0, slot := 0, ctx := 0, task := 0 } with
       tile := some [1, 2], receivers := [(0, some 7, none), (1, none, some 2)], place := some { core := 0, alloc := 0, off := 0, addr := 0 } }
     let d : Dev := (buffered b).dev.modCluster 0 fun y => { y with engine := [c] }
     (d.drains 0)[0]? = some (c, 0, some 7, none) ∧ (d.drains 0)[1]? = some (c, 1, none, some 2) ∧ d.cmdWaits c = false ∧
       d.bufferAt { core := coreOf 0 0, alloc := 7, off := 0, addr := 0 } = some b ∧ [1#8, 2#8].length ≤ Dev.slotBytes b ∧
       c.out.stat = false ∧ b.free ≠ 0) := by
  refine ⟨?_, ?_, ⟨?_, ?_, ?_, ?_, ?_, ?_, ?_⟩⟩ <;> decide +kernel

theorem witness_PublishPoint :
    let s (poison : List (BitVec 12)) : State := (mappedWith fun w => { w with wait := some (.publish 3 Mask.all) }).onDev fun d =>
      d.modContext 0 fun x => { x with poison := poison }
    (s []).dev.slot 0 0 ≠ none ∧ ((s []).dev.slot 0 0).any (fun w => w.wait == some (.publish 3 Mask.all) && !w.finish.isOver) = true ∧
      (s []).dev.regionProbe 0 3 = none ∧ ((s [3]).dev.context 0).any (fun x => x.poison.contains 3) = true := by
  refine ⟨?_, ?_, ?_, ?_⟩ <;> decide +kernel

/-- A TBLD at the head of the queue, an operation there, one that runs, and a filled table buffer. -/
theorem witness_MatrixSteps :
    let by_ : Issuer := { core := 0, slot := 0, ctx := 0, task := 0 }
    let src : LocalRef := { core := 0, alloc := 7, off := 0, addr := 0x00FC0000 }
    let op (t : Option (LocalRef × Nat)) (m : BitVec 1024) : MatCmd := .op 1 by_ m 0 [] [] [] t
    let loaded : Dev := mapped.dev.modCore 0 fun c => { c with matQ := [.tbld 1 by_ src 5] }
    let runs : Dev := mapped.dev.modCore 0 fun c => { c with running := some (op none 0) }
    let pulls : Dev := (buffered aBuffer).dev.modCore 0 fun c => { c with running := some (op (some (src, 3)) (2#1024 <<< 375)) }
    (mapped.dev.slot 0 0).any (fun w => w.task == by_.task && w.status != .ended) = true ∧
    5 ∉ Dev.entriesDue (loaded.core 0) ∧ loaded.opHeld 0 = false ∧ (match Dev.placesOf 0 1 .t 0 src 1024 loaded with
      | .ok _ => true
      | _ => false) = true ∧
    (runs.core 0).running = some (op none 0) ∧ runs.opHeld 0 = false ∧ (runs.core 0).zeros = [] ∧
    (match runs.readOperands 0 1 0 (1#1024 <<< 374) 0 [] [] [] 4 with
      | .ok _ => true
      | _ => false) = true ∧
    (match runs.readOperands 0 1 0 0 0 [] [] [] 4 with
      | .error (.fail _ _ _) => true
      | _ => false) = true ∧ Mpb.blocks (0 : BitVec 1024) = 4 ∧ Mpb.blocks (1#1024 <<< 374) = 4 ∧
    (pulls.tableGone (pulls.core 0)).isNone = true ∧
    Dev.pullFor (pulls.core 0) = some (src, 3) ∧ ((pulls.core 0).bufs.find? fun y => y.id == 3) = some aBuffer := by
  refine ⟨?_, ?_, ?_, ?_, ?_, ?_, ?_, ?_, ?_, ?_, ?_, ?_, ?_, ?_⟩ <;> decide +kernel

/-- An update in the record's generation and one of another; word 63, word 6. -/
theorem witness_StatisticsUpdates :
    let u (gen : Word) : TsrSend :=
      { ctx := 0, pa := 0x30800, key := 0, gen := gen, delta := { adds := [(63, 1)], maxlog := none }, by_ := none }
    (quantising 0).dev.tsrWord 0 0x30800 0 = (u 7).gen ∧ (quantising 0).dev.tsrWord 0 0x30800 0 ≠ (u 8).gen ∧
      paKind 0x30800 = .dram ∧ 0x30800 % 256 = 0 := by
  refine ⟨?_, ?_, ?_, ?_⟩ <;> decide +kernel

/-- Counters at 2 with one and with two decrements on their way, at 0, and at the largest value. -/
theorem witness_DependenceCounters :
    let d (v : BitVec 16) (n : Nat) : Dev := (base.dev.putDep 1 5 { value := v, err := false, waiters := [0] }).sendDecs 1 5 true n none
    let both : Dev := (base.dev.sendDecs 1 5 false 1 (some 3)).sendDecs 1 5 false 1 (some 3)
    ((d 2 1).cluster 1).decs[0]? = some { index := 5, err := true, times := 1, by_ := none } ∧ 1 < ((d 2 1).dep 1 5).value.toNat ∧
      ((d 2 2).dep 1 5).value.toNat = 2 ∧ ((d 0 1).dep 1 5).value.toNat < 1 ∧ ((d 65535 1).dep 1 5).value.toNat + 1 = 65536 ∧
      ((both.cluster 1).decs.take 1).any (fun y => y.by_ == some 3 && y.index == 5) = true := by
  refine ⟨?_, ?_, ?_, ?_, ?_, ?_⟩ <;> decide +kernel

/-- A task of one warp that is ready, with its bind record, well-formed and malformed. -/
theorem witness_TaskStarts :
    let t : Task := { aTask 0 (1#512 <<< 128) with placed := 0, state := .ready }
    let d : Dev := { base.dev with tasks := [t] }
    let o : CodeObj := { id := 0, base := 0x10000, cls := 0, svn := 0, live := [], npages := 1, target := 0 }
    let r : BitVec 128 := Dev.bindRecord t 0 1 none false
    let e : Dev := (d.modCore 0 fun c => { c with bindQ := [r] }).modContext 0 fun x => { x with objs := [o] }
    d.task? 0 = some t ∧ d.mayBind 0 0 = true ∧ (d.cluster 0).binds = [] ∧ t.bandsz = 0 ∧ t.placed < t.warpCount ∧
      (d.prepare t (.task 0) 0).isSome = true ∧ Dev.recordBad r = false ∧ Dev.recordBad (r ||| 1#128 <<< 95) = true ∧
      e.lowestFree 0 (fieldOf r 93 91) = some 1 ∧ (e.core 0).bindQ = [r] ∧
      (e.tasks.find? fun t => t.home == 0 && t.handle.toNat == fieldOf r 127 112) = some t ∧
      (e.context 0).any (fun x => (x.objs.find? fun o => o.id == t.codeobj) == some o) = true := by
  refine ⟨?_, ?_, ?_, ?_, ?_, ?_, ?_, ?_, ?_, ?_, ?_, ?_⟩ <;> decide +kernel

/-- A task that is over, with no completion address and with one that can be written. -/
theorem witness_TaskEnds :
    let t (ctgt : Nat) : Task := { aTask 0 (BitVec.ofNat 512 (2 ^ 128 + ctgt * 2 ^ 256)) with done := 1 }
    Dev.taskOver (t 0) = true ∧ (t 0).ctgt = 0 ∧ (t 0x20008).ctgt = 0x20008 ∧ Dev.taskOver { t 0 with done := 0 } = false ∧
      mapped.dev.translate 0 0x20008 .write = .ok ⟨0x30008, 0, none⟩ ∧ paKind 0x30008 = .dram := by
  refine ⟨?_, ?_, ?_, ?_, ?_, ?_⟩ <;> decide +kernel

theorem witness_WorkDonation :
    let d : Dev := State.reset.dev
    let t : Task := { aTask 4 0 with placed := 0, state := .ready }
    let m : StealMsg := { tag := 0, thief := 1, anyCtx := true, ctx := 0, want := 4 }
    let v : Dev := { d with tasks := [t] }.modCluster 0 fun c => { c with stealIn := [m] }
    d.clusterOn 0 = true ∧ d.idle 0 = true ∧ (d.cluster 0).stealOut = none ∧ d.nextVictim 0 = 1 ∧
      Dev.grantsAll (d.cluster 0) 1 20 = true ∧ (v.cluster 0).stealIn = [m] ∧ ([4].filterMap v.task?) = [t] ∧
      v.goodChoice 0 m [] [t] = true ∧ v.goodChoice 0 m [] [t, t] = false := by
  refine ⟨?_, ?_, ?_, ?_, ?_, ?_, ?_, ?_, ?_⟩ <;> decide +kernel

theorem witness_PageRequests :
    let d : Dev := { mapped.dev with requests := [{ ctx := 0, va := 0x20000, pages := [] }] }
    d.requests[0]? = some { ctx := 0, va := 0x20000, pages := [] } ∧ d.context 0 = some placedContext ∧ d.submissions = [] ∧
      (d.cores.map (·.1)).Nodup ∧ (d.walkPte placedContext 0x20000).isSome = true ∧
      d.pteAddr placedContext 0x20000 = some 0x22810 := by
  refine ⟨?_, ?_, ?_, ?_, ?_, ?_⟩ <;> decide +kernel

/-- A fault ring of 4 entries, empty and full; an answer to a forwarded warp. -/
theorem witness_FaultRecords :
    let r : Vector Word 256 := (Vector.replicate 256 (0 : Word)).set 5 0x0114
    let d (write : Nat) : Dev := ((mapped.dev.modFn 0 fun f => { f with fltbase := 0x40000, fltctl := 2 }).modCluster 0 fun c =>
      { c with faultQ := [(0, r)] }).putRaw 0x40000 (leBytes 8 write)
    let f : Dev := ({ mapped.dev with tasks := [aTask 0 0] }).modWarp 0 0 fun w => { w with status := .forwarded, record := some r }
    let who : AnswerTo := { ctx := 0, taskh := 5, cluster := 0, core := 0, slot := 0 }
    r[5].toNat / 2 ^ 8 % 2 ^ 8 ≠ 0 ∧ portOf 0x40000 = none ∧
      ¬2 ^ 2 ≤ ((d 3).rawNat 0x40000 8 + 2 ^ 64 - (d 3).rawNat 0x40008 8) % 2 ^ 64 ∧
      2 ^ 2 ≤ ((d 4).rawNat 0x40000 8 + 2 ^ 64 - (d 4).rawNat 0x40008 8) % 2 ^ 64 ∧
      f.answered 0 who = some (0, 0) ∧ f.answered 1 who = none ∧ Dev.recordComplete r = false := by
  refine ⟨?_, ?_, ?_, ?_, ?_, ?_, ?_⟩ <;> decide +kernel

/-- A context that no cluster has been asked to pre-empt; one whose warps stand where they may stop. -/
theorem witness_Preemption :
    let d : Dev := (mapped.dev.modWarp 0 0 fun w => { w with status := .parked }).modCluster 0 fun c => { c with preempting := [(0, 0)] }
    mapped.dev.context 0 = some placedContext ∧ placedContext.ended = false ∧ mapped.dev.saved = [] ∧
      (mapped.dev.cluster 0).preempting = [] ∧ (d.warpsOf 0 0).all (fun y => d.mayStop y.1 y.2.2) = true ∧
      d.settledEngines 0 0 = true ∧ Dev.storesHome (d.warpsOf 0 0) = true ∧ d.dirtyLines 0 (fun l => l.ctx == 0) = [] := by
  refine ⟨?_, ?_, ?_, ?_, ?_, ?_, ?_, ?_⟩ <;> decide +kernel

/-- A warp before a safe point with a halt pending; an address with no owner and one with one. -/
theorem witness_HaltsAndErrors :
    let d : Dev := (State.reset.withFetchWord 96 (word 0x78787000 0x00007878 0x00400000).toNat).dev.modWarp 0 0 fun w => { w with
      haltPend := true, pass := false }
    (d.slot 0 0).any (fun w => d.atSafePoint 0 w && d.haltCause w == some 0) = true ∧ State.reset.dev.owners 0x30000 = [] ∧
      mapped.dev.owners 0x30000 = [0] := by
  refine ⟨?_, ?_, ?_⟩ <;> decide +kernel

/-- Ring 0 of the PF with a packet: a context of its own, one that is not there, one that has ended. -/
def fetched : State := packets.onDev fun d => d.modRing ⟨0, 0⟩ fun r => { r with tail := 1 }

theorem witness_RingCommands :
    fetched.dev.consumer ⟨0, 0⟩ false = some 0 ∧ packets.dev.consumer ⟨0, 0⟩ false = none ∧
      (fetched.dev.ownContext 0 0).any (fun x => !x.ended) = true ∧ fetched.dev.ownContext 0 1 = none ∧
      fetched.dev.ownContext 1 0 = none ∧ (fetched.dev.ring ⟨0, 0⟩).cmds = [] ∧
      fetched.dev.translate 0 0x2FFF8 .both = .ok ⟨0x3FFF8, 0, none⟩ ∧ portOf 0x3FFF8 = none ∧ canonical 0x20040 = true := by
  refine ⟨?_, ?_, ?_, ?_, ?_, ?_, ?_, ?_, ?_⟩ <;> decide +kernel

theorem witness_CapturesAndPages :
    fetched.dev.consumer ⟨0, 0⟩ false = some 0 ∧ (fetched.dev.ownContext 0 0).any (fun x => !x.ended && !x.tsrIndexOk 0) = true ∧
      (4096 : Nat) = 2 ^ (4096 : Nat).log2 ∧ fetched.dev.ringWritable 0 0x20000 4096 = true ∧
      fetched.dev.ringWritable 0 0x2FFF8 4096 = false ∧ fetched.dev.mergeRoom ⟨0, 0⟩ = true ∧
      Dev.spanOk 0x20000 1 = true ∧ Dev.spanOk 0x20000 0 = false ∧ fetched.dev.accessesHome 0 0 = true := by
  refine ⟨?_, ?_, ?_, ?_, ?_, ?_, ?_, ?_, ?_⟩ <;> decide +kernel

theorem witness_CodePackets :
    (fetched.dev.scanPlace 0 0x10000).isSome = true ∧ fetched.dev.scanPlace 0 0x30000 = none ∧
      fetched.dev.pcInSpan 0 0x10000 1 = true ∧ fetched.dev.pcInSpan 0 0x20000 1 = false ∧
      (match fetched.dev.objectBytes 0 0x20000 0 128 with
        | .ok _ => true
        | _ => false) = true ∧
      (match fetched.dev.objectBytes 0 0x30000 0 128 with
        | .ok _ => false
        | _ => true) = true := by
  refine ⟨?_, ?_, ?_, ?_, ?_, ?_⟩ <;> decide +kernel

theorem witness_PrivilegedPackets :
    Dev.physOk 0x1FFFFFFFC0 64 = true ∧ Dev.physOk 0xFFFFFFFFFFC1 64 = false ∧ paKind 0x40000 = .dram ∧
      (1023#16).toNat < 1024 ∧ (4095#16).toNat < 4096 ∧ fetched.dev.context 1 = none ∧ fetched.dev.context 0 ≠ none ∧
      fetched.dev.fwSent 0x800000000000 64 = true ∧
      { fetched.dev with fwwin := Vector.replicate 8 (0x1000, 0x103F) }.fwSent 0x800000001000 64 = true ∧
      { fetched.dev with fwwin := Vector.replicate 8 (0x1000, 0x103F) }.fwSent 0x800000001001 64 = false := by
  refine ⟨?_, ?_, ?_, ?_, ?_, ?_, ?_, ?_, ?_, ?_⟩ <;> decide +kernel

theorem witness_RegisterPages :
    (base.dev.port 0).up = true ∧ base.dev.partOf 0 = 0 ∧ base.dev.context 0 = some placedContext ∧
      base.dev.warps.all (fun y => y.2.2.wait.isNone) = true ∧
      (base.dev.slot 0 0).any (fun w => base.dev.inScope 0 { ctx := 0, taskh := 0xFFFF, warp := 0xFFFF } w) = true ∧
      (-500000#32 : Word).toInt = -500000 ∧ fieldOf (0x110#64) 4 0 = 16 := by
  refine ⟨?_, ?_, ?_, ?_, ?_, ?_, ?_⟩ <;> decide +kernel

theorem witness_InboundRequests :
    base.dev.inOk .pf 0x30000 4096 4096 = true ∧ base.dev.inOk .pf 0x30000 4097 4096 = false ∧
      (match base.dev.inPlaces .pf 0x30000 2 .write with
        | .ok ps => ps == [(0x30000, base.dev.pfkey), (0x30001, base.dev.pfkey)]
        | _ => false) = true ∧
      (match base.dev.inPlaces .pf 0x10000 1 .write with
        | .error (.guarded pa) => pa == 0x10000
        | _ => false) = true ∧
      (base.dev.port 5).up = true ∧ (base.dev.port 5).zreads = [] := by
  refine ⟨?_, ?_, ?_, ?_, ?_, ?_⟩ <;> decide +kernel

theorem witness_PortsAndResets :
    (base.dev.port 1).posted = [] ∧ min State.reset.dev.pwrlim.toNat 1800 = 1800 ∧ State.reset.board.on = true ∧
      base.dev.ringCluster ⟨0, 3⟩ = some 3 := by
  refine ⟨?_, ?_, ?_, ?_⟩ <;> decide +kernel

theorem witness_CounterPages :
    let t : Trace := { ctx := 0, base := 0, bytes := 4096, k := 4, j := 8, cats := 0x40, written := 0, dropped := 0
                       queue := [], closed := false, stopPut := false, shown := 0 }
    t.cats.getLsbD 6 = true ∧ ((List.range 64).map fun i => ((base.dev.core 0).pcSlot + i) % 64)[0]? = some 0 ∧
      (base.dev.slot 0 0).any (fun w => w.status != .ended) = true := by
  refine ⟨?_, ?_, ?_⟩ <;> decide +kernel




/-! ### Sniuno: the manual's example (chapter 20) -/

/-- The body of the example. -/
def snBody : List Byte :=
  [0x02, 0x06, 0x23, 0x02, 0x00, 0x24, 0x01, 0x60, 0x5C, 0x02, 0x02, 0x22, 0x02, 0x00, 0x80, 0x06, 0, 0, 0, 0, 0x22, 0x06, 0x01,
    0x20, 0x06, 0x01, 0x50, 0x06, 0x41, 0x06, 0, 0, 0, 0, 0x50, 0x06, 0x21, 0x06, 0x01, 0x20, 0x02, 0x00, 0x20, 0x06, 0x01,
    0x81, 0x06, 0x80, 0, 0, 0, 0x0B, 0x00]
/-- A module of one function with two locals. -/
def snModule (body : List Byte) : List Byte :=
  leBytes 4 0x55494E53 ++ leBytes 2 1 ++ leBytes 2 1 ++ leBytes 4 (32 + body.length) ++ leBytes 4 0 ++ leBytes 4 0x20 ++
    leBytes 4 body.length ++ [2] ++ leBytes 7 0 ++ body
/-- The body with bytes put before an offset. -/
def snPut (n : Nat) (bs : List Byte) : List Byte := snBody.take n ++ bs ++ snBody.drop n

theorem test_sniuno_verifies : snBody.length = 0x35 ∧ (snModule snBody).length = 85 ∧ verify (snModule snBody) = none ∧
    verify (snModule ((snBody.take 23 ++ [0x02, 0x06, 0x20, 0x06, 0x01, 0x0B, 0x00]) ++ snBody.drop 26)) = none := by
  refine ⟨?_, ?_, ?_, ?_⟩ <;> decide +kernel
/-- A block around offsets 23 to 34, an `if` in place of the block, and one behind an I32: the reasons that the manual gives. -/
theorem test_sniuno_refused :
    (verify (snModule (snPut 23 [0x02, 0x06]))).map (fun r => (r.off, r.reason)) = some (28, .stackUnder) ∧
    (verify (snModule (snPut 23 [0x04, 0x06]))).map (fun r => (r.off, r.reason)) = some (23, .stackType) ∧
    (verify (snModule ((snBody.take 23 ++ [0x24, 0x01, 0x60, 0x04, 0x06, 0x20, 0x06, 0x01, 0x0B, 0x00]) ++ snBody.drop 26))).map
      (fun r => (r.off, r.reason)) = some (31, .blockResult) ∧
    (verify ((snModule snBody).set 4 2)).map (·.reason) = some .header := by
  refine ⟨?_, ?_, ?_, ?_⟩ <;> decide +kernel
/-- The run at the `add` of offset 26, where the thread of lane 5 holds 1.0 and +∞. -/
def snAdding : SnRun :=
  let r := SnRun.start { nlocal := 2, bodyOff := 32, body := snBody } (.fresh 0 0 0 0 0 Mask.all 0)
  { r with off := 26, threads := r.threads.set 5 { locals := [0, 0], vals := [0x7FFFFFFF, 0], frames := r.threads[5].frames } }
/-- The operands stand in the registers of the native GADD, and its result takes their place (R428). -/
theorem test_sniuno_add :
    let x := snAdding.begin 0 0 (.fresh 0 0 0 0 0x10004 Mask.all 0) base
    let w := vreg 6 .l32 0x7FFFFFFF (.fresh 0 0 0 0 0x10004 Mask.all 0)
    let y := x.1.settle w (.bin .add .l32) 2
    x.1.todo = [.gadd Sniuno.plain ⟨.v 6, .v 0, .v 2⟩ 0 .l32 .rn .dflt] ∧
    (x.2.dev.slot 0 0).any (fun w => w.vAt 0 5 == 0 && w.vAt 2 5 == 0x7FFFFFFF && w.vTag 2 == .l32) = true ∧
    y.off = 28 ∧ y.threads[5].vals = [0x7FFFFFFF] ∧ snAdding.threads[0].locals = [0, 0x40000000] := by
  refine ⟨?_, ?_, ?_, ?_, ?_⟩ <;> decide +kernel

/-! ### More states that meet the hypotheses -/

/-- A load whose walk goes on; a store, an atomic operation, a monitor and a record that wait for one. -/
theorem witness_Walks :
    let s (f : Warp → Warp) : State := mappedWith (f ∘ wpair 2 3 0x20000 ∘ wreg 4 .i32 1 ∘ fun w => { w with walked := [] })
    let walks (r : Except FaultInfo (Dev × List Place)) : Bool := match r with
      | .error f => !f.walks.isEmpty
      | .ok _ => false
    Met (s id) (.ldg plain (.v 1) (.w 2) 0 none .b32) plain 0 (fun x =>
      walks (x.places .global (.w 2) 0 4 .read (lanesOf x.p))) ∧
    Met (s id) (.stg plain (.w 2) (.w 4) none 0 none .b32) plain 0 (fun x =>
      walks (x.places .global (.w 2) 0 4 .write (lanesOf x.p))) ∧
    Met (s id) (.spawn plain (.w 2) 0) plain 0 (fun x => walks (x.places .global (.w 2) 0 64 .read (lanesOf x.p))) :=
  ⟨met_of (by decide +kernel), met_of (by decide +kernel), met_of (by decide +kernel)⟩

/-- The end of a walk brings the span's entry into the last level, with the pages that it may cover (R245, R246). -/
theorem test_tlb_walk : moves (.tlbWalkComplete 0) (mapped.onDev fun d => d.noteWalk 0 0x20000) (fun d =>
    (d.tlb.any fun t => t.ctx == 0 && t.span == 0 && t.mask.getLsbD 2) && d.walks.isEmpty) = true := by decide +kernel
/-- A walk that is not over holds the load, and is asked for once. -/
theorem test_walk_holds : leaves (.ldg plain (.v 1) (.w 2) 0 none .b32)
    (mappedWith (wpair 2 3 0x20000 ∘ fun w => { w with walked := [] })) (fun d w =>
    w.wait == some .walk && w.ld == 0 && d.walks.length == 1) = true := by decide +kernel

/-- A store in flight whose frame is protected at its arrival ends its context (R43, R405, log 106). -/
theorem test_late_store :
    moves (.storeCompletion 0 0 0) (mappedWith fun w => { w with st := 1, stores := [{ Site.blankStore with
      flight := [{ loc := .phys 0x10000, key := 0, val := 0x55 }] }] }) (fun d =>
      d.rawByte 0x10000 == base.dev.rawByte 0x10000 && (d.context 0).any (·.ended)) = true := by decide +kernel

/-- Two ready warps of one pipe: the class decides, and an age of 57 goes before it (R156). -/
def twoReady (age : Nat) : State := base.onDev fun d =>
  let w : Warp := { (d.slot 0 0).getD (.fresh 0 0 0 0 0 0 0) with prio := 1 }
  (d.putWarp 0 0 w).putWarp 0 8 { w with prio := 0, age := age, uid := 8 }
theorem test_choice : ((twoReady 56).choose 0 0).1 = some 0 ∧ ((twoReady 57).choose 0 0).1 = some 8 := by
  refine ⟨?_, ?_⟩ <;> decide +kernel

/-- A refresh under way, with SEQ odd, its entries still to be written, and its end (R394). -/
theorem test_refresh :
    let one := thenState (.counterPageRefresh 0) (base.onDev fun d => { d with clock := 77 })
    Sparse.get 0 (one.dev.fn 0).page 0 = 1 ∧ (one.dev.fn 0).refresh.length = 512 ∧
      ((one.dev.fn 0).refresh[0]?) = some (1, 77) ∧ Sparse.get 0 (one.dev.fn 0).page 1 = 0 := by
  refine ⟨?_, ?_, ?_, ?_⟩ <;> decide +kernel

/-- Captures that are closed and that are not; a halt of the capture's category; the ring registers' answers. -/
theorem witness_CapturesAndPages_closed :
    let t (closed : Bool) : Trace := { ctx := 0, base := 0x20000, bytes := 4096, k := 4, j := 8, cats := 0, written := 1, dropped := 0
                                       queue := [], closed := closed, stopPut := false, shown := 0 }
    let d (c : Bool) : Dev := { fetched.dev with trace := some (t c) }
    (d true).consumer ⟨0, 0⟩ false = some 0 ∧ (d true).trace = some (t true) ∧ (d false).trace = some (t false) ∧
      (t false).closed = false := by
  refine ⟨?_, ?_, ?_, ?_⟩ <;> decide +kernel

/-- TRACE_STOP puts the STOP record into the ring behind the one record written, and completes. -/
theorem test_trace_stop :
    let t : Trace := { ctx := 0, base := 0x20000, bytes := 4096, k := 4, j := 8, cats := 0, written := 1, dropped := 0
                       queue := [], closed := false, stopPut := false, shown := 0 }
    moves (.traceStop ⟨0, 0⟩ { ctx := 0, barrier := false, caddr := 0, cval := 0 })
      { fetched with dev := { fetched.dev with trace := some t } } (fun d =>
      d.trace.isNone && d.rawNat 0x30000 8 == 2 && d.rawByte (0x30000 + 64 + 8) == 11 && (d.ring ⟨0, 0⟩).cmds.isEmpty) = true := by
  decide +kernel

/-- A record that its sender holds, and the grant that it waits for: granted and refused (R177). -/
theorem witness_FaultRecords_held :
    let r : Vector Word 256 := (Vector.replicate 256 (0 : Word)).set 5 0x0114
    let c (cap : BitVec 13) : Cluster := { mapped.dev.cluster 0 with
      faultQ := [(0, r)], faultHeld := [(0, r)], capq := (mapped.dev.cluster 0).capq.set 4 cap }
    Dev.grants { c 4096 with faultQ := [] } 4 0 = true ∧ Dev.grants { c 0 with faultQ := [] } 4 0 = false := by
  refine ⟨?_, ?_⟩ <;> decide +kernel

/-- A parked warp that pre-emption has saved, waiting for its page and forwarded to the host (R368, R376). -/
theorem witness_FaultRecords_saved :
    let r : Vector Word 256 := ((Vector.replicate 256 (0 : Word)).set 4 1).set 5 0x0103
    let w : Warp := { Warp.fresh 0 0 0 0 0x10004 Mask.all 0 with status := .forwarded, record := some r }
    let k : SavedCore := { core := 0, warps := [(0, w)], allocs := [], bufs := [], regions := [], sram := [], l1 := [], copyQ := [], matQ := []
                           zeros := [], tiles := [], drec := [], tables := [], staging := [], early := [] }
    let d : Dev := { State.reset.dev with
      contexts := mapped.dev.contexts, tasks := [aTask 0 0]
      saved := [{ cluster := 0, ctx := 0, cores := [k], binds := [], engine := [] }] }
    let who : AnswerTo := { ctx := 0, taskh := 5, cluster := 0, core := 0, slot := 0 }
    d.answered 0 who = none ∧ d.answers 0 who 0 0 w = true ∧ d.answers 1 who 0 0 w = false ∧ (d.port 0).up = true := by
  refine ⟨?_, ?_, ?_, ?_⟩ <;> decide +kernel

/-- The host's answer in FANSWER's two writes: the first names the warp and the action, the second the lanes (R415). -/
theorem test_fanswer :
    let r : Vector Word 256 := (Vector.replicate 256 (0 : Word)).set 5 0x0114
    let s : State := mapped.onDev fun d => ({ d with tasks := [aTask 0 0] }).modWarp 0 0 fun w => { w with
      status := .forwarded, record := some r }
    moves (.registerWrite 0 0x208 3) (thenState (.registerWrite 0 0x200 (5 * 2 ^ 16 + 2 ^ 56)) s) (fun d =>
      (d.slot 0 0).any fun w => w.status == .running && w.skip == 3) = true := by decide +kernel

/-- Fields of FANSWER for each action (R415). -/
theorem witness_RegisterPages_answers :
    fieldOf (0 : DWord) 57 56 = 0 ∧ fieldOf (1#64 <<< 56) 57 56 = 1 ∧ fieldOf (2#64 <<< 56) 57 56 = 2 ∧
      fieldOf (3#64 <<< 56) 57 56 = 3 := by
  refine ⟨?_, ?_, ?_, ?_⟩ <;> decide +kernel

/-- A request that the victim's queue does not grant; a packet on its way and a reply behind it; a reply alone (R177, R182). -/
theorem witness_WorkDonation_more :
    let d : Dev := State.reset.dev.modCluster 1 fun c => { c with capq := c.capq.set 2 0 }
    let p : SorediumPacket := { task := 4, image := 0, param := [] }
    let e (ps : List SorediumPacket) : Dev := { d with tasks := [{ aTask 4 0 with state := .donated }] }.modCluster 0 fun c => { c with
      packetsIn := ps, replyIn := some (0, 1) }
    Dev.grants (State.reset.dev.cluster 1) 2 0 = true ∧ Dev.grants (d.cluster 1) 2 0 = false ∧
      ((e [p]).cluster 0).packetsIn[0]? = some p ∧ ((e [p]).task? 4).isSome = true ∧ ((e []).cluster 0).packetsIn = [] ∧
      ((e []).cluster 0).replyIn = some (0, 1) := by
  refine ⟨?_, ?_, ?_, ?_, ?_, ?_⟩ <;> decide +kernel

/-- An update of another generation with the store that waits for it (R341). -/
theorem witness_StatisticsUpdates_store :
    let p : PStore := { Site.blankStore with seq := 3, sent := true }
    let s : State := (quantising 0).onDev fun d => d.modWarp 0 0 fun w => { w with st := 1, stores := [p] }
    (s.dev.slot 0 0).any (fun w => w.stores == [p] && w.status != .ended) = true ∧ s.dev.tsrWord 0 0x30800 0 ≠ 8 := by
  refine ⟨?_, ?_⟩ <;> decide +kernel

/-- A ring whose only command waits, and one with a command of another kind; a MAP PAGES that something outstanding holds. -/
theorem witness_RingCommands_queued :
    let h : PktHdr := { ctx := 0, barrier := false, caddr := 0, cval := 0 }
    let d (w : RingWork) : Dev := fetched.dev.modRing ⟨0, 0⟩ fun r => { r with cmds := [{ n := 0, hdr := h, work := w }] }
    let busy : Dev := fetched.dev.modWarp 0 0 fun w => { w with
      st := 1, stores := [{ Site.blankStore with flight := [{ loc := .phys 0x30000, key := 0, val := 1 }] }] }
    ((d (.wait 0x20000 5 false)).ring ⟨0, 0⟩).cmds.length = 1 ∧
      (d (.wait 0x20000 5 false)).translate 0 0x20000 .read = .ok ⟨0x30000, 0, none⟩ ∧
      leNat ((d (.wait 0x20000 5 false)).readBytes 0 0x30000 8) < 5 ∧
      (d .launch).consumer ⟨0, 0⟩ false = some 0 ∧ busy.accessesHome 0 1 = false := by
  refine ⟨?_, ?_, ?_, ?_, ?_⟩ <;> decide +kernel

/-- A saved context of one warp, with room for it; one asked to stop too long ago (R374, R377). -/
theorem witness_Preemption_back :
    let w : Warp := Warp.fresh 0 0 0 0 0x10004 Mask.all 0
    let k : SavedCore := { core := 0, warps := [(0, w)], allocs := [], bufs := [], regions := [], sram := [], l1 := [], copyQ := [], matQ := []
                           zeros := [], tiles := [], drec := [], tables := [], staging := [], early := [] }
    let y : Saved := { cluster := 0, ctx := 0, cores := [k], binds := [], engine := [] }
    let empty : Dev := { State.reset.dev with contexts := mapped.dev.contexts, saved := [y] }
    let full : Dev := { mapped.dev with saved := [y] }
    let late : Dev := { mapped.dev.modCluster 0 fun c => { c with preempting := [(0, 0)] } with clock := 2 ^ 40 }
    y.cores.all (empty.roomFor 0) = true ∧ y.cores.all (full.roomFor 0) = false ∧ w.isOver = false ∧ w.stores = [] ∧
      (empty.saved.find? fun s => s.cluster == 0 && s.ctx == 0) = some y ∧ empty.warpsOf 0 0 = [] ∧
      Dev.ptimeout placedContext ≤ late.clock := by
  refine ⟨?_, ?_, ?_, ?_, ?_, ?_, ?_⟩ <;> decide +kernel

/-- A warp with a load outstanding on a port; a ring whose one command waits when its firmware is reset (R304, R422). -/
theorem witness_PortsAndResets_lost :
    let p : PLoad := { Site.blankLoad (.v 1) .raw 1 with win := [(2, 0, 0)] }
    let d : Dev := ({ mapped.dev with tasks := [aTask 0 0] }).modWarp 0 0 fun w => { w with ld := 1, loads := [p] }
    (d.slot 0 0).any (fun w => w.status == .running && (d.task? w.task).any (fun t => !t.faulted) &&
      w.loads.any fun l => l.win.any fun x => x.1 == 2) = true ∧ (d.port 2).posted = [] ∧
      fetched.dev.ringCluster ⟨0, 0⟩ = some 0 := by
  refine ⟨?_, ?_, ?_⟩ <;> decide +kernel

/-- An inbound request that reaches the device registers is answered UR (R404). -/
theorem test_inbound_regs : (match exec (.inboundAtomic (.peer 0) 0 false (.swap 1)) base with
    | .next t => t.replies == [.ur]
    | _ => false) = true := by decide +kernel
/-- A 128-bit CAS is answered UR (R402); the capability table begins with its magic number (R416). -/
theorem test_cas128 : (match takeTurn (.cas128 .pf) base with
    | .next t => t.replies == [.ur]
    | _ => false) = true := by decide +kernel

/-- An uncorrectable error at an address that a load reads, and the context of the data (R237). -/
theorem test_ecc_load : ((loading.dev.slot 0 0).bind fun w => w.loads[0]?).any (fun p => Dev.readsSector p 0x30008) = true ∧
    ((loading.dev.slot 0 0).bind fun w => w.loads[0]?).any (fun p => Dev.readsSector p 0x30020) = false ∧
    loading.dev.owners 0x30008 = [0] := by
  refine ⟨?_, ?_, ?_⟩ <;> decide +kernel

/-! ### bxas: the manual's example of a one-slab kernel (Table 3.12, R89) and literals (R85, R292) -/

/-- The statements of the example. -/
def halve : List Bxas.Item :=
  [.instr (.ldg safe (.v 1) (.w 0) 0x40 (some .l32) .b32) (some (BitVec.ofNat 128 (3 * 2 ^ 64))),
   .instr (.ldg plain (.w 2) (.w 0) 0x48 (some .i64) .b64) none, .instr (.waitc plain 0 63 63 63) none,
   .instr (.gmul plain ⟨.v 2, .v 1, .inl 0x1E⟩ 0 .l32 .dflt) none,
   .instr (.stg plain (.w 2) (.v 2) none 0 (some .l32) .b32) none]
/-- The words of a slab that Table 3.12 prints. -/
def halveSlab : List Word :=
  [0x00000001, 0x40017680, 0x00407878, 0x00500000, 0x40427280, 0x00487878, 0x00180000, 0x7878700C, 0xFFC07878, 0x000000FF,
   0x01027032, 0x0000789E, 0x000C0000, 0x42787681, 0x00007802, 0x00100000]
theorem test_bxas_slab :
    ((Bxas.slotsOf 0 halve).bind fun ss => (Bxas.lineOf (Bxas.padTo 256 ss)).map fun ss =>
      ((Bxas.slabsOf 4 0 ss).take 68)) = some (halveSlab.flatMap (fun w => leBytes 4 w.toNat) ++ leBytes 4 0x11) ∧
    ((Bxas.lineOf (Bxas.padTo 256 [Bxas.padding none])).map fun ss => (ss.filterMap (·.safe)).length) = some 1 := by
  refine ⟨?_, ?_⟩ <;> decide +kernel
theorem test_bxas_literals :
    Bxas.realOperand .l32 false (.real false 5 (-1)) = some (0x9E, none) ∧
    Bxas.realOperand .l16 false (.real false 3 0) = some (0x79, some 0x00CB) ∧
    Bxas.realOperand .l16 true (.real false 3 0) = none ∧ Bxas.codeOf .l8a (.real false 1 9) = none ∧
    Bxas.intOperand false (-64) = some (0xC0, none) ∧
    (Bxas.tcb [("codeobj", 0x41), ("warps", 1)]).map leNat = some (0x41 + 2 ^ 128 + 2 ^ 153) := by
  refine ⟨?_, ?_, ?_, ?_, ?_, ?_⟩ <;> decide +kernel

/-! ### States for the clauses that speak of several forms -/

/-- Values of L16: sums of logs within the range, above it and below it, a first NaN, ordered keys, a product for GEXP2 (R58, R61, R106,
R108, R111). -/
theorem witness_RealOperations_values :
    let h : Int := 2 ^ (Fmt.logBits .l16 - 1)
    (-h ≤ 5 + 7 ∧ (5 : Int) + 7 < h) ∧ h ≤ (h - 1) + 1 ∧ -h - 1 < -h ∧
    Num.firstNan [.nan false 1, .fin false 0] = some (.nan false 1) ∧
    Num.key .l16 (.fin true 0) = some (-h - 1) ∧ Num.key .l16 (.fin false 0) = some (h + 1) ∧ Num.key .l16 (.nan true 1) = none ∧
    mulNum (.fin true 3) (.inf true) = some (.inf false) ∧ mulNum (.zero false) (.inf true) = none ∧
    (3 : Int) % 2 = 1 := by
  refine ⟨?_, ?_, ?_, ?_, ?_, ?_, ?_, ?_, ?_, ?_⟩ <;> decide +kernel

/-- A fault in a handler of a code that Rhizome resolves (R368). -/
theorem witness_FaultTaking_nested :
    let s : State := with_ (handling 0)
    (s.dev.slot 0 0).any (fun w => w.inHandler) = true ∧ s.dev.context 0 = some placedContext ∧
      codeRank (FaultInfo.settle false (.warpWide Code.notres 1)).code = 0 ∧ Code.notres < 0x10 ∧
      placedContext.hmask.testBit 15 = false := by
  refine ⟨?_, ?_, ?_, ?_, ?_⟩ <;> decide +kernel

/-- A task with bands of two of its three warps, on a core with room, on two cores, and as a gang on two (R164 to R166). -/
theorem witness_TaskStarts_bands :
    let t (g : Nat) : Task := { aTask 0 (BitVec.ofNat 512 (3 * 2 ^ 128 + g * 2 ^ 152 + 2 * 2 ^ 160)) with placed := 0, state := .ready }
    let d (g : Nat) : Dev := { base.dev with tasks := [t g] }
    let made (g : Nat) (ks : List CoreIx) (id : BitVec 8) : Option Dev :=
      ks.eraseDups.foldl (fun o k => o.bind fun e => e.prepare (t g) (.band id) k) (some { d g with draw := (d g).draw + 1 })
    (d 0).task? 0 = some (t 0) ∧ (d 0).mayBind 0 0 = true ∧ (t 0).bandsz = 2 ∧ (t 0).warpCount = 3 ∧ (t 0).gang = false ∧
      (t 1).gang = true ∧ [coreOf 0 0, coreOf 0 0].length = min (t 0).bandsz ((t 0).warpCount - (t 0).placed) ∧
      ([coreOf 0 0, coreOf 0 0] : List CoreIx).eraseDups.length = 1 ∧ ([coreOf 0 0, coreOf 0 1] : List CoreIx).eraseDups.length ≠ 1 ∧
      2 ≤ (d 0).coreFree (coreOf 0 0) ∧ (made 0 [coreOf 0 0, coreOf 0 0] 9).isSome = true ∧
      (made 1 [coreOf 0 0, coreOf 0 1] 9).isSome = true := by
  refine ⟨?_, ?_, ?_, ?_, ?_, ?_, ?_, ?_, ?_, ?_, ?_, ?_⟩ <;> decide +kernel

/-- An update of several additions to one word with a MAXLOG, in the record's generation; one whose store has bytes at a port; a record
in a protected frame (R337, R341, R405). -/
theorem witness_StatisticsUpdates_several :
    let u (pa : Nat) (b : Option (CoreIx × SlotIx × Nat)) : TsrSend := {
      ctx := 0, pa := pa, key := 0, gen := 7
      delta := { adds := [(6, 3), (40, 1), (40, 2), (6, 1)], maxlog := some 0x01600000 }, by_ := b }
    let w : Posted := { by_ := some (0, 0), ctx := 0, seq := 3, bytes := [] }
    let posted : Dev := (quantising 0).dev.modPort 2 fun p => { p with posted := [w] }
    (quantising 0).dev.tsrWord 0 0x30800 0 = (u 0x30800 none).gen ∧
      (u 0x30800 none).delta.adds.all (fun a => a.1 < 64 && a.1 != 7) = true ∧
      ((Num.ofCode .l32 0x40000000).isNan || (Num.ofCode .l32 0x01600000).isNan) = false ∧
      (Num.ofCode .l32 0x60000000).isNan = true ∧ posted.updateHeld (u 0x30800 (some (0, 0, 3))) = true ∧
      (quantising 0).dev.isProtected (0x10000 / 0x10000) = true ∧ paKind 0x10000 = .dram := by
  refine ⟨?_, ?_, ?_, ?_, ?_, ?_, ?_⟩ <;> decide +kernel

/-- MAP EXEC of two pages that can be scanned; and of two of which one cannot (R413). -/
theorem witness_CodePackets_pages :
    let two : Dev := fetched.dev.putRaw 0x22818 (leBytes 8 0x40000000F)
    Dev.pagesOf 0x20000 2 = [0x20000, 0x30000] ∧ Dev.spanOk 0x20000 2 = true ∧
      (two.scanPlace 0 0x20000).isSome = true ∧ (two.scanPlace 0 0x30000).isSome = true ∧
      fetched.dev.scanPlace 0 0x30000 = none := by
  refine ⟨?_, ?_, ?_, ?_, ?_⟩ <;> decide +kernel

/-- The window of a VF onto its context's page at 0x20000, and onto the PF's register page: TAIL of ring 0, and a PF-only register
(R404, R408). -/
theorem witness_InboundRequests_vf :
    let d : Dev := ((((described (1#2048 <<< 100)).dev.putRaw 0x22818 (leBytes 8 0xFF0000100000000F)).modFn 1 fun f => { f with
      inctx := 0, inva := 0x20000 }))
    d.partOf 0 = 1 ∧ d.inOk (.vf 0) 8 4 512 = true ∧
      (match d.inPlaces (.vf 0) 8 2 .write with
        | .ok ps => ps == [(0x30008, 0), (0x30009, 0)]
        | _ => false) = true ∧
      (match d.inPlaces (.vf 0) 0x10250 4 .write with
        | .ok ps => ps.map (·.1) == [0xFF0000100250, 0xFF0000100251, 0xFF0000100252, 0xFF0000100253]
        | _ => false) = true ∧
      (d.regSpan 0 0x250).any (fun x => x.1 == 0x250 && x.2.1 == 4) = true ∧ Dev.inFn (.vf 0) ≠ 0 := by
  refine ⟨?_, ?_, ?_, ?_, ?_, ?_⟩ <;> decide +kernel

/-- No ring enabled; one whose head is MAP KEY when the management core is reset; a module in bring-up, and one without power (R422, R439,
R442). -/
theorem witness_PortsAndResets_more :
    let h : PktHdr := { ctx := 0, barrier := false, caddr := 0, cval := 0 }
    let d : Dev := fetched.dev.putRaw 0x40000 [6, 3]
    let b : Board := { base.board with stage := 4 }
    (∀ f r, (base.dev.ring ⟨f, r⟩).enable = false) ∧ (∀ f r, (f, r) ≠ (0, 0) → (d.ring ⟨f, r⟩).enable = false) ∧
      (d.headPacket ⟨0, 0⟩).bind Packet.cmd = some (.mapKey ⟨0, 0⟩ h 0 0) ∧ d.consumer ⟨0, 0⟩ h.barrier ≠ none ∧
      portOf (d.ring ⟨0, 0⟩).base.toNat = none ∧ b.answers = false ∧ b.power = true ∧ b.on = false ∧
      (match exec .junctionTrip base with
        | .next t => t.board.power
        | _ => true) = false := by
  refine ⟨?_, ?_, ?_, ?_, ?_, ?_, ?_, ?_, ?_⟩ <;> decide +kernel

/-- A running operation that waits for a table set while a TBLD stands at the head (R324). -/
theorem witness_MatrixSteps_waiting :
    let src : LocalRef := { core := 0, alloc := 7, off := 0, addr := 0x00FC0000 }
    let d : Dev := (buffered { aBuffer with filled := 0 }).dev.modCore 0 fun c => { c with
      running := some (.op 1 { core := 0, slot := 0, ctx := 0, task := 0 } (2#1024 <<< 375) 0 [] [] [] (some (src, 3))) }
    d.pullWaits (d.core 0) = true := by
  decide +kernel

/-- A load whose two lanes read one word of the pool of statistics records (R347). -/
theorem witness_StatisticsInstructions_lanes :
    let l (n : Lane) : LaneLoad := { lane := n, va := 0x20808, l1 := true, bytes := (List.range 4).map fun i => .home (.phys (0x30808 + i)) 0 }
    let p : PLoad := { Site.blankLoad (.v 1) .i32 1 with lanes := [l 0, l 1] }
    let s : State := (quantising 0).onDev fun d => d.modWarp 0 0 fun w => { w with ld := 1, loads := [p] }
    (s.dev.slot 0 0).any (fun w => w.loads[0]? == some p) = true ∧ s.dev.inPool 0 0x20808 = true ∧ s.dev.inPool 0 0x20000 = false := by
  refine ⟨?_, ?_, ?_⟩ <;> decide +kernel

end Sys2Proof.Tests
end

section
/-! Numbers by their bits: what `ofBits` builds, and the bit fields of BFE and BFI as the bits that R98 names. -/

namespace Sys2Proof.Machine

theorem ofBits_succ (n : Nat) (f : Nat → Bool) : ofBits (n + 1) f = ofBits n f + if f n then 2 ^ n else 0 := by
  unfold ofBits
  rw [List.range_succ, List.foldl_append]
  simp only [List.foldl_cons, List.foldl_nil]
  split <;> rfl

/-- A number is `ofBits n f` where it has no bit from `n` on and `f` gives its bits below. -/
theorem eq_ofBits {n x : Nat} {f : Nat → Bool} (hx : x < 2 ^ n) (h : ∀ i < n, x.testBit i = f i) : x = ofBits n f := by
  induction n generalizing x with
  | zero => exact Nat.lt_one_iff.mp hx
  | succ n ih =>
    have low : x % 2 ^ n = ofBits n f := ih (Nat.mod_lt _ (Nat.two_pow_pos n)) fun i hi => by
      rw [Nat.testBit_mod_two_pow, h i (by omega), decide_eq_true hi, Bool.true_and]
    have top : x / 2 ^ n < 2 := Nat.div_lt_of_lt_mul (by rwa [Nat.pow_succ] at hx)
    have bit : decide (x / 2 ^ n = 1) = f n := by
      rw [← h n n.lt_succ_self, Nat.testBit_eq_decide_div_mod_eq, Nat.mod_eq_of_lt top]
    rw [ofBits_succ, ← low, ← bit]
    conv_lhs => rw [← Nat.mod_add_div x (2 ^ n)]
    obtain h0 | h1 : x / 2 ^ n = 0 ∨ x / 2 ^ n = 1 := Nat.le_one_iff_eq_zero_or_eq_one.mp (Nat.lt_succ_iff.mp top)
    · simp [h0]
    · simp [h1]

/-- Sign extension of `n` bits into `m`: `wrapN` of `sextN` is that of bit vectors. -/
theorem wrapN_sextN (m n x : Nat) (hn : 0 < n) : wrapN m (sextN n x) = ((BitVec.ofNat n x).signExtend m).toNat := by
  have toInt : sextN n x = (BitVec.ofNat n x).toInt := by
    obtain ⟨k, rfl⟩ : ∃ k, n = k + 1 := ⟨n - 1, by omega⟩
    rw [BitVec.toInt_eq_toNat_cond, BitVec.toNat_ofNat, sextN, Nat.add_sub_cancel, Nat.pow_succ]
    refine if_congr ?_ rfl rfl
    omega
  rw [toInt, BitVec.signExtend, BitVec.toNat_ofInt]
  rfl

theorem testBit_wrapN_sextN {m n x i : Nat} (hn : 0 < n) (hi : i < m) :
    (wrapN m (sextN n x)).testBit i = x.testBit (min i (n - 1)) := by
  rw [wrapN_sextN m n x hn, BitVec.testBit_toNat, BitVec.getLsbD_signExtend, BitVec.getLsbD_ofNat, BitVec.msb_eq_getLsbD_last,
    BitVec.getLsbD_ofNat]
  by_cases h : i < n
  · rw [Nat.min_eq_left (by omega)]; simp [hi, h]
  · rw [Nat.min_eq_right (by omega)]; simp [hi, h, hn]

theorem wrapN_lt (n : Nat) (z : Int) : wrapN n z < 2 ^ n := by
  have := Int.emod_lt_of_pos z (b := ((2 ^ n : Nat) : Int)) (by exact_mod_cast Nat.two_pow_pos n)
  have := Int.emod_nonneg z (b := ((2 ^ n : Nat) : Int)) (by exact_mod_cast (Nat.two_pow_pos n).ne')
  unfold wrapN
  omega

theorem testBit_field (x p n i : Nat) : (x / 2 ^ p % 2 ^ n).testBit i = (decide (i < n) && x.testBit (p + i)) := by
  rw [Nat.testBit_mod_two_pow, Nat.testBit_div_two_pow, Nat.add_comm i p]

/-- BFE by its bits: those of the field, then copies of its top bit, or zeros under N (R98). -/
theorem bfeBits_eq_ofBits (uns : Bool) (x p l : Nat) :
    bfeBits uns x p l = ofBits 32 fun i => l != 0 && decide (p < 32) &&
      if p + i ≤ min (p + l) 32 - 1 then x.testBit (p + i) else !uns && x.testBit (min (p + l) 32 - 1) := by
  unfold bfeBits
  by_cases h : l = 0 ∨ 32 ≤ p
  · rw [if_pos h]
    refine eq_ofBits (by decide) fun i _ => ?_
    obtain rfl | hp := h
    · simp
    · simp [Nat.not_lt.mpr hp]
  · rw [if_neg h]
    obtain ⟨hl, hp⟩ := not_or.mp h
    have hp : p < 32 := Nat.not_le.mp hp
    generalize hn : min (p + l) 32 - p = n
    have top : min (p + l) 32 - 1 = p + (n - 1) := by omega
    have n_pos : 0 < n := by omega
    have n_le : n ≤ 32 := by omega
    have small : x / 2 ^ p % 2 ^ n < 2 ^ 32 :=
      (Nat.mod_lt _ (Nat.two_pow_pos n)).trans_le (Nat.pow_le_pow_right (by decide) n_le)
    have inside (i : Nat) : p + i ≤ p + (n - 1) ↔ i < n := by omega
    have guard : (l != 0 && decide (p < 32)) = true := by simp [hl, hp]
    simp only [top, inside, guard, Bool.true_and]
    cases uns with
    | true =>
      refine eq_ofBits small fun i _ => ?_
      rw [if_pos rfl, testBit_field]
      by_cases hi : i < n <;> simp [hi]
    | false =>
      refine eq_ofBits (wrapN_lt 32 _) fun i hi => ?_
      rw [if_neg Bool.false_ne_true, testBit_wrapN_sextN n_pos hi, testBit_field]
      by_cases hin : i < n
      · rw [Nat.min_eq_left (by omega)]; simp [hin]
      · rw [Nat.min_eq_right (by omega)]; simp [hin, n_pos]

/-- The number `x` with its `n` bits from bit `p` on replaced by the low bits of `y`, as BFI computes it. -/
def putField (x y p n : Nat) : Nat := x - x / 2 ^ p % 2 ^ n * 2 ^ p + y % 2 ^ n * 2 ^ p

theorem testBit_putField (x y p n i : Nat) :
    (putField x y p n).testBit i = if p ≤ i ∧ i < p + n then y.testBit (i - p) else x.testBit i := by
  have parts : putField x y p n = 2 ^ p * (2 ^ n * (x / 2 ^ p / 2 ^ n) + y % 2 ^ n) + x % 2 ^ p := by
    have low := Nat.div_add_mod x (2 ^ p)
    have mid := Nat.div_add_mod (x / 2 ^ p) (2 ^ n)
    have whole : x = 2 ^ p * (2 ^ n * (x / 2 ^ p / 2 ^ n) + x / 2 ^ p % 2 ^ n) + x % 2 ^ p := by rw [mid, low]
    have : x - x / 2 ^ p % 2 ^ n * 2 ^ p = 2 ^ p * (2 ^ n * (x / 2 ^ p / 2 ^ n)) + x % 2 ^ p := by
      refine Nat.sub_eq_of_eq_add ?_
      conv_lhs => rw [whole]
      ring
    rw [putField, this]
    ring
  rw [parts, Nat.testBit_two_pow_mul_add _ (Nat.mod_lt _ (Nat.two_pow_pos p)),
    Nat.testBit_two_pow_mul_add _ (Nat.mod_lt _ (Nat.two_pow_pos n)), Nat.testBit_mod_two_pow, Nat.testBit_mod_two_pow,
    Nat.testBit_div_two_pow, Nat.testBit_div_two_pow]
  by_cases below : i < p
  · simp [below, Nat.not_le.mpr below]
  · by_cases within : i - p < n
    · simp [below, within, show p ≤ i ∧ i < p + n by omega]
    · simp [below, within, show ¬(p ≤ i ∧ i < p + n) by omega, show i - p - n + n + p = i by omega]

theorem putField_lt {x y p n m : Nat} (hx : x < 2 ^ m) (h : p + n ≤ m) : putField x y p n < 2 ^ m :=
  Nat.lt_pow_two_of_testBit _ fun i hi => by
    rw [testBit_putField, if_neg (by omega)]
    exact Nat.testBit_lt_two_pow (hx.trans_le (Nat.pow_le_pow_right (by decide) hi))

/-- BFI by its bits: those of the inserted value inside the field, those of the base outside (R98). -/
theorem bfiBits_eq_ofBits {base : Nat} (hb : base < 2 ^ 32) (ins ctl : Nat) :
    bfiBits base ins ctl = ofBits 32 fun i =>
      if ctl % 256 ≤ i ∧ i < ctl % 256 + ctl / 256 % 256 then ins.testBit (i - ctl % 256) else base.testBit i := by
  unfold bfiBits
  generalize ctl % 256 = p, ctl / 256 % 256 = l
  by_cases h : l = 0 ∨ 32 ≤ p
  · rw [if_pos h]
    exact eq_ofBits hb fun i hi => by rw [if_neg (by omega)]
  · rw [if_neg h]
    change putField base ins p (min l (32 - p)) = _
    refine eq_ofBits (putField_lt hb (by omega)) fun i hi => ?_
    rw [testBit_putField]
    refine if_congr ?_ rfl rfl
    omega

end Sys2Proof.Machine
end

section
/-! The statements about the integer group. Its instructions answer on registers alone, as `checked` decides, so `regs_of`
settles each from the form of its write. -/

namespace Sys2Proof

open Machine

/-- Settles O8: every instruction of Table 4.1 writes one field marked *, or takes FORMAT. -/
theorem integerArithmetic : Obligations.IntegerArithmetic := by
  intro s c imm w W N S o e u hf
  refine ⟨?iadd, ?isub, ?imul, ?imulh, ?imin, ?imax, ?imad, ?iabs, ?ineg⟩
  case iadd | isub | imul | imulh | imin | imax | imad | iabs | ineg =>
    exact regs_of (imm := imm) hf (.setStar ..) rfl rfl

/-- Settles O9: the forms of Table 4.2, where BFE and BFI compute the fields that R98 gives bit by bit. -/
theorem bitOperations : Obligations.BitOperations := by
  intro s c imm w W N table o e u hf
  refine ⟨?shl, ?shr, ?sar, ?rot, ?and, ?or, ?xor, ?not, ?brev, ?popc, ?clz, ?bfe, ?bfi, ?bfn3⟩
  case shl | shr | sar | rot | and | or | xor | not | brev =>
    exact regs_of (imm := imm) hf (.setStar ..) rfl rfl
  case popc | clz => exact regs_of (imm := imm) hf (.setDst ..) rfl rfl
  case bfe =>
    refine regs_of (imm := imm) hf (.setDst ..) rfl ?_
    simp only [bfeBits_eq_ofBits]
    rfl
  case bfi =>
    refine regs_of (imm := imm) hf (.setDst ..) rfl ?_
    simp only [bfiBits_eq_ofBits (BitVec.isLt _)]
    rfl
  case bfn3 => exact regs_of (imm := 0) hf (.setStar ..) rfl rfl

end Sys2Proof
end

section
/-! What the site of an instruction shows its meaning, and an instruction whose meaning answers a fault; chain operations where no
chain is bound. -/

namespace Sys2Proof.Machine

variable {s : State} {i : Instr} {c : Ctl} {w : Warp} {imm : Word}

@[simp] theorem State.site_w : (s.site c imm w).w = w := rfl
@[simp] theorem State.site_p : (s.site c imm w).p = Dev.participants w c := rfl
@[simp] theorem State.site_d : (s.site c imm w).d = s.dev := rfl

/-- An instruction whose meaning answers one fault for all its lanes, which waits for no walk and no atomic operation. -/
theorem faults_warpWide_of {f : Site → Act} {code : Nat} {m : Mask} (walk : code ≠ Code.walk) (atomic : code ≠ Code.atomic)
    (ex : exec i s = issue i c imm f s) (e : f (s.site c imm w) = .fault s.dev (.warpWide code m)) :
    s.Issues i c w → s.Faults i c w (.warpWide code m) := fun h =>
  ex.trans (issue_fault h (walks_warpWide walk ..) (afterAtomic_warpWide atomic ..) e)

/-- The first of R202's checks: without a binding no other check is made. -/
theorem Site.chainOp_unbound {x : Site} (h : x.w.chain = none) (regs srcs : List (Fin 64)) (tagsOk : Bool)
    (f : Chain → List Seg → Act) : x.chainOp regs srcs tagsOk f = .fault x.d (.warpWide Code.limbUnbound x.p) := by
  rw [Site.chainOp, h]

/-- A chain operation without a binding takes LIMB_UNBOUND, whatever it reads and writes (R202). -/
theorem faults_limbUnbound_of {regs srcs : List (Fin 64)} {tagsOk : Site → Bool} {f : Site → Chain → List Seg → Act}
    (hw : w.chain = none) (ex : exec i s = issue i c imm (fun x => x.chainOp regs srcs (tagsOk x) (f x)) s) :
    s.Issues i c w → s.Faults i c w (.warpWide Code.limbUnbound (Dev.participants w c)) :=
  faults_warpWide_of (by decide) (by decide) ex (Site.chainOp_unbound hw ..)

end Sys2Proof.Machine
end

section
/-! The statement about the binding of limb chains: what BIND and UNBIND answer, by their lanes and the chain that is bound. -/

namespace Sys2Proof

open Machine

section

variable {s : State} {c : Ctl} {w : Warp} {seg : Fin 5} {first : Fin 64} {n : BitVec 7}

/-- BIND with every lane: the new range's registers become LIMB, the others of the earlier range I32 (R200). -/
theorem bind_writes (hf : s.Follows c w) (all : Dev.participants w c = Mask.all) :
    let b : Chain := { seg := seg, first := first, count := n.toNat }
    s.Issues (.bind c seg first n) c w → s.Writes (.bind c seg first n) { w with
      chain := some b, carry := 0
      vt := Vector.ofFn fun r =>
        if b.has r then .limb else if w.chain.any fun o => o.has r then .i32 else w.vTag r } :=
  writes_of (imm := 0) hf ⟨rfl, rfl, rfl, rfl⟩ rfl (if_neg (not_not.mpr all))

theorem bind_faults_of_not_all (some_off : Dev.participants w c ≠ Mask.all) : s.Issues (.bind c seg first n) c w →
    s.Faults (.bind c seg first n) c w (.warpWide Code.limbDiverge (Dev.participants w c)) :=
  faults_warpWide_of (imm := 0) (by decide) (by decide) rfl (if_pos some_off)

theorem unbind_faults_of_not_all (some_off : Dev.participants w c ≠ Mask.all) : s.Issues (.unbind c first n) c w →
    s.Faults (.unbind c first n) c w (.warpWide Code.limbDiverge (Dev.participants w c)) :=
  faults_warpWide_of (imm := 0) (by decide) (by decide) rfl (if_pos some_off)

/-- UNBIND of a range that is not the bound one, with every lane (R201). -/
theorem unbind_faults_of_not_bound (all : Dev.participants w c = Mask.all)
    (other : (w.chain.any fun o => o.first == first && o.count == n.toNat) = false) : s.Issues (.unbind c first n) c w →
    s.Faults (.unbind c first n) c w (.warpWide Code.limbUnbound (Dev.participants w c)) := by
  refine faults_warpWide_of (imm := 0) (by decide) (by decide) rfl ?_
  cases hw : w.chain with
  | none => simp [all, hw]
  | some o =>
    have differs : o.first ≠ first ∨ o.count ≠ n.toNat := by
      simpa [hw, ← not_and_or] using other
    simp [all, hw, differs]

/-- UNBIND of the bound range, with every lane: its registers become I32 (R201). -/
theorem unbind_writes (hf : s.Follows c w) (all : Dev.participants w c = Mask.all) {o : Chain} (bound : w.chain = some o)
    (same_first : o.first = first) (same_count : o.count = n.toNat) :
    s.Issues (.unbind c first n) c w → s.Writes (.unbind c first n) { w with
      chain := none, vt := Vector.ofFn fun r => if o.has r then .i32 else w.vTag r } := by
  refine writes_of (imm := 0) hf ⟨rfl, rfl, rfl, rfl⟩ rfl ?_
  simp [all, bound, same_first, same_count]

end

/-- Settles O14: BIND and UNBIND by the lanes that take part and the chain bound before; the chain operations share the check
of `Site.chainOp`. -/
theorem chainBinding : Obligations.ChainBinding := by
  refine ⟨fun s c w seg first n hf => ⟨fun h => ?bind, fun h => ?unbind⟩, fun s c imm off w d a e b pd dst ci ar cmp hw => ?unbound⟩
  case bind => exact ⟨fun all => bind_writes hf all h, fun some_off => bind_faults_of_not_all some_off h⟩
  case unbind =>
    exact ⟨fun some_off => unbind_faults_of_not_all some_off h, fun all other => unbind_faults_of_not_bound all other h,
      fun all _ bound same_first same_count => unbind_writes hf all bound same_first same_count h⟩
  case unbound =>
    simp only [List.forall_mem_cons, List.not_mem_nil, false_implies, implies_true, and_true]
    refine ⟨?chadd, ?chsub, ?chneg, ?chshl, ?chshr, ?chcmp, ?chmvc, ?chmad, ?chld, ?chst⟩
    case chadd | chsub | chneg | chcmp | chmvc | chld | chst => exact faults_limbUnbound_of (imm := 0) hw rfl
    case chshl | chshr | chmad => exact faults_limbUnbound_of (imm := imm) hw rfl

end Sys2Proof
end
